-- ==== Sys2Proof/Word.lean ====
section
/-! DEFINITION. The word type of the Onak architecture and its plainest arithmetic (R4, R57). -/

namespace Sys2Proof

/-- A register or address word: 64 bits (R37). -/
abbrev Word := BitVec 64

/-- A byte of memory (R4). -/
abbrev Byte := BitVec 8

/-- A vector register, and a 64-byte memory line: 512 bits (R37, R40). -/
abbrev Line := BitVec 512

end Sys2Proof
end

