-- ==== Sys2Proof/Machine/Packet.lean ====
section
/-! DEFINITION. The packets and flits that cross the cube and its links, as the fields of R291, R293 and R294 give them.
The fields are the header's and the envelope's; bookkeeping fields of the model are marked so. -/

namespace Sys2Proof.Machine

open Sys2Proof

/-- What a packet is for. R294 gives the TYPE code of each kind; the control codes of the three kinds of TYPE 0x08 are not
given, so the kind itself is kept. -/
inductive PktKind where
  /-- TYPE 0x01. -/
  | user
  /-- TYPE 0x02. -/
  | builtin
  /-- TYPE 0x03. -/
  | response
  /-- TYPE 0x04. -/
  | ack
  /-- TYPE 0x05. -/
  | engineData
  /-- TYPE 0x06. -/
  | reduce
  /-- TYPE 0x07. -/
  | multicast
  /-- TYPE 0x08, a launch start (R27). -/
  | launchStart
  /-- TYPE 0x08, an engagement acknowledgement (R35). -/
  | engagementAck
  /-- TYPE 0x08, a RESYNC (R298). -/
  | resync
  /-- TYPE 0x09. -/
  | drain
  /-- TYPE 0x0A. -/
  | management
  deriving DecidableEq, Repr, Inhabited

/-- A packet (R293): header fields, envelope fields, and the payload as 64-bit words, four to a flit. `wid` and `ord` are
the model's own marks: the work that sent it (0 for none), where its completion is counted (R15, R147), its number among
sends and operations, and, in an answer inside the cube, the number of the request. -/
structure Packet where
  kind : PktKind
  dcube : Nat
  dunit : Nat
  scube : Nat
  sunit : Nat
  hcls : Nat
  ocls : Nat
  seq : Nat
  ctx : Nat
  pri : Nat
  conf : Bool
  mcast : Bool
  aux : BitVec 16
  ts : BitVec 32
  reply : BitVec 60
  ply : BitVec 16
  gen : BitVec 8
  tspec : BitVec 12
  payload : List Word
  wid : Nat
  ord : Nat
  req : Nat
  /-- the sender's instruction waits for its result. -/
  awaited : Bool := false
  /-- major opcode of the instruction that sent it (R49). -/
  major : Nat := 0
  /-- the packet has moved to virtual channel 1 (R296, R297). -/
  vc : Bool := false
  /-- in a request that an old home has forwarded (R308): who sent it, as `originWord` says. -/
  origin : Option Word := none
  deriving DecidableEq, Repr, Inhabited

/-- A link flit (R291): 32 bytes and its 48-bit side band. -/
structure Flit where
  lsn : BitVec 12
  epoch : Bool
  head : Bool
  crc : BitVec 32
  data : BitVec 256
  /-- the virtual channel that carries it (R296); no bit of the side band. -/
  vc : Bool := false
  deriving DecidableEq, Repr, Inhabited

end Sys2Proof.Machine
end

