-- ==== Sys2Proof/Syntax.lean ====
section
/-! DEFINITION. The instructions and events of the H4: one constructor for each row of spec/opcode_table.json,
those with operands first. 248 rows are instructions with an encoding (R79 to R83); their operands are the fields of the
encoding, destination first. 111 rows are the machine's own steps (spec/95_what_each_step_holds.md): they have no encoding
and no operand; which core, link or queue a step concerns, and what it carries into the cube from outside, stands in the state's input (Machine/State.lean, Input). -/

namespace Sys2Proof

open Sys2Proof.Machine

/-- One row of the opcode table: an instruction, or a step of the machine that no instruction word encodes. -/
inductive Instr where
  /-- R98: x[rd] := x[ra] + x[rb], wrapping modulo 2^64. -/
  | add (d : Fin 32) (a : Fin 32) (b : Fin 32)
  /-- R98: x[rd] := x[ra] - x[rb], wrapping. -/
  | sub (d : Fin 32) (a : Fin 32) (b : Fin 32)
  /-- R98: Bitwise AND of two x registers. -/
  | and (d : Fin 32) (a : Fin 32) (b : Fin 32)
  /-- R98: Bitwise OR of two x registers. -/
  | or (d : Fin 32) (a : Fin 32) (b : Fin 32)
  /-- R98: Bitwise XOR of two x registers. -/
  | xor (d : Fin 32) (a : Fin 32) (b : Fin 32)
  /-- R98: x[ra] AND NOT x[rb]. -/
  | andn (d : Fin 32) (a : Fin 32) (b : Fin 32)
  /-- R98: Shift left by bits [5:0] of x[rb]. -/
  | shl (d : Fin 32) (a : Fin 32) (b : Fin 32)
  /-- R98: Logical shift right by bits [5:0] of x[rb]. -/
  | shr (d : Fin 32) (a : Fin 32) (b : Fin 32)
  /-- R98: Arithmetic shift right by bits [5:0] of x[rb]. -/
  | sha (d : Fin 32) (a : Fin 32) (b : Fin 32)
  /-- R98: Rotate right by bits [5:0] of x[rb]. -/
  | rot (d : Fin 32) (a : Fin 32) (b : Fin 32)
  /-- R98: Signed minimum. -/
  | min (d : Fin 32) (a : Fin 32) (b : Fin 32)
  /-- R98: Signed maximum. -/
  | max (d : Fin 32) (a : Fin 32) (b : Fin 32)
  /-- R98: Unsigned minimum. -/
  | minu (d : Fin 32) (a : Fin 32) (b : Fin 32)
  /-- R98: Unsigned maximum. -/
  | maxu (d : Fin 32) (a : Fin 32) (b : Fin 32)
  /-- R98: 1 if x[ra] < x[rb] signed, else 0. -/
  | slt (d : Fin 32) (a : Fin 32) (b : Fin 32)
  /-- R98: 1 if x[ra] < x[rb] unsigned, else 0. -/
  | sltu (d : Fin 32) (a : Fin 32) (b : Fin 32)
  /-- R98: 1 if x[ra] = x[rb], else 0. -/
  | seq (d : Fin 32) (a : Fin 32) (b : Fin 32)
  /-- R98: x[ra] if x[rc] is nonzero, else x[rb]. -/
  | sel (d : Fin 32) (a : Fin 32) (b : Fin 32) (c : Fin 32)
  /-- R98: Low 64 bits of the product. -/
  | mul (d : Fin 32) (a : Fin 32) (b : Fin 32)
  /-- R98: High 64 bits of the signed 128-bit product. -/
  | mulh (d : Fin 32) (a : Fin 32) (b : Fin 32)
  /-- R98: High 64 bits of the unsigned 128-bit product. -/
  | mulhu (d : Fin 32) (a : Fin 32) (b : Fin 32)
  /-- R99: Signed division truncating toward zero, with defined results for division by zero and overflow. -/
  | div (d : Fin 32) (a : Fin 32) (b : Fin 32)
  /-- R99: Unsigned division. -/
  | divu (d : Fin 32) (a : Fin 32) (b : Fin 32)
  /-- R99: Signed remainder. -/
  | rem (d : Fin 32) (a : Fin 32) (b : Fin 32)
  /-- R99: Unsigned remainder. -/
  | remu (d : Fin 32) (a : Fin 32) (b : Fin 32)
  /-- R98: Count of leading zero bits; 64 for zero. -/
  | clz (d : Fin 32) (a : Fin 32)
  /-- R98: Count of trailing zero bits; 64 for zero. -/
  | ctz (d : Fin 32) (a : Fin 32)
  /-- R98: Number of 1 bits. -/
  | popc (d : Fin 32) (a : Fin 32)
  /-- R98: Bit reversal. -/
  | brev (d : Fin 32) (a : Fin 32)
  /-- R100: Extracts the bit field described by x[rb]. -/
  | bext (d : Fin 32) (a : Fin 32) (b : Fin 32)
  /-- R100: Inserts low bits of x[ra] into the field of x[rd] described by x[rb]. -/
  | bins (d : Fin 32) (a : Fin 32) (b : Fin 32)
  /-- R101: x[rd] := x[ra] + sign-extended imm15. -/
  | addi (d : Fin 32) (a : Fin 32) (im : BitVec 15)
  /-- R101: AND with sign-extended immediate. -/
  | andi (d : Fin 32) (a : Fin 32) (im : BitVec 15)
  /-- R101: OR with sign-extended immediate. -/
  | ori (d : Fin 32) (a : Fin 32) (im : BitVec 15)
  /-- R101: XOR with sign-extended immediate. -/
  | xori (d : Fin 32) (a : Fin 32) (im : BitVec 15)
  /-- R101: Signed compare with immediate. -/
  | slti (d : Fin 32) (a : Fin 32) (im : BitVec 15)
  /-- R101: Unsigned compare with sign-extended immediate. -/
  | sltiu (d : Fin 32) (a : Fin 32) (im : BitVec 15)
  /-- R101: Shift left by an immediate count. -/
  | shli (d : Fin 32) (a : Fin 32) (sz : Fin 64)
  /-- R101: Logical shift right by an immediate count. -/
  | shri (d : Fin 32) (a : Fin 32) (sz : Fin 64)
  /-- R101: Arithmetic shift right by an immediate count. -/
  | shai (d : Fin 32) (a : Fin 32) (sz : Fin 64)
  /-- R102: x[rd] := sext(imm20) << 15. -/
  | lih (d : Fin 32) (im : BitVec 20)
  /-- R102: x[rd] := PC + (sext(imm20) << 15). -/
  | adpc (d : Fin 32) (im : BitVec 20)
  /-- R110: Branches when x[ra] = x[rb]. -/
  | bcEq (a : Fin 32) (b : Fin 32) (o : BitVec 12)
  /-- R110: Branches when x[ra] differs from x[rb]. -/
  | bcNe (a : Fin 32) (b : Fin 32) (o : BitVec 12)
  /-- R110: Branches on signed less than. -/
  | bcLt (a : Fin 32) (b : Fin 32) (o : BitVec 12)
  /-- R110: Branches on signed greater or equal. -/
  | bcGe (a : Fin 32) (b : Fin 32) (o : BitVec 12)
  /-- R110: Branches on unsigned less than. -/
  | bcLtu (a : Fin 32) (b : Fin 32) (o : BitVec 12)
  /-- R110: Branches on unsigned greater or equal. -/
  | bcGeu (a : Fin 32) (b : Fin 32) (o : BitVec 12)
  /-- R110: Jump and link, PC-relative. -/
  | jl (d : Fin 32) (o : BitVec 20)
  /-- R110: Jump and link to a register plus offset; raises ALIGN on an odd target. -/
  | jlr (d : Fin 32) (a : Fin 32) (im : BitVec 15)
  /-- R111: Decrements the counter and branches while it is nonzero. -/
  | loop (a : Fin 32) (o : BitVec 12)
  /-- R112: Branches if any active mask bit is set. -/
  | bmAny (m : Fin 8) (o : BitVec 12)
  /-- R112: Branches if every active mask bit is set. -/
  | bmAll (m : Fin 8) (o : BitVec 12)
  /-- R112: Branches if no active mask bit is set. -/
  | bmNone (m : Fin 8) (o : BitVec 12)
  /-- R122: Loads 1 to 8 bytes, sign- or zero-extended, under the current PLY. -/
  | ld (d : Fin 32) (b : Fin 32) (sz : Fin 8) (o : BitVec 9)
  /-- R122: Load in the ply-explicit form, with the tag taken from xP. -/
  | ldPly (d : Fin 32) (b : Fin 32) (sz : Fin 8) (p : Fin 32) (o : BitVec 4)
  /-- R122: Stores 1 to 8 bytes through plywrite under the current PLY. -/
  | st (d : Fin 32) (b : Fin 32) (sz : Fin 4) (o : BitVec 9)
  /-- R122: Store in the ply-explicit form, with the tag taken from xP. -/
  | stPly (d : Fin 32) (b : Fin 32) (sz : Fin 4) (p : Fin 32) (o : BitVec 4)
  /-- R125: Waits until the word is full, reads it and sets it empty; a resident block. -/
  | ldfe (d : Fin 32) (b : Fin 32) (o : BitVec 9)
  /-- R125: Waits until the word is full and reads it, leaving it full. -/
  | ldff (d : Fin 32) (b : Fin 32) (o : BitVec 9)
  /-- R125: Reads the full/empty bit of a scratchpad word. -/
  | feget (d : Fin 32) (b : Fin 32) (o : BitVec 9)
  /-- R123: Reads another ply's view with the marked cell bytes merged over the base. -/
  | ldx (d : Fin 32) (b : Fin 32) (sz : Fin 8) (p : Fin 32) (o : BitVec 4)
  /-- R125: Waits until the word is empty, writes it and sets it full. -/
  | stef (d : Fin 32) (b : Fin 32) (o : BitVec 9)
  /-- R125: Writes the word and sets it full. -/
  | stff (d : Fin 32) (b : Fin 32) (o : BitVec 9)
  /-- R125: Sets the full/empty bit from bit 0 of x[rs]. -/
  | feset (d : Fin 32) (b : Fin 32) (o : BitVec 9)
  /-- R130: Atomic add, returning the old value. -/
  | amoAdd (d : Fin 32) (a : Fin 32) (b : Fin 32) (c : Fin 4) (z : Bool)
  /-- R130: Atomic signed minimum. -/
  | amoMin (d : Fin 32) (a : Fin 32) (b : Fin 32) (c : Fin 4) (z : Bool)
  /-- R130: Atomic signed maximum. -/
  | amoMax (d : Fin 32) (a : Fin 32) (b : Fin 32) (c : Fin 4) (z : Bool)
  /-- R130: Atomic unsigned minimum. -/
  | amoMinu (d : Fin 32) (a : Fin 32) (b : Fin 32) (c : Fin 4) (z : Bool)
  /-- R130: Atomic unsigned maximum. -/
  | amoMaxu (d : Fin 32) (a : Fin 32) (b : Fin 32) (c : Fin 4) (z : Bool)
  /-- R130: Atomic AND. -/
  | amoAnd (d : Fin 32) (a : Fin 32) (b : Fin 32) (c : Fin 4) (z : Bool)
  /-- R130: Atomic OR. -/
  | amoOr (d : Fin 32) (a : Fin 32) (b : Fin 32) (c : Fin 4) (z : Bool)
  /-- R130: Atomic XOR. -/
  | amoXor (d : Fin 32) (a : Fin 32) (b : Fin 32) (c : Fin 4) (z : Bool)
  /-- R130: Atomic swap. -/
  | amoSwap (d : Fin 32) (a : Fin 32) (b : Fin 32) (c : Fin 4) (z : Bool)
  /-- R130: Atomic floating add, rounded to nearest-even. -/
  | amoFadd (d : Fin 32) (a : Fin 32) (b : Fin 32) (c : Fin 4) (z : Bool)
  /-- R131: Compare-and-swap on a 64-bit word. -/
  | cas (d : Fin 32) (a : Fin 32) (b : Fin 32) (c : Fin 4)
  /-- R132: Acquires the reader lock, blocking and retrying on failure. -/
  | rlk (d : Fin 32) (a : Fin 32) (c : Fin 4)
  /-- R132: Makes one reader-lock attempt. -/
  | rlkT (d : Fin 32) (a : Fin 32) (c : Fin 4)
  /-- R133: Acquires the writer lock, counting itself in WWAIT and blocking. -/
  | wlk (d : Fin 32) (a : Fin 32) (c : Fin 4)
  /-- R132: Makes one writer-lock attempt. -/
  | wlkT (d : Fin 32) (a : Fin 32) (c : Fin 4)
  /-- R132: Releases a reader hold. -/
  | runlk (d : Fin 32) (a : Fin 32) (c : Fin 4)
  /-- R132: Releases the writer hold. -/
  | wunlk (d : Fin 32) (a : Fin 32) (c : Fin 4)
  /-- R134: Waits until the awaited earlier operations within the scope are performed. -/
  | fence (c : Fin 4) (k : Fin 4)
  /-- R135: Stalls until each outstanding-operation counter is at most its field. -/
  | wait (l : Fin 16) (sz : Fin 16) (c : Fin 16) (t : Fin 16) (m : Fin 16)
  /-- R128: Prefetch hint with no architectural effect. -/
  | pref (h : Bool) (a : Fin 32) (o : BitVec 9)
  /-- R127: Loads a 32-byte tensor map into a tm register. -/
  | tmld (t : Fin 16) (a : Fin 32) (o : BitVec 9)
  /-- R139: Allocates the lowest free ply tag of the quota class, waiting as a resident block when none is available. -/
  | plynew (d : Fin 32)
  /-- R139: Allocates a ply tag, or writes 0 at once. -/
  | plynewNb (d : Fin 32)
  /-- R140: Sets PLY to 0 or to a live tag. -/
  | plyset (a : Fin 32)
  /-- R140: Reads PLY. -/
  | plyget (d : Fin 32)
  /-- R141: Retires a tag and commits its marked bytes to the base asynchronously. -/
  | plyretC (a : Fin 32)
  /-- R141: Retires a tag and discards its cells. -/
  | plyretD (a : Fin 32)
  /-- R142: Queries the state of a tag or of a quota class. -/
  | plyqry (d : Fin 32) (a : Fin 32)
  /-- R104: Floating add, rounded under FPCTL. -/
  | fadd (d : Fin 32) (a : Fin 32) (b : Fin 32) (p : Fin 4)
  /-- R104: Floating subtract. -/
  | fsub (d : Fin 32) (a : Fin 32) (b : Fin 32) (p : Fin 4)
  /-- R104: Floating multiply. -/
  | fmul (d : Fin 32) (a : Fin 32) (b : Fin 32) (p : Fin 4)
  /-- R104: Floating divide. -/
  | fdiv (d : Fin 32) (a : Fin 32) (b : Fin 32) (p : Fin 4)
  /-- R104: Floating square root. -/
  | fsqrt (d : Fin 32) (a : Fin 32) (p : Fin 4)
  /-- R106: Floating minimum, with -0 below +0. -/
  | fmin (d : Fin 32) (a : Fin 32) (b : Fin 32) (p : Fin 4)
  /-- R106: Floating maximum. -/
  | fmax (d : Fin 32) (a : Fin 32) (b : Fin 32) (p : Fin 4)
  /-- R107: Floating comparison EQ, LT, LE or UN into an x register. -/
  | fcmp (d : Fin 32) (a : Fin 32) (b : Fin 32) (p : Fin 4) (k : Fin 4)
  /-- R108: Magnitude of a with the sign of b. -/
  | fsgn (d : Fin 32) (a : Fin 32) (b : Fin 32) (p : Fin 4)
  /-- R108: Magnitude of a with the inverted sign of b. -/
  | fsgnN (d : Fin 32) (a : Fin 32) (b : Fin 32) (p : Fin 4)
  /-- R108: Magnitude of a with the XOR of both signs. -/
  | fsgnX (d : Fin 32) (a : Fin 32) (b : Fin 32) (p : Fin 4)
  /-- R108: Writes a one-hot classification of an f register. -/
  | fclass (d : Fin 32) (a : Fin 32) (p : Fin 4)
  /-- R108: Copies all 64 bits from an f register to an f register. -/
  | fmv (d : Fin 32) (a : Fin 32)
  /-- R108: Copies all 64 bits from an f register to an x register. -/
  | fmvX (d : Fin 32) (a : Fin 32)
  /-- R108: Copies all 64 bits from an x register to an f register. -/
  | fmvF (d : Fin 32) (a : Fin 32)
  /-- R105: Fused a × b + c, rounded once. -/
  | fma (d : Fin 32) (a : Fin 32) (b : Fin 32) (c : Fin 32) (p : Fin 4)
  /-- R105: Fused a × b − c. -/
  | fms (d : Fin 32) (a : Fin 32) (b : Fin 32) (c : Fin 32) (p : Fin 4)
  /-- R105: Fused −(a × b) + c. -/
  | fnma (d : Fin 32) (a : Fin 32) (b : Fin 32) (c : Fin 32) (p : Fin 4)
  /-- R105: Fused −(a × b) − c. -/
  | fnms (d : Fin 32) (a : Fin 32) (b : Fin 32) (c : Fin 32) (p : Fin 4)
  /-- R109: Converts between floating and integer types; may take one RNGST step. -/
  | fcvt (d : Fin 32) (a : Fin 32) (t : Fin 32) (sz : Fin 32)
  /-- R175: Integer vector add. -/
  | vaddI (d : Fin 32) (a : Fin 32) (b : Fin 32) (w : Fin 4) (m : Fin 8)
  /-- R175: Integer vector subtract. -/
  | vsubI (d : Fin 32) (a : Fin 32) (b : Fin 32) (w : Fin 4) (m : Fin 8)
  /-- R175: Integer vector multiply, low bits. -/
  | vmulI (d : Fin 32) (a : Fin 32) (b : Fin 32) (w : Fin 4) (m : Fin 8)
  /-- R175: Signed vector minimum. -/
  | vminI (d : Fin 32) (a : Fin 32) (b : Fin 32) (w : Fin 4) (m : Fin 8)
  /-- R175: Signed vector maximum. -/
  | vmaxI (d : Fin 32) (a : Fin 32) (b : Fin 32) (w : Fin 4) (m : Fin 8)
  /-- R175: Unsigned vector minimum. -/
  | vminUi (d : Fin 32) (a : Fin 32) (b : Fin 32) (w : Fin 4) (m : Fin 8)
  /-- R175: Unsigned vector maximum. -/
  | vmaxUi (d : Fin 32) (a : Fin 32) (b : Fin 32) (w : Fin 4) (m : Fin 8)
  /-- R175: Bitwise vector AND. -/
  | vand (d : Fin 32) (a : Fin 32) (b : Fin 32) (w : Fin 4) (m : Fin 8)
  /-- R175: Bitwise vector OR. -/
  | vor (d : Fin 32) (a : Fin 32) (b : Fin 32) (w : Fin 4) (m : Fin 8)
  /-- R175: Bitwise vector XOR. -/
  | vxor (d : Fin 32) (a : Fin 32) (b : Fin 32) (w : Fin 4) (m : Fin 8)
  /-- R175: Per-lane shift left. -/
  | vshl (d : Fin 32) (a : Fin 32) (b : Fin 32) (w : Fin 4) (m : Fin 8)
  /-- R175: Per-lane logical shift right. -/
  | vshr (d : Fin 32) (a : Fin 32) (b : Fin 32) (w : Fin 4) (m : Fin 8)
  /-- R175: Per-lane arithmetic shift right. -/
  | vsha (d : Fin 32) (a : Fin 32) (b : Fin 32) (w : Fin 4) (m : Fin 8)
  /-- R177: Signed integer vector compare into a mask. -/
  | vcmpI (n : Fin 8) (k : Fin 4) (a : Fin 32) (b : Fin 32) (w : Fin 4) (m : Fin 8)
  /-- R177: Unsigned integer vector compare into a mask. -/
  | vcmpUi (n : Fin 8) (k : Fin 4) (a : Fin 32) (b : Fin 32) (w : Fin 4) (m : Fin 8)
  /-- R177: Selects each lane from a or b by the mask. -/
  | vsel (d : Fin 32) (a : Fin 32) (b : Fin 32) (w : Fin 4) (m : Fin 8)
  /-- R176: Floating vector add. -/
  | vaddF (d : Fin 32) (a : Fin 32) (b : Fin 32) (w : Fin 4) (m : Fin 8)
  /-- R176: Floating vector subtract. -/
  | vsubF (d : Fin 32) (a : Fin 32) (b : Fin 32) (w : Fin 4) (m : Fin 8)
  /-- R176: Floating vector multiply. -/
  | vmulF (d : Fin 32) (a : Fin 32) (b : Fin 32) (w : Fin 4) (m : Fin 8)
  /-- R176: Floating vector divide. -/
  | vdiv (d : Fin 32) (a : Fin 32) (b : Fin 32) (w : Fin 4) (m : Fin 8)
  /-- R176: Floating vector square root. -/
  | vsqrt (d : Fin 32) (a : Fin 32) (w : Fin 4) (m : Fin 8)
  /-- R176: Floating vector minimum. -/
  | vminF (d : Fin 32) (a : Fin 32) (b : Fin 32) (w : Fin 4) (m : Fin 8)
  /-- R176: Floating vector maximum. -/
  | vmaxF (d : Fin 32) (a : Fin 32) (b : Fin 32) (w : Fin 4) (m : Fin 8)
  /-- R177: Floating vector compare into a mask. -/
  | vcmpF (n : Fin 8) (k : Fin 4) (a : Fin 32) (b : Fin 32) (w : Fin 4) (m : Fin 8)
  /-- R178: Per-lane fused a × b + d. -/
  | vfma (d : Fin 32) (a : Fin 32) (b : Fin 32) (w : Fin 4) (m : Fin 8)
  /-- R178: Per-lane fused a × b − d. -/
  | vfms (d : Fin 32) (a : Fin 32) (b : Fin 32) (w : Fin 4) (m : Fin 8)
  /-- R179: BF16 pair dot products accumulated into FP32 lanes. -/
  | vdotBf16 (d : Fin 32) (a : Fin 32) (b : Fin 32) (m : Fin 8)
  /-- R179: FP16 pair dot products into FP32 lanes. -/
  | vdotF16 (d : Fin 32) (a : Fin 32) (b : Fin 32) (m : Fin 8)
  /-- R179: INT8 quad dot products into INT32 lanes. -/
  | vdotI8 (d : Fin 32) (a : Fin 32) (b : Fin 32) (m : Fin 8)
  /-- R179: Unsigned INT8 quad dot products. -/
  | vdotUi8 (d : Fin 32) (a : Fin 32) (b : Fin 32) (m : Fin 8)
  /-- R179: FP32 pair dot products into FP64 lanes. -/
  | vdotF32 (d : Fin 32) (a : Fin 32) (b : Fin 32) (m : Fin 8)
  /-- R180: Contiguous vector load, one access per line. -/
  | vld (d : Fin 32) (a : Fin 32) (w : Fin 4) (m : Fin 8)
  /-- R180: Contiguous vector store, one access per line. -/
  | vst (d : Fin 32) (a : Fin 32) (w : Fin 4) (m : Fin 8)
  /-- R180: Strided vector load, one access per lane. -/
  | vlds (d : Fin 32) (a : Fin 32) (b : Fin 32) (w : Fin 4) (m : Fin 8)
  /-- R180: Strided vector store, one access per lane. -/
  | vsts (d : Fin 32) (a : Fin 32) (b : Fin 32) (w : Fin 4) (m : Fin 8)
  /-- R180: Indexed vector gather. -/
  | vgath (d : Fin 32) (a : Fin 32) (b : Fin 32) (w : Bool) (m : Fin 8)
  /-- R180: Indexed vector scatter. -/
  | vscat (d : Fin 32) (a : Fin 32) (b : Fin 32) (w : Bool) (m : Fin 8)
  /-- R123: Vector load that reads a ply's view merged with the base. -/
  | vldx (d : Fin 32) (a : Fin 32) (b : Fin 32) (w : Fin 4) (m : Fin 8)
  /-- R184: Permutes lanes by an index vector. -/
  | vperm (d : Fin 32) (a : Fin 32) (b : Fin 32) (w : Fin 4) (m : Fin 8)
  /-- R184: Broadcasts an x register to the lanes. -/
  | vbcastX (d : Fin 32) (a : Fin 32) (w : Fin 4) (m : Fin 8)
  /-- R184: Broadcasts an f register to the lanes without inspection. -/
  | vbcastF (d : Fin 32) (a : Fin 32) (w : Fin 4) (m : Fin 8)
  /-- R183: Reduces the lanes in the fixed pairwise tree. -/
  | vred (d : Fin 32) (a : Fin 32) (o : Fin 32) (w : Fin 4) (m : Fin 8)
  /-- R184: Extracts one lane to an x register. -/
  | vext (d : Fin 32) (a : Fin 32) (b : Fin 32) (w : Fin 4)
  /-- R184: Inserts an x register into one lane. -/
  | vins (d : Fin 32) (a : Fin 32) (b : Fin 32) (w : Fin 4)
  /-- R185: Converts elements between types, with RNGST steps under mode 4. -/
  | vcvt (d : Fin 32) (a : Fin 32) (t : Fin 32) (sz : Fin 32) (m : Fin 8)
  /-- R186: Mask AND. -/
  | mand (d : Fin 8) (a : Fin 8) (b : Fin 8)
  /-- R186: Mask OR. -/
  | mor (d : Fin 8) (a : Fin 8) (b : Fin 8)
  /-- R186: Mask XOR. -/
  | mxor (d : Fin 8) (a : Fin 8) (b : Fin 8)
  /-- R186: Mask NOT. -/
  | mnot (d : Fin 8) (a : Fin 8)
  /-- R186: Counts the active set bits of a mask. -/
  | mpop (d : Fin 32) (a : Fin 8)
  /-- R186: Index of the lowest active set bit, or 64. -/
  | mfirst (d : Fin 32) (a : Fin 8)
  /-- R186: Writes a mask from an x register. -/
  | mset (d : Fin 8) (a : Fin 32)
  /-- R186: Reads a mask into an x register. -/
  | mget (d : Fin 32) (a : Fin 8)
  /-- R150: Sends a one-flit active message. -/
  | send (r : Fin 32) (a : Fin 32) (b : Fin 32) (c : Fin 32)
  /-- R150: Sends an active message with a payload read from memory. -/
  | sendv (r : Fin 32) (a : Fin 32) (b : Fin 32)
  /-- R151: Ends the handler, frees the inbox space and optionally sends a response. -/
  | mret (a : Fin 32) (b : Fin 32)
  /-- R152: Offers a 64-byte item to a hardware queue. -/
  | enq (d : Fin 32) (a : Fin 32) (b : Fin 32)
  /-- R152: Takes an item, or suspends parked at the queue. -/
  | deq (a : Fin 32) (b : Fin 32)
  /-- R152: Takes an item if one is present. -/
  | deqNb (d : Fin 32) (a : Fin 32) (b : Fin 32)
  /-- R154: Sends a parameter block to an engine or to die management. -/
  | esend (a : Fin 32) (b : Fin 32)
  /-- R155: Spawns a record at the HOME core of its template. -/
  | tspawn (b : Fin 32)
  /-- R155: Spawns a record at the owner of an operand address. -/
  | tspawnA (a : Fin 32) (b : Fin 32)
  /-- R156: Spawns a record that waits on a dependence counter, returning a handle. -/
  | tspawnW (d : Fin 32) (b : Fin 32) (c : Fin 32)
  /-- R156: Address-homed waiting spawn. -/
  | tspawnAW (d : Fin 32) (a : Fin 32) (b : Fin 32) (c : Fin 32)
  /-- R157: Sends a dependence decrement to a handle. -/
  | tdec (a : Fin 32) (b : Fin 32)
  /-- R159: Submits a gang descriptor to die management. -/
  | gang (a : Fin 32)
  /-- R160: Parks the work on a scratchpad word until it is full. -/
  | mbxw (a : Fin 32)
  /-- R162: Offers a new record to a skein. -/
  | bobenq (d : Fin 32) (a : Fin 32) (b : Fin 32) (c : Fin 32)
  /-- R162: Takes a record from a stage bobbin or the exit bobbin, or parks. -/
  | bobdeq (a : Fin 32)
  /-- R165: Queries the held record or a bobbin. -/
  | recqry (d : Fin 32) (a : Fin 32)
  /-- R192: Writes a tile's TCFG word and sets the tile EMPTY. -/
  | tcfg (t : Fin 32) (a : Fin 32)
  /-- R193: Reads a tile's TCFG word or an accumulator's configuration. -/
  | tcfgr (d : Fin 32) (t : Fin 32) (e : Bool)
  /-- R190: Takes the lease only if it is free with no waiter. -/
  | leaseT (d : Fin 32)
  /-- R193: Reads a tile's state. -/
  | tstate (d : Fin 32) (t : Fin 32)
  /-- R194: Zeroes a tile and sets it READY. -/
  | tzero (t : Fin 32)
  /-- R195: Waits for this core's array commands, reads ASTAT and clears the selected flags. -/
  | astat (d : Fin 32) (a : Fin 32)
  /-- R198: BF16 matrix product accumulated into ACC56. -/
  | mmaBf16 (c : Fin 4) (a : Fin 32) (b : Fin 32) (z : Bool)
  /-- R198: FP16 matrix product accumulated into ACC56. -/
  | mmaF16 (c : Fin 4) (a : Fin 32) (b : Fin 32) (z : Bool)
  /-- R198: FP64 matrix product accumulated into FP64. -/
  | mmaF64 (c : Fin 4) (a : Fin 32) (b : Fin 32) (z : Bool)
  /-- R198: Q8 by Q8 group product. -/
  | mmaQ8 (c : Fin 4) (a : Fin 32) (b : Fin 32) (z : Bool)
  /-- R198: Q4 by Q4 group product. -/
  | mmaQ4 (c : Fin 4) (a : Fin 32) (b : Fin 32) (z : Bool)
  /-- R198: Q4 by BF16 product. -/
  | mmaQ4b (c : Fin 4) (a : Fin 32) (b : Fin 32) (z : Bool)
  /-- R198: Q8 by BF16 product. -/
  | mmaQ8b (c : Fin 4) (a : Fin 32) (b : Fin 32) (z : Bool)
  /-- R198: FP32 product by three-way BF16 split. -/
  | mmaF32r (c : Fin 4) (a : Fin 32) (b : Fin 32) (z : Bool)
  /-- R200: Seeded-sparse BF16 product. -/
  | mmsBf16 (c : Fin 4) (a : Fin 32) (b : Fin 32) (z : Bool) (p : Fin 4)
  /-- R200: Seeded-sparse Q8 product. -/
  | mmsQ8 (c : Fin 4) (a : Fin 32) (b : Fin 32) (z : Bool) (p : Fin 4)
  /-- R201: Converts accumulator rows into a tile, optionally clearing them. -/
  | acvt (t : Fin 32) (a : Fin 4) (o : Fin 32) (m : Fin 4) (r : Bool)
  /-- R194: Claims, sets the mode of and clears an accumulator, or releases it. -/
  | azero (c : Fin 4) (a : Fin 32)
  /-- R203: Starts filling a tile from memory through a tensor map. -/
  | tld (t : Fin 32) (m : Fin 16) (o : Fin 32)
  /-- R204: Starts draining a tile to memory, leaving it READY. -/
  | tst (t : Fin 32) (m : Fin 16) (o : Fin 32)
  /-- R204: Drains a tile and leaves it EMPTY. -/
  | tstF (t : Fin 32) (m : Fin 16) (o : Fin 32)
  /-- R207: Sends a tensor copy command to the copy engine. -/
  | cpy (d : Fin 16) (sz : Fin 16) (c : Fin 32)
  /-- R208: Sends an indexed row gather to the gather engine. -/
  | gath (d : Fin 16) (sz : Fin 16) (im : Fin 32) (c : Fin 32)
  /-- R210: Starts a collective on the die's collective engine. -/
  | coll (d : Fin 16) (sz : Fin 16) (k : Fin 32)
  /-- R213: Adds two quantised blocks and requantises. -/
  | baddq (d : Fin 32) (a : Fin 32) (b : Fin 32) (h : Fin 16) (q : Bool)
  /-- R214: Quantises BF16 or FP16 values into a block. -/
  | bquant (d : Fin 32) (a : Fin 32) (sz : Bool) (h : Fin 16) (q : Bool)
  /-- R215: Dot product of two quantised blocks added to an FP64 register. -/
  | qdot (d : Fin 32) (a : Fin 32) (b : Fin 32) (h : Fin 16) (q : Bool)
  /-- R114: Deliberate stop with event TRAP. -/
  | trap (a : Fin 32) (k : BitVec 10)
  /-- R114: Deliberate stop with event SVC, always forwarded to the host. -/
  | svc (d : Fin 32) (a : Fin 32) (k : BitVec 10)
  /-- R115: Reads a special register. -/
  | srr (d : Fin 32) (im : Fin 1024)
  /-- R115: Writes a special register, with register-specific effects. -/
  | srw (a : Fin 32) (im : Fin 1024)
  /-- R116: Reads GTIME and appends a trace mark when tracing is on. -/
  | tstamp (d : Fin 32) (a : Fin 32)
  /-- R117: Gives up issue for n cc, or ends a spindle program. -/
  | idle (a : Fin 32)
  /-- R118: Waits for earlier stores and messages, then raises an MSI-X vector. -/
  | hnote (a : Fin 32)
  /-- R169: Writes a TLB entry of a core. -/
  | tlbw (a : Fin 32) (b : Fin 32) (c : Fin 32)
  /-- R169: Invalidates the context's TLB entries overlapping a range, stalling affected bank commands. -/
  | tlbi (a : Fin 32) (b : Fin 32)
  /-- R169: Moves the oldest matching inbox message into a buffer. -/
  | mbxr (d : Fin 32) (a : Fin 32) (b : Fin 32)
  /-- R169: Saves a strand's state of a halted core. -/
  | ctxsv (a : Fin 32) (b : Fin 32)
  /-- R169: Restores a strand's saved state. -/
  | ctxld (a : Fin 32) (b : Fin 32)
  /-- R266: Stops or resumes every core of a context on the cube. -/
  | gstop (a : Fin 32)
  /-- R81: 16-bit register move. -/
  | cMv (d : Fin 32) (sz : Fin 32)
  /-- R81: 16-bit add. -/
  | cAdd (d : Fin 32) (sz : Fin 32)
  /-- R81: 16-bit add immediate. -/
  | cAddi (d : Fin 32) (im : BitVec 6)
  /-- R81: 16-bit subtract. -/
  | cSub (d : Fin 32) (sz : Fin 32)
  /-- R81: 16-bit AND. -/
  | cAnd (d : Fin 32) (sz : Fin 32)
  /-- R81: 16-bit shift left immediate. -/
  | cShli (d : Fin 32) (h : Fin 64)
  /-- R81: 16-bit LD.D with a scaled offset. -/
  | cLd (d : Fin 8) (b : Fin 8) (o : Fin 32)
  /-- R81: 16-bit ST.D with a scaled offset. -/
  | cSt (d : Fin 8) (b : Fin 8) (o : Fin 32)
  /-- R81: 16-bit branch if zero. -/
  | cBz (a : Fin 32) (o : BitVec 6)
  /-- R81: 16-bit branch if nonzero. -/
  | cBnz (a : Fin 32) (o : BitVec 6)
  /-- R81: 16-bit jump. -/
  | cJ (o : BitVec 11)
  /-- R81: 16-bit WAIT for zero on the selected counters. -/
  | cWait (m : BitVec 5)
  /-- R81: 16-bit LDFE with offset 0. -/
  | cLdfe (d : Fin 32) (b : Fin 32)
  /-- R81: 16-bit STEF with offset 0. -/
  | cStef (d : Fin 32) (b : Fin 32)
  /-- R158: Suspends the work to the run list. -/
  | yield
  /-- R158: Retires the work; the strand goes IDLE. -/
  | texit
  /-- R163: Passes the held record to the router. -/
  | recdoneP
  /-- R163: Rejects the held record to the reject sink. -/
  | recdoneJ
  /-- R190: Requests the array lease, blocking until it is granted. -/
  | lease
  /-- R190: Releases the lease. -/
  | lrel
  /-- R114: Breakpoint stop. -/
  | bkpt
  /-- R81: 16-bit no-operation. -/
  | cNop
  /-- R81: 16-bit MRET with no response. -/
  | cMret
  /-- R81: 16-bit YIELD. -/
  | cYield
  /-- R81: 16-bit TEXIT. -/
  | cTexit
  /-- R17: An IDLE task strand takes the highest-priority local run-list entry and loads the record into its registers. -/
  | recordPickup
  /-- R254: An IDLE strand with no local work scans the other cores of its cluster and takes a stealable entry. -/
  | stealScan
  /-- R254: A steal scan that found nothing is repeated every 64 cc. -/
  | stealScanRetry
  /-- R20: A strand BLOCKED for BLKTMO cc has its request withdrawn and its state written to a spill slot. -/
  | spill
  /-- R20: A spill entry becomes ready after BLKTMO cc. -/
  | spillReadyTimeout
  /-- R20: A strand restores a ready spill entry and re-executes the blocking instruction. -/
  | spillResume
  /-- R33: A record that has waited 65,536 cc is taken next by the first strand of its core to become IDLE. -/
  | ageingPromotion
  /-- R23: Die management takes the next gang request and reserves IDLE strands in ascending core id. -/
  | gangRequest
  /-- R23: Once every strand is reserved, the members receive their records and become RUN. -/
  | gangStart
  /-- R24: The host writes a launch record address to the context doorbell, and die management reads the record into the launch queue. -/
  | doorbell
  /-- R27: The root cube checks the next queued launch record, configures the context, claims queues, declares skeins and sends launch starts. -/
  | launchIngestion
  /-- R27: A listed cube receives a launch-start message, repeats the set-up and places its instances. -/
  | launchStart
  /-- R35: A cube whose live state has fallen to none acknowledges its engagement with a status. -/
  | engagementAcknowledgement
  /-- R35: The root writes the completion object once its live state is none and every engagement is settled. -/
  | launchCompletion
  /-- R21: A spawn message arrives at its home core and makes a record in the pool. -/
  | taskSpawn
  /-- R22: A refused spawn is resent every 1,024 cc. -/
  | spawnResend
  /-- R21: The home message strand applies a TDEC to a counter and enqueues the record at zero. -/
  | dependenceDecrement
  /-- R28: A class-6 queue-item message adds an item to a hardware queue, serving a parked DEQ or counting an overflow. -/
  | queueItem
  /-- R311: A 64-byte posted host write into a queue window enqueues an item. -/
  | queueWindowWrite
  /-- R30: A packet reaches its destination core's inbox region, or waits in the fabric when the region is full. -/
  | messageArrival
  /-- R30: Strand 0 takes the next inbox message in priority and order and enters its handler. -/
  | handlerEntry
  /-- R121: The destination message strand performs a remote load and returns the response. -/
  | remoteLoad
  /-- R121: The destination message strand performs a remote store and acknowledges it. -/
  | remoteStore
  /-- R121: The destination performs a remote atomic, CAS or lock attempt. -/
  | remoteAtomic
  /-- R151: A response writes word 1 and then word 0 at the reply address. -/
  | responseDelivery
  /-- R263: The router delivers a record to a worker, resuming a parked BOBDEQ at the stage ENTRY. -/
  | skeinRecordDelivery
  /-- R90: A stopped strand's event message is posted to the service core when its inbox has room. -/
  | eventMessage
  /-- R316: Service-core firmware answers an event by the context's EVPOL field. -/
  | eventPolicyReply
  /-- R246: The service core walks the hashed page table for an XMISS and replies with TLBW and retry, or by policy. -/
  | tlbMissWalk
  /-- R91: A reply arrives for a STOPPED strand and retries, skips or terminates its instruction. -/
  | eventReply
  /-- R31: A handler that exceeds its budget stops at its next instruction. -/
  | hoverrun
  /-- R122: A load's value returns into its register and the loads counter falls. -/
  | loadReturn
  /-- R121: An acknowledgement or response of a remote operation arrives and its counter falls. -/
  | remoteAcknowledgement
  /-- R203: The last byte of a tile load arrives and the tile becomes READY. -/
  | tldComplete
  /-- R204: The last write of a tile store is performed and the tile becomes READY or EMPTY. -/
  | tstComplete
  /-- R198: An MMA, MMS, ACVT, AZERO or TZERO finishes writing and the tile-operations counter falls. -/
  | arrayCommandComplete
  /-- R191: TIME reaches 16,384 with a core waiting and no tile command of the holder waiting, so the lease passes. -/
  | leaseExpiry
  /-- R141: The last cell of a retiring tag is freed, the tag becomes free and the class count falls. -/
  | plyretComplete
  /-- R230: A commit writes one cell's marked bytes into its base line. -/
  | plyretCLineWrite
  /-- R138: An access held 4,096 cc for a pool line raises PLYPOOL. -/
  | plypoolTimeout
  /-- R133: A lock attempt on another cube's word is repeated every 256 cc. -/
  | lockRemoteRetry
  /-- R221: A timestamp reaching 2^47 makes die management rebase every timestamp of the cube. -/
  | rebase
  /-- R51: Writing GO to LOADCTL or STORCTL starts the spindle core at START. -/
  | spindleGo
  /-- R51: Writing HALT stops the spindle core at its next instruction boundary. -/
  | spindleHalt
  /-- R51: A write to LOADIMG or STORIMG copies 4 KiB into the spindle instruction store. -/
  | spindleImageLoad
  /-- R314: Writing CREATE assigns the clusters and initialises the context's state. -/
  | contextCreate
  /-- R314: Writing FREE releases the context's partition. -/
  | contextFree
  /-- R315: Writing RESET raises GEN, discards the context's work and state and completes launches with status 3. -/
  | contextReset
  /-- R313: The host writes a reply to the event in HEVT. -/
  | hreply
  /-- R323: The debugger halt stops the selected cores as GSTOP does. -/
  | dhalt
  /-- R323: The precise stop halts the selected cores between activations. -/
  | pstop
  /-- R267: The service cores stop, save and close a context. -/
  | contextSwitchOut
  /-- R271: The service cores restore a context, replay spooled packets and resume it. -/
  | contextSwitchIn
  /-- R6: A write to a register with no behaviour of its own stores its RW fields. -/
  | registerWrite
  /-- R272: A controller takes a command from its inbox, checks the block and translates its pages. -/
  | bankCommandStart
  /-- R280: With no bank active, the waiting banks form a wave limited by PAB and ABM. -/
  | waveFormation
  /-- R277: The banks of a wave evaluate the program on one element. -/
  | bankElement
  /-- R281: The stack raises an alert, and the controller pauses the wave. -/
  | disturbanceAlert
  /-- R281: The stack releases the alert and the wave resumes at RESUME. -/
  | alertClear
  /-- R282: A refresh block replaces the page list of a command and resumes it if stalled. -/
  | refreshBlock
  /-- R282: A stall not refreshed within LSTMO ends the command with status 5. -/
  | lstmoTimeout
  /-- R283: The command writes RES, the status block and DONE. -/
  | bankCommandEnd
  /-- R286: The reduction engine takes a block, checks it and translates its pages. -/
  | reductionCommandStart
  /-- R288: The engine reads one line of every source and writes the tree sum to the destination line. -/
  | reductionLine
  /-- R209: The copy engine ends a CPY and writes its completion word. -/
  | cpyComplete
  /-- R207: An engine line waiting 4,096 cc for a pool line posts a PLYPOOL note. -/
  | plypoolNote
  /-- R209: The gather engine ends a GATH and writes its completion word. -/
  | gathComplete
  /-- R210: A collective ends and writes its completion word. -/
  | collComplete
  /-- R258: The stage router takes a released or rejected record and routes it. -/
  | routerRelease
  /-- R257: A held record is routed as soon as room appears. -/
  | holdSlotRoute
  /-- R262: Every 4,096 cc the router reallots workers to stages by occupancy. -/
  | workerReassignment
  /-- R292: A receiver checks a flit's CRC and LSN and delivers or discards it. -/
  | flitReceive
  /-- R292: The sender receives a NAK and replays from the named LSN. -/
  | nakReceive
  /-- R291: A cumulative acknowledgement frees replay-buffer flits. -/
  | linkAckReceive
  /-- R292: After 2 µs without acknowledgement the sender replays from the oldest flit. -/
  | replayTimeout
  /-- R292: After 3 failed trainings or 1 ms the link goes DOWN. -/
  | retrainTimeout
  /-- R292: Training succeeds and the link moves to UP or REPLAY. -/
  | trainingComplete
  /-- R292: Management restarts a DOWN link into TRAIN with LSN 0. -/
  | linkRestart
  /-- R297: A router selects a link for a packet by class and route tables, or discards it. -/
  | routerForward
  /-- R299: A sequenced packet is performed, held, deduplicated or discarded at its destination window. -/
  | packetArrival
  /-- R298: An unacknowledged packet is resent after 12.5 µs. -/
  | e2eRetryTimeout
  /-- R298: A packet unacknowledged 100 µs after its first send ends with UNREACH. -/
  | e2eUnreachTimeout
  /-- R298: An unanswered RESYNC is retried every 100 µs. -/
  | resyncRetry
  /-- R299: A destination key idle for 1 ms is released. -/
  | keyReleaseTimeout
  /-- R302: A router node combines two children's chunks and sends the result to its parent. -/
  | reduceChunk
  /-- R303: Routers replicate a multicast chunk along the tree's down links. -/
  | multicastChunk
  /-- R304: An incomplete chunk is resent by every leaf after 100 µs. -/
  | chunkResend
  /-- R302: A collective whose TMO expires ends with COLLTMO and withdraws its tree. -/
  | colltmo
  /-- R318: Management writes a link key register for a direction and epoch. -/
  | keyInstall
  /-- R306: The sender reports that no old-epoch flit remains and the receiver discards the old key. -/
  | keyRotationComplete
  /-- R307: Management marks a cube removed in the tables of every cube. -/
  | cubeRemoval
  /-- R308: An address-map entry moves to new fields with forwarding. -/
  | restripe
  /-- R309: Management pauses retry timers and rewires links through the optical switch. -/
  | reconfigurationWindow
  /-- R309: A receiver acknowledges a drain marker once every earlier flit is delivered. -/
  | drainMarker
  /-- R311: A host read or write through the aperture is translated and performed. -/
  | bar2Access
  /-- R118: Unmasking a vector sends its pending MSI-X message. -/
  | msixUnmask
  /-- R317: GO starts verification of the boot image and loading of the firmware. -/
  | bootGo
  /-- R318: The cube writes a signed report for a supplied nonce. -/
  | attestation
  /-- R319: At the end of each 10 µs window the power manager adjusts MIR and PAB. -/
  | powerWindow
  /-- R319: A die above TWARN has its MIR and PAB lowered. -/
  | thermalWarn
  /-- R320: A die above TCRIT stops its contexts with GSTOP and raises vector 0. -/
  | thermalStop
  /-- R320: After 100 ms at or below TWARN, the stopped contexts resume with throttled rates. -/
  | thermalResume
  /-- R321: The life estimates are recomputed every hour. -/
  | lifeUpdate
  /-- R322: The service core drains the cluster trace buffer into the trace ring. -/
  | traceDrain
  /-- R322: A randomly tagged instruction writes a KIND 3 record at retirement. -/
  | traceSample
  /-- R325: A cluster idle for 100 µs is gated in retention after draining its trace buffer. -/
  | clusterGate
  /-- R325: The first arrival addressed to a gated cluster powers it up. -/
  | clusterUngate
  /-- R317: At power-on the cube resets, CYCLE starts from 0 and the boot ROM of die 0 begins, waiting for a boot image. -/
  | powerOn
  /-- R122: A local store, posted atomic or zero-length write is performed at its destination and the strand's stores counter falls. -/
  | storePerformed
  /-- R117: The n cc of an IDLE instruction run out and the strand becomes eligible to issue again. -/
  | idleWaitExpiry
  /-- R291: While flits arrive, the receiver sends a cumulative acknowledgement when 200 ns have passed since its last one. -/
  | linkAckInterval
  deriving DecidableEq, Repr

end Sys2Proof
end

