-- ==== Sys2Proof/Machine/State.lean ====
section
/-! DEFINITION. The state of one H4 cube as plain data: strands, spindle cores and service cores, cores, clusters with their
matrix arrays, contexts, dies, bank engines, links, memory, and the steps that are due. Tables are sparse: a list of
(key, value) pairs, keys strictly rising, no entry equal to what an unlisted key reads as (Machine/Tab.lean). -/

namespace Sys2Proof.Machine

open Sys2Proof

/-- A sparse table: keys strictly rising, no entry equal to the table's default. -/
abbrev Tab (α : Type) := List (Nat × α)

/-! ## Strands, spindle cores, service cores -/

/-- The five states of a strand (R11). A spindle core uses `idle`, `run` and `stopped`. -/
inductive RunState where
  | idle | run | blocked | stopped | reserved
  deriving DecidableEq, Repr, Inhabited

/-- The event codes of R88, by name. -/
inductive EvCode where
  | undef | priv | align | xmiss | perm | nopage | plypool | plyremote | sidefx | tileown | fmtmis | hoverrun
  | hblock | bkpt | svc | unreach | e2elost | liststale | eccu | colltmo | tshape | ctxgone | trap
  deriving DecidableEq, Repr, Inhabited

/-- An event message (R90). `party` is the unit that stopped, in the model's own numbering (Ops, `unitKey`). -/
structure EventMsg where
  code : EvCode
  note : Bool
  strand : Nat
  unit : Nat
  ctx : Nat
  gen : BitVec 8
  major : Nat
  ply : BitVec 16
  pc : Word
  addr : Word
  insn : BitVec 32
  lane : Nat
  aux : BitVec 10
  party : Nat
  deriving DecidableEq, Repr, Inhabited

/-- What a BLOCKED strand waits for (R19, R20). -/
inductive WaitKind where
  /-- LDFE or LDFF on an empty word. -/
  | full
  /-- STEF on a full word. -/
  | empty
  /-- LEASE. -/
  | lease
  /-- a tile command without the lease (R191). -/
  | tileLease
  /-- PLYNEW (R139). -/
  | plynew
  /-- RLK. -/
  | rlk
  /-- WLK. -/
  | wlk
  /-- MBXW without a free pool slot. -/
  | poolSlot
  /-- DEQ without a free pool slot. -/
  | poolQueue
  /-- BOBDEQ without a free pool slot. -/
  | poolBobbin
  deriving DecidableEq, Repr, Inhabited

/-- A resident block: its kind, the word or resource, when it began, its place among the waiters, and how often it has been
passed over (R126). -/
structure Wait where
  kind : WaitKind
  addr : Word
  since : Nat
  seq : Nat
  passed : Nat
  deriving DecidableEq, Repr, Inhabited

/-- Why a strand's next instruction waits at issue without being a resident block (R252). -/
inductive HoldKind where
  /-- a counter would pass 65,535 (R44). -/
  | counter
  /-- WAIT, FENCE, HNOTE, ASTAT, TCFG and RECDONE waiting for earlier operations or states. -/
  | operations
  /-- a tile that is not READY, or too many copy-engine operations (R196, R205). -/
  | tile
  /-- a TLBI that has dropped its range and waits for bank commands to stall (R245, R282). -/
  | shootdown
  /-- no ply-pool line for the access at an address, of a lane (R138). -/
  | plyPool (addr : Word) (lane : Nat)
  /-- a result from another cube (R121). -/
  | remote
  /-- the refused-spawn buffer is full (R22). -/
  | spawnBuffer
  /-- IDLE (R117). -/
  | idle
  /-- a spindle core's waiting full/empty form (R50). -/
  | word
  /-- an unacknowledged window of 1,024 packets (R298). -/
  | window
  /-- a register whose answer has not come: ENQ, TSPAWN.W (R152, R156). -/
  | answer
  deriving DecidableEq, Repr, Inhabited

/-- A wait at issue: its kind, when it began, when it ends by itself (IDLE). -/
structure Hold where
  kind : HoldKind
  since : Nat
  until_ : Nat
  deriving DecidableEq, Repr, Inhabited

/-- Where a load returns: a register; nowhere, where it is x0's or its register has been written since (R119); or the blocks of the
instruction that reads its operands from another cube (R145). -/
inductive LoadDest where
  | x (r : Fin 32)
  | v (r : Fin 32)
  | tm (r : Fin 16)
  | none
  | block
  deriving DecidableEq, Repr, Inhabited

/-- A load that has been performed and not yet returned (R44, R122). -/
structure Pend where
  dest : LoadDest
  val : Line
  deriving DecidableEq, Repr, Inhabited

/-- A part of a result that is missing: the request's number, the place in the buffer, bytes, and what an event names: the
address and the lane. -/
structure RemotePart where
  req : Nat
  place : Nat
  bytes : Nat
  va : Word
  lane : Nat
  deriving DecidableEq, Repr, Inhabited

/-- Results from another cube that a strand waits for (R121): the destination, how a scalar is extended, the instruction's
length, the parts that are missing, and what has come. -/
structure RemoteWait where
  dest : Option LoadDest
  bytes : Nat
  signed : Bool
  len : Nat
  parts : List RemotePart
  buf : Line
  /-- the global physical address of the first request. -/
  gpa : Nat := 0
  deriving DecidableEq, Repr, Inhabited

/-- A skein record (R161). -/
structure SkRec where
  payload : Word
  ply : BitVec 16
  done : BitVec 16
  visits : BitVec 8
  stage : BitVec 4
  origCore : BitVec 8
  origCube : BitVec 20
  deriving DecidableEq, Repr, Inhabited

/-- A worker's skein and assigned stage (R261); stage 16 is the exit bobbin. -/
structure Worker where
  sid : Nat
  stage : Nat
  deriving DecidableEq, Repr, Inhabited

/-- A message in an inbox region: the packet and its payload's offset in the scratchpad (R30). -/
structure InMsg where
  pkt : Packet
  off : Nat
  /-- GTIME of the arrival. -/
  arrived : Nat
  /-- the cube that the message engages owes its sender an acknowledgement once it is handled (R35). -/
  owes : Bool
  deriving DecidableEq, Repr, Inhabited

/-- Where an access lands: its cube, its address there (this cube's local address, or the other cube's), its global physical
address, the page attributes an access depends on, and the virtual address. -/
structure Loc where
  cube : Nat
  key : Nat
  gpa : Nat
  plied : Bool
  conf : Bool
  scratch : Bool
  va : Word
  /-- what the cube that holds the place needs of the page: HVAL, with HMODE ([6]) and PCL ([7]) above it. -/
  homing : Nat
  deriving DecidableEq, Repr, Inhabited

/-- One lane's element of a vector memory instruction: the lane, its address, its place. -/
structure Elem where
  lane : Nat
  va : Word
  loc : Loc
  deriving DecidableEq, Repr, Inhabited

/-- A vector memory instruction whose checks are made (R181, R182): a store or a load, of n-byte elements, under a tag; VLDX merges (R123); its
register, what has been loaded or is stored, and the accesses still to make, on this cube and on others. -/
structure VecWork where
  store : Bool
  n : Nat
  tag : BitVec 16
  merge : Bool
  reg : Fin 32
  value : Line
  here : List (List Elem)
  there : List (List Elem)
  deriving DecidableEq, Repr, Inhabited

/-- One register context: a strand (R37), a spindle core (R50) or a service core. Registers are tables whose default is zero. -/
structure Strand where
  pc : Word := 0
  x : Tab Word := []
  f : Tab Word := []
  v : Tab Line := []
  m : Tab Word := []
  tm : Tab (BitVec 256) := []
  vl : BitVec 7 := 0
  /-- the five outstanding-operation counters (R44). -/
  loads : Nat := 0
  stores : Nat := 0
  copies : Nat := 0
  tiles : Nat := 0
  msgs : Nat := 0
  ply : BitVec 16 := 0
  plyq : BitVec 3 := 0
  fpctl : BitVec 3 := 0
  /-- NV, DZ, OF, UF, NX from bit 4 to bit 0 (R47). -/
  fpflg : BitVec 5 := 0
  rngst : BitVec 32 := 0
  /-- MSTAT (R49). -/
  last : BitVec 8 := 0
  major : BitVec 6 := 0
  err : Bool := false
  engerr : Bool := false
  /-- message registers of strand 0 (R45). -/
  msgcls : BitVec 6 := 0
  msgsrc : BitVec 32 := 0
  msgts : BitVec 32 := 0
  msgrpl : BitVec 60 := 0
  recfree : Bool := false
  /-- the held skein record and its skein (R162), and when it was delivered (R259). -/
  held : Option SkRec := none
  heldSid : Nat := 0
  heldSince : Nat := 0
  worker : Option Worker := none
  lvl : Tab Word := []
  st : RunState := .idle
  /-- word 1 of the running record (R12). -/
  word1 : Word := 0
  wait : Option Wait := none
  hold : Option Hold := none
  remote : Option RemoteWait := none
  /-- the event slot (R87), and whether its message has been posted. -/
  event : Option EventMsg := none
  posted : Bool := false
  pend : List Pend := []
  /-- registers that wait for an answer: ENQ to another cube, TSPAWN.W (R152, R156); the request's number. -/
  awaits : List (Fin 32 × Nat) := []
  /-- operand blocks of the instruction at PC that have come from another cube: address and bytes (R145). -/
  blocks : List (Word × List Byte) := []
  /-- pool lines that an instruction waiting at issue has taken: the cell's key and the pool part (R182, R204). -/
  taken : List (Nat × Nat) := []
  /-- the cycle in which its next instruction's operands are not present, as the schedule says (R252). -/
  absentAt : Option Nat := none
  /-- the vector memory instruction at PC, where some of its accesses are still to make (R181). -/
  vec : Option VecWork := none
  /-- the model's number of the work now on the strand (R15). -/
  wid : Nat := 0
  /-- strand 0: the message being handled, and the handler's budget used up (R31). -/
  inMsg : Option InMsg := none
  handlerSince : Nat := 0
  /-- run time of the activation before a retry of HOVERRUN gave it a new budget (R31, R322). -/
  ranBefore : Nat := 0
  /-- the lock word at which a WLK has added to WWAIT (R133): its cube, its local or remote global address, the tag. -/
  wwait : Option (Nat × Nat × BitVec 16) := none
  /-- the last attempt of a lock on another cube (R133). -/
  lockTried : Nat := 0
  /-- program timestamp (R220). -/
  pts : Nat := 0
  /-- halted by GSTOP or DHALT (R266, R323), or stopped between activations by PSTOP. -/
  halted : Bool := false
  /-- when it was halted: timers pause (R266); and the wait that the halt has withdrawn, for the save record (R270) and its timer, which goes on. -/
  haltedAt : Nat := 0
  haltWait : Option Wait := none
  /-- the instruction being executed, for the event message (R90); its length in bytes. -/
  ir : BitVec 32 := 0
  irLen : Nat := 0
  /-- the last fetch ended in an event: `ir` holds no whole instruction (R89, R91). -/
  fetchStop : Bool := false
  /-- spindle cores (R51). -/
  busy : Bool := false
  start : BitVec 11 := 0
  code : BitVec 8 := 0
  haltReq : Bool := false
  imem : Tab Byte := []
  deriving DecidableEq, Repr, Inhabited

/-! ## Task cores -/

/-- An entry of a run list (R16), with the cycle at which it became runnable (R33), and the reader's mark that ageing has
promoted it. -/
structure RunEntry where
  slot : Nat
  word1 : Word
  since : Nat
  aged : Bool
  /-- since when it has waited behind higher priorities (R33). -/
  behind : Option Nat := none
  deriving DecidableEq, Repr, Inhabited

/-- Where an allocated pool slot's record waits (R19, R21); `runnable` once it stands in a run list. -/
inductive Park where
  | runnable
  | counter
  | word (key : Nat)
  | queue (q : Nat) (dest : Nat)
  | bobbin (sid : Nat) (stage : Nat)
  deriving DecidableEq, Repr, Inhabited

/-- An allocated slot of the continuation pool; its record and counter word stand in the scratchpad (R18). -/
structure Slot where
  park : Park
  seq : Nat
  worker : Option Worker
  held : Option SkRec
  recfree : Bool
  heldSid : Nat
  heldSince : Nat
  deriving DecidableEq, Repr, Inhabited

/-- An occupied spill slot (R20); its image stands in the scratchpad. -/
structure Spill where
  wid : Nat
  ready : Bool
  /-- when it became ready, and the reader's mark that ageing has promoted it (R33). -/
  readyAt : Nat
  aged : Bool
  readySeq : Nat
  since : Nat
  wait : Wait
  worker : Option Worker
  heldSid : Nat
  heldSince : Nat
  wwait : Option (Nat × Nat × BitVec 16)
  /-- registers of the image that wait for an answer: ENQ to another cube, TSPAWN.W (R152, R156); the request's number. -/
  awaits : List (Fin 32 × Nat)
  /-- since when, being ready, it has waited behind higher priorities (R33). -/
  behind : Option Nat := none
  deriving DecidableEq, Repr, Inhabited

/-- A page-table and TLB entry (R241). -/
structure Pte where
  v : Bool
  sz : BitVec 2
  ro : Bool
  nx : Bool
  plied : Bool
  conf : Bool
  pcl : Bool
  bank : Bool
  rdc : Bool
  hmode : Bool
  hval : BitVec 6
  ctx : BitVec 4
  vpn : BitVec 40
  pfn : BitVec 44
  deriving DecidableEq, Repr, Inhabited

/-- A task core's own state. P, S, BLKTMO and the handler budget start at their defaults (R20, R24). -/
structure Core where
  runq : Tab (List RunEntry) := []
  slots : Tab (Option Slot) := []
  inbox : Tab (List InMsg) := []
  spills : Tab (Option Spill) := []
  spawns : List Packet := []
  tlb : Tab (Option Pte) := []
  poolSize : Nat := 1024
  spillSize : Nat := 16
  blktmo : Nat := 65536
  hbudget : Nat := 200000
  /-- the core, counted from this one, where the next steal scan starts (R254). -/
  stealFrom : Nat := 1
  /-- one more than the cycle of the last scan that found nothing; 0 while none is waiting (R254). -/
  scanSince : Nat := 0
  /-- the strand that issued last, plus 8 × one more than the cycle in which it did (R252). -/
  lastIssued : Nat := 7
  /-- the cycle of the last pickup, steal or spill resume (R253). -/
  tookAt : Option Nat := none
  /-- instructions issued while TRCTL [1] is set, and the tagged ones whose record is not written yet: strand, PC and word 0 of the record (R322). -/
  sampled : Nat := 0
  sampleDue : List (Nat × Word × Word) := []
  /-- halfwords the instruction cache holds, by half the local address (R113). -/
  icache : Tab (Option (BitVec 16)) := []
  /-- per-sender delay table (R322): four words an entry. -/
  delay : Tab (List Word) := []
  deriving DecidableEq, Repr, Inhabited

/-! ## Clusters and arrays -/

/-- The states of a tile (R53). -/
inductive TileState where
  | empty | filling | ready | draining
  deriving DecidableEq, Repr, Inhabited

/-- A trace record (R322). -/
structure TraceRec where
  w0 : Word
  w1 : Word
  w2 : Word
  w3 : Word
  deriving DecidableEq, Repr, Inhabited

/-- A cluster: its context, its matrix array (R52 to R55), the lease (R264), its service core's inbox and trace buffer. -/
structure Cluster where
  ctx : Option Nat := none
  /-- tile bytes, at tile × 65,536 + offset. -/
  tiles : Tab Byte := []
  tcfg : Tab Word := []
  tstate : Tab TileState := []
  /-- accumulator slots, at accumulator × 65,536 + row × 256 + column. -/
  acc : Tab Word := []
  /-- [0] MODE, [3:1] OWNER, [4] VALID. -/
  accCfg : Tab (BitVec 5) := []
  /-- [0] OF, [1] NV, [2] UF, [3] NX, [8] SAT. -/
  astat : BitVec 9 := 0
  /-- the cycle in which flags were set last, and the flags (R54: a set wins over a clear in the same cc). -/
  astatSet : Nat × BitVec 9 := (0, 0)
  holder : Option Nat := none
  /-- cores whose lease request waits. -/
  waiting : List Nat := []
  cmds : Nat := 0
  leaseSince : Nat := 0
  /-- consecutive grants of the holder, and the last holder (R265). -/
  grants : Nat := 0
  lastHolder : Option Nat := none
  /-- the cycle in which a free lease was granted, and the last holder before (R264). -/
  granted : Option (Nat × Option Nat) := none
  svc : List EventMsg := []
  trace : List TraceRec := []
  gated : Bool := false
  idleSince : Nat := 0
  deriving DecidableEq, Repr, Inhabited

/-! ## Contexts -/

/-- A ply tag's state (R137); a free tag is not listed. -/
structure TagState where
  retiring : Bool
  cls : BitVec 3
  deriving DecidableEq, Repr, Inhabited

/-- A ply cell (R137, R138): the line's bytes, the byte mask, and the pool part its line came from (R250). -/
structure Cell where
  data : Line
  mask : BitVec 64
  part : Nat
  deriving DecidableEq, Repr, Inhabited

/-- A hardware queue (R28). -/
structure HwQueue where
  items : List Line
  base : Word
  log2 : BitVec 5
  overflow : Nat
  deriving DecidableEq, Repr, Inhabited

/-- A release waiting for the router (R258): the record, pass or reject, when it was delivered, the work that released it, and the
model's number of the release among sends and operations. -/
structure Release where
  record : SkRec
  pass : Bool
  since : Nat
  wid : Nat
  ord : Nat
  /-- its release point's place in the global order, once the conditions of R163 hold. -/
  point : Option Nat := none
  deriving DecidableEq, Repr, Inhabited

/-- One stage of a skein with its bobbin (R255 to R260); the exit bobbin has the same shape. -/
structure Stage where
  entry : Word
  depth : Nat
  high : Nat
  low : Nat
  bobbin : List SkRec
  hold : Option SkRec
  /-- the last 256 releases: passed, service cycles. -/
  window : List (Bool × Nat)
  /-- the bobbin has risen above HIGH and not yet fallen below LOW. -/
  raised : Bool
  deriving DecidableEq, Repr, Inhabited

/-- A declared skein (R255). -/
structure Skein where
  sid : Nat
  fixed : Bool
  sstart : BitVec 16
  comm : BitVec 16
  rcnt : Option Nat
  lfsr : BitVec 32
  stages : List Stage
  exit : Stage
  releases : List Release
  declared : Nat
  reassigned : Nat
  /-- the workers allotted to each stage at the last reassignment (R262); empty before the first. -/
  allot : List Nat
  deriving DecidableEq, Repr, Inhabited

/-- A launch submission accepted into the launch queue (R24): the record's 32 words; the work whose ESEND it was. -/
structure Submission where
  words : List Word
  wid : Nat
  /-- the record lies on a CONF page (R305). -/
  conf : Bool
  deriving DecidableEq, Repr, Inhabited

/-- An engagement this cube has sent (R35). -/
structure Engagement where
  cube : Nat
  settled : Bool
  deriving DecidableEq, Repr, Inhabited

/-- A live launch on this cube (R24 to R27, R35). -/
structure Launch where
  words : List Word
  root : Bool
  cubes : List Nat
  position : Option Nat
  status : Nat
  sent : List Engagement
  queues : Word
  deriving DecidableEq, Repr, Inhabited

/-- A gang request (R23, R159): the descriptor's eight words, the issuer's PLY and context, the strands reserved, or the
member records of a GANGL launch placed at given cores. -/
structure Gang where
  /-- the order of submission. -/
  seq : Nat
  ctx : Nat
  words : List Word
  ply : BitVec 16
  /-- members without a strand yet, as (core, record), and those that have one, as (unit key, record). -/
  todo : List (Nat × List Word)
  reserved : List (Nat × List Word)
  deriving DecidableEq, Repr, Inhabited

/-- A line's copy in a second slice (R236), and through which page of which context it came about. -/
structure SliceCopy where
  ctx : Nat
  va : Word
  data : List Byte
  deriving DecidableEq, Repr, Inhabited

/-- STATE of a context (R313). -/
inductive CtxState where
  | free | idle | running | out
  deriving DecidableEq, Repr, Inhabited

/-- An MSI-X vector (R310, R311): masked, pending, message address and data. -/
structure Vector_ where
  masked : Bool := true
  pending : Bool := false
  addr : Word := 0
  data : BitVec 32 := 0
  deriving DecidableEq, Repr, Inhabited

/-- The counts the spec says are kept and reported. -/
inductive Count where
  | staleDecrement | refusedSubmission | discardedMessage | discardedReply | bar2Miss | routerDiscard | staleGeneration
  deriving DecidableEq, Repr, Inhabited

/-- A context (R312) with its configuration window (R313), ply domain, queues, skeins and launches. -/
structure Ctx where
  state : CtxState := .free
  gen : BitVec 8 := 0
  cfgerr : Bool := false
  clmask : BitVec 32 := 0
  ptbase : BitVec 60 := 0
  ptlog : BitVec 5 := 0
  savebase : BitVec 60 := 0
  spoolbase : BitVec 60 := 0
  spoolsize : BitVec 60 := 0
  ntags : BitVec 16 := 0
  poolLines : BitVec 32 := 0
  quota : Tab (BitVec 16) := []
  qdram : BitVec 4 := 1
  qfab : BitVec 32 := 0x11111111
  evpol : Word := 0
  trbase : Word := 0
  trsize : Word := 0
  trctl : Word := 0
  trlost : Word := 0
  trWrite : Nat := 0
  dhalt : Bool := false
  pstop : Bool := false
  dcores : BitVec 256 := 0
  lshare : Tab (BitVec 4) := []
  hmask : Tab Word := []
  /-- entries of the homing-mask table that changed while a TLB held a translation by them (R236). -/
  remasked : Tab Bool := []
  queues : Tab (Option HwQueue) := []
  /-- events forwarded to the host, oldest first (R316). -/
  hevt : List EventMsg := []
  hreply1 : Word := 0
  /-- resident handler entries 16 to 63 (R29). -/
  htab : Tab Word := []
  tags : Tab (Option TagState) := []
  /-- free lines of the four pool parts (R250), and lines ever given to the pool (R316). -/
  poolFree : Tab Nat := []
  poolTotal : Nat := 0
  launch : Option Launch := none
  submissions : List Submission := []
  /-- the cubes that engaged this one and are answered at completion (R35, R36), one entry for each of their engaging messages. -/
  engagers : List Nat := []
  skeins : Tab (Option Skein) := []
  stopped : Bool := false
  /-- stopped by the thermal stop of these dies (R320). -/
  thermal : BitVec 4 := 0
  spoolWrite : Nat := 0
  spoolRead : Nat := 0
  /-- arrivals in the spool ring (R270), with the arrival sequence; of a context that is in, those that found no room (R271). -/
  spool : List (Packet × Nat) := []
  spoolSeq : Nat := 0
  /-- gang requests withdrawn at a gang stop, with their dies, in submission order (R266). -/
  withdrawn : List (Nat × Gang) := []
  /-- when the context was switched out (R267). -/
  outSince : Nat := 0
  /-- writes of L fields in STATE 1, oldest first: they take effect when the next launch is ingested (R314). -/
  later : List (Nat × Word) := []
  /-- what the save area does not hold of a switched-out context (R267): the tables of its cores, units and clusters. -/
  saved : List (Nat × Core) := []
  savedUnits : List (Nat × Strand) := []
  savedClusters : List (Nat × Cluster) := []
  counts : Tab Nat := []
  msixEnable : Bool := false
  msixMask : Bool := false
  vectors : Tab Vector_ := []
  bar2 : Tab Word := []
  deriving DecidableEq, Repr, Inhabited

/-! ## Dies, bank engines, reduction engine -/

/-- An engine command as ESEND leaves it (R152): block address, issuing core, context, generation, PLY at issue, work and timestamp. -/
structure EngCmd where
  addr : Word
  core : Nat
  /-- the unit that issued it. -/
  party : Nat
  ctx : Nat
  gen : BitVec 8
  wid : Nat
  pts : Nat
  deriving DecidableEq, Repr, Inhabited

/-- STATE of a bank command (R283). -/
inductive BankState where
  | running | paused | stalled | ended
  deriving DecidableEq, Repr, Inhabited

/-- How far a bank has come with an element (R279): the next operator, its value stack, accumulator, flags, uncorrectable data met. -/
structure BankStep where
  op : Nat
  stack : List (List Nat)
  acc : List (BitVec 32)
  flags : BitVec 5
  eccu : Bool
  deriving DecidableEq, Repr, Inhabited

/-- A running bank command (R272 to R285). -/
structure BankRun where
  cmd : EngCmd
  block : List Word
  /-- translated page list: local address of each used page's frame. -/
  pages : Tab (Option Nat)
  virt : Tab Word
  state : BankState
  status : Nat
  resume : Nat
  active : BitVec 16
  next : Tab Nat
  acc : Tab (List (BitVec 32))
  flags : BitVec 4
  waves : Nat
  alerts : Nat
  alert : Bool
  /-- a TLBI wants a stall, which comes at the element's end or when an alert clears (R282, R285). -/
  stallDue : Bool
  /-- in STALLED under an alert: a refresh has allowed the resumption (R285). -/
  resumeDue : Bool
  /-- LSTMO in µs. -/
  lstmo : Nat
  stallSince : Nat
  eccu : Bool
  done : Option Nat
  /-- the local addresses of the lines of STAT and RES (R272, R283). -/
  stat : Option (List Nat)
  res : Option (List Nat)
  /-- banks in the middle of an element (R279). -/
  steps : Tab (Option BankStep) := []
  /-- of the writes at the command's end, how many have been made (R279, R283). -/
  ending : Nat := 0
  deriving DecidableEq, Repr, Inhabited

/-- A bank-engine controller (R272, R280). -/
structure BankCtl where
  inbox : List EngCmd := []
  run : Option BankRun := none
  pab : Nat := 16
  deriving DecidableEq, Repr, Inhabited

/-- A line that the reduction engine works on (R288): its places, sources before the destination; the source lines read, none where the data was
uncorrectable. -/
structure RedStep where
  line : Nat
  places : List Nat
  got : Tab (Option (Option (List Byte)))
  deriving DecidableEq, Repr, Inhabited

/-- A running reduction command (R286 to R288): lines still to do. -/
structure RedRun where
  cmd : EngCmd
  block : List Word
  /-- the translations it holds (R286, R288). -/
  ptes : List Pte
  todo : List Nat
  status : Nat
  done : Option Nat
  /-- pages that a TLBI has dropped: they are translated anew at the next line (R288). -/
  lost : List Pte := []
  /-- lines under way. -/
  now : List RedStep := []
  deriving DecidableEq, Repr, Inhabited

/-- A die: die management, its reduction engine, its power and temperature controls. -/
structure Die where
  gangs : List Gang := []
  /-- rebases seen (R221, R321). -/
  rebases : Nat := 0
  redInbox : List EngCmd := []
  redRun : Option RedRun := none
  /-- the cycle in which the die's stage router last routed a release: one per cc (R258). -/
  routedAt : Option Nat := none
  mir : Nat := 16
  tstop : Bool := false
  coolSince : Option Nat := none
  linbase : BitVec 37 := 0x1000000000
  deriving DecidableEq, Repr, Inhabited

/-! ## Operations in flight -/

/-- Where an engine reads or writes: a local address under a tag, a tile plane of a cluster, another cube. -/
inductive Place where
  | mem (key : Nat) (ctx : Nat) (tag : BitVec 16)
  | tile (cluster : Nat) (off : Nat)
  | remote (cube : Nat) (addr : Nat) (tag : BitVec 16)
  | zero
  deriving DecidableEq, Repr, Inhabited

/-- What uncorrectable source data becomes (R203): the elements of a floating format, or a Q header. -/
inductive Spoil where
  | none | bf16 | f16 | f32 | f64 | q8header | q4header
  deriving DecidableEq, Repr, Inhabited

/-- Some bytes of one line: where they lie, and their index in the operation's buffer. -/
structure Move where
  place : Place
  idx : Nat
  n : Nat
  spoil : Spoil
  /-- of a place on another cube: its page is CONF (R305), and its homing with PCL, by which that cube checks the access (R235, R240). -/
  conf : Bool := false
  homing : Nat := 0
  deriving DecidableEq, Repr, Inhabited

/-- The tile commands that the array performs (R196). -/
inductive ArrayCmd where
  /-- format 0 to 7 as fn of major 36; Z; tiles; accumulator; SAT at issue. -/
  | mma (fmt : Fin 8) (z : Bool) (c : Fin 4) (a b : Fin 32) (sat : Bool)
  /-- 0 BF16, 1 Q8; pattern. -/
  | mms (q8 : Bool) (z : Bool) (p : Fin 4) (c : Fin 4) (a b : Fin 32) (sat : Bool)
  | acvt (t : Fin 32) (c : Fin 4) (off : Nat) (mode : Fin 4) (clr : Bool) (sat : Bool) (fp64 : Bool)
  | azero (c : Fin 4)
  | tzero (t : Fin 32)
  deriving DecidableEq, Repr, Inhabited

/-- A collective on this cube (R210, R300 to R304): what its descriptor says, the bytes of its two maps, when a chunk was sent
from here (ns), and the chunks it holds (Collective, `partKey`). -/
structure Coll where
  op : Nat
  fmt : Nat
  members : List Nat
  root : Nat
  tmo : Nat
  cid : BitVec 24
  size : Nat
  /-- how many of them are elements. -/
  elements : Nat
  sent : Tab (Option Nat)
  parts : Tab (Option (List Byte))
  deriving DecidableEq, Repr, Inhabited

/-- Which counter an operation stands in (R44). -/
inductive Ctr where
  | none | stores | copies | tiles | msgs
  deriving DecidableEq, Repr, Inhabited

/-- An operation in flight. -/
inductive OpKind where
  /-- a performed local store, posted atomic or zero-length write, not yet reported (STORE_PERFORMED). -/
  | store
  | plyret (tag : Nat) (commit : Bool)
  | tld (tile : Fin 32)
  | tst (tile : Fin 32) (toEmpty : Bool)
  | cpy
  | gath
  | coll (c : Coll)
  | array (c : ArrayCmd)
  /-- an ESEND command that an engine holds. -/
  | engine (unit : Nat) (addr : Word)
  deriving DecidableEq, Repr, Inhabited

/-- An operation in flight: the party and work that issued it, its lines still to read and to write, its buffer, its
status so far, and its completion word. -/
structure Op where
  kind : OpKind
  ctr : Ctr
  party : Nat
  wid : Nat
  ctx : Nat
  gen : BitVec 8
  pts : Nat
  since : Nat
  /-- the model's number among sends and operations. -/
  ord : Nat
  reads : List (List Move)
  writes : List (List Move)
  buf : Tab (Option Byte)
  status : Nat
  done : Option Nat
  engerr : Bool
  /-- some of what it reads is data of a CONF page (R305). -/
  conf : Bool := false
  /-- pool lines taken at issue for new cells: the cell's key and the pool part (R204). -/
  pool : List (Nat × Nat) := []
  /-- when a line first found no pool line, and when the next PLYPOOL note is due (R207). -/
  stuck : Option Nat := none
  /-- lines of another cube that have been asked for: the request's number, and where the bytes go. -/
  asked : List (Nat × List Move) := []
  /-- a line that a tile transfer read was uncorrectable (R203). -/
  eccu : Bool := false
  deriving DecidableEq, Repr, Inhabited

/-! ## Fabric -/

/-- STATE of a link (R290). -/
inductive LinkState where
  | down | train | up | replay | retrain | dark
  deriving DecidableEq, Repr, Inhabited

/-- One logical link (R289 to R292, R305, R306, R309). -/
structure Link where
  state : LinkState := .down
  size : Nat := 1
  ports : Nat := 0
  epoch : Bool := false
  hold : Bool := false
  nbr : BitVec 20 := 0
  replays : Nat := 0
  /-- next LSN to send, the replay buffer (oldest first), how far a replay has come, replays without progress. -/
  txLsn : BitVec 12 := 0
  buffer : List Flit := []
  stuck : Nat := 0
  lastAck : Nat := 0
  /-- next LSN expected, whether flits are being discarded until it comes, flits accepted since the last acknowledgement. -/
  rxLsn : BitVec 12 := 0
  nakked : Bool := false
  unacked : Nat := 0
  rxFlits : List (BitVec 256) := []
  rxSince : Nat := 0
  tagFails : Nat := 0
  failed : Nat := 0
  retrainSince : Nat := 0
  /-- side-band messages to the neighbour: acknowledgements (false) and NAKs (true) with their LSN. -/
  sideband : List (Bool × BitVec 12) := []
  /-- keys by transmit (0, 1 by epoch) and receive (2, 3). -/
  keys : Tab (Option (BitVec 256)) := []
  rotating : Bool := false
  counterTx : Word := 0
  counterRx : Word := 0
  markerSent : Bool := false
  drained : Bool := false
  deriving DecidableEq, Repr, Inhabited

/-- A sent packet not yet acknowledged (R298): its times in ns and how often it was resent. -/
structure Unacked where
  pkt : Packet
  first : Nat
  last : Nat
  resent : Nat
  deriving DecidableEq, Repr, Inhabited

/-- A RESYNC that is unanswered (R298): the packet of this round of sends, when the round began, its last send (ns), and its resends. -/
structure Resync where
  pkt : Packet
  first : Nat
  last : Nat
  resent : Nat
  deriving DecidableEq, Repr, Inhabited

/-- A source's numbering of one key (R298). -/
structure SrcKey where
  next : BitVec 16
  unacked : List Unacked
  resync : Option Resync
  deriving DecidableEq, Repr, Inhabited

/-- A destination's window of one key (R299). -/
structure DstKey where
  next : BitVec 16
  /-- numbers handed on and not yet performed. -/
  taken : List (BitVec 16)
  performed : List (BitVec 16 × Option Packet)
  held : List Packet
  last : Nat
  deriving DecidableEq, Repr, Inhabited

/-- An address-map entry (R248). -/
structure AmapEntry where
  v : Bool
  rmv : Bool
  fwd : Bool
  glog : BitVec 5
  n : BitVec 16
  gen : BitVec 32
  base : BitVec 60
  size : BitVec 60
  lbase : BitVec 39
  list : BitVec 39
  olist : BitVec 39
  on : BitVec 16
  oglog : BitVec 5
  ogen : BitVec 32
  /-- a re-striping's stripes, by the previous fields: those being copied, those moved (R308). -/
  copying : List Nat
  moved : List Nat
  /-- this cube has acknowledged the generation to management (R308 step 2); sends before this number of the model's went by the old
  fields. -/
  acked : Bool
  since : Nat
  deriving DecidableEq, Repr, Inhabited

/-! ## Platform -/

/-- BOOTST (R317, R321). -/
inductive BootState where
  | rom | awaiting | verifying | running | failed
  deriving DecidableEq, Repr, Inhabited

/-- The platform registers of R321 and the boot, power and temperature state behind them. -/
structure Platform where
  boot : BootState := .rom
  bfail : BitVec 8 := 0
  cube : BitVec 20 := 0
  plim : BitVec 12 := 2800
  guard : BitVec 12 := 40
  pwr : BitVec 12 := 0
  twarn : BitVec 8 := 95
  tcrit : BitVec 8 := 105
  temps : Tab Nat := []
  lifed : Tab (BitVec 32) := []
  lifeg : Tab (BitVec 32) := []
  lowWindows : Nat := 0
  bootwin : List Byte := []
  version : BitVec 32 := 0
  minVersion : BitVec 32 := 0
  image : List Byte := []
  vectors : Tab Vector_ := []
  msixEnable : Bool := false
  msixMask : Bool := false
  /-- what the last host read through BAR2 returned, up to 64 bytes (R311). -/
  hostRead : BitVec 512 := 0
  /-- reconfiguration windows (R309): when the open one began, and the beginnings and ends of the closed ones (ns). -/
  winOpen : Option Nat := none
  windows : List (Nat × Nat) := []
  deriving DecidableEq, Repr, Inhabited

/-! ## The state -/

/-- What a step of the machine is about and what it brings from outside: the arguments of the 111 rows that have no encoding. -/
structure Input where
  /-- a task core. -/
  core : Nat := 0
  /-- a strand (0 to 7), the loader (8) or the storer (9) of that core; a spill slot; a stage. -/
  slot : Nat := 0
  ctx : Nat := 0
  /-- a die, cluster, link, controller, cube or function number. -/
  part : Nat := 0
  /-- a position in a list of the state, or a key. -/
  index : Nat := 0
  index2 : Nat := 0
  /-- a number measured, written or chosen outside. -/
  amount : Nat := 0
  flag : Bool := false
  flag2 : Bool := false
  word0 : Word := 0
  word1 : Word := 0
  wide : Line := 0
  words : List Word := []
  flit : Flit := default
  data : Option Nat := none
  /-- bytes that other cubes answer, by global physical address, where the step reads their memory. -/
  answers : List Host.Cell := []
  deriving DecidableEq, Repr, Inhabited

/-- What the schedule does next; the spec leaves the choice to the cube (R7, R218, R252). -/
inductive Agenda where
  /-- the unit with this key issues its next instruction, or goes on with the one whose accesses it is making. -/
  | issue (key : Nat)
  /-- the same, with one access only of an instruction that makes several (R145, R181). -/
  | access (key : Nat)
  /-- the operands of a strand's next instruction are not present in this cc (R252: latencies are open). -/
  | absent (key : Nat)
  /-- a step of the machine takes place. -/
  | event (i : Instr) (inp : Input)
  /-- a service core of a cluster executes a privileged instruction (R167). -/
  | firmware (cluster : Nat) (i : Instr)
  /-- time passes: core cycles, and nanoseconds beyond them. -/
  | pass (cc : Nat) (ns : Nat)
  /-- an engine operation reads or writes one of its lines (R222). -/
  | line (op : Nat) (k : Nat)
  /-- the instruction cache of a core takes in, or drops, a halfword (R113). -/
  | icache (core : Nat) (half : Nat) (fill : Bool)
  /-- a line of a page with two homes gets a copy in its second slice; or what is accessed is from now on that copy
  (R236; DESIGN CHOICE, log entry 79). -/
  | sliceCopy (ctx : Nat) (va : Word)
  | sliceSwap (ctx : Nat) (va : Word)
  /-- the data of a line becomes uncorrectable, or correct again (R88, ECCU). -/
  | spoil (line : Nat) (bad : Bool)
  /-- a packet reaches this cube from the fabric. -/
  | inject (p : Packet)
  /-- a key of end-to-end numbering starts at this number (R298). -/
  | seqStart (key : Nat) (seq : BitVec 16)
  deriving DecidableEq, Repr

/-- The whole cube. -/
structure State where
  /-- register contexts, by `unitKey`. -/
  units : Tab Strand := []
  cores : Tab Core := []
  clusters : Tab Cluster := []
  ctxs : Tab Ctx := []
  dies : Tab Die := []
  banks : Tab BankCtl := []
  links : Tab Link := []
  /-- memory: bytes by local address (Ops, `scratchKey`); an unlisted byte is zero (R218). -/
  mem : List Host.Cell := []
  /-- full bits of the scratchpads' 64-bit words, by local address over 8 (R124). -/
  full : Tab Bool := []
  /-- ply cells, by `cellKey` (R137). -/
  cells : Tab (Option Cell) := []
  /-- lines whose data is uncorrectable. -/
  bad : Tab Bool := []
  /-- second copies of lines whose homing has changed, by line, until a TLBI ends them (R236). -/
  copies : Tab (Option SliceCopy) := []
  /-- write and read-lease timestamps of lines, banks and cells (R220). -/
  stamps : Tab (Nat × Nat) := []
  ops : List Op := []
  /-- packets waiting to leave the cube, and packets that have reached it and wait at their destination window. -/
  net : List Packet := []
  /-- packets on their way to a unit of this cube, oldest first. -/
  inner : List Packet := []
  /-- packets of this cube that wait for their key's window, oldest first (R298). -/
  outbox : List Packet := []
  /-- packets and messages for die management, oldest first. -/
  mgmt : List Packet := []
  /-- messages that gateway cores have taken, oldest first (R149, R295). -/
  gateways : List Packet := []
  amap : Tab (Option AmapEntry) := []
  routes : Tab (BitVec 128) := []
  removed : List Nat := []
  srcKeys : Tab (Option SrcKey) := []
  dstKeys : Tab (Option DstKey) := []
  counts : Tab Nat := []
  plat : Platform := {}
  /-- interrupt messages sent to the host, oldest first: function, vector. -/
  irqs : List (Nat × Nat) := []
  /-- core cycles since cube reset (R45); nanoseconds of GTIME beyond them. -/
  cycle : Nat := 0
  gtimeBase : Nat := 0
  /-- the unit whose instruction is executed, and whether it makes only its next access (R181). -/
  cur : Nat := 1
  single : Bool := false
  inp : Input := {}
  agenda : List Agenda := []
  /-- the model's own counter: numbers for works, waiters and open choices. -/
  fresh : Nat := 1
  deriving DecidableEq, Repr

/-! ## Why a step can stop -/

/-- Faults. The spec reports every condition as an event, which is a next state; the one fault is for a step that the
spec says never comes about. -/
inductive Fault where
  /-- Raised by no instruction. Safe: nothing is claimed of it. -/
  | none
  deriving DecidableEq, Repr

/-- Refusals: the spec gives no effect. -/
inductive Refusal where
  /-- Raised by exec's arm of an instruction without a meaning. Safe: the run stops. -/
  | notModelled (mnemonic : String)
  /-- Raised when an engine whose block format the spec does not give (copy, gather and collective engine, stage router)
  starts an ESEND command (R154). Safe: the run stops. -/
  | engineBlockFormat (unit : Nat)
  deriving DecidableEq, Repr

/-! ## Reset -/

/-- The cube right after power-on (R317, R321): no context, no firmware, memory unlisted, every field at its default. -/
def State.reset : State := {}

end Sys2Proof.Machine
end

