-- ==== Sys2Proof/Config.lean ====
section
/-! DEFINITION. What the spec leaves to the machine: fixed numbers of the cube, and the free values, which have no body, so
that nothing can be proved of them but what holds for every value. Each is named in the assumption log. -/

namespace Sys2Proof.Config

open Sys2Proof Sys2Proof.Machine

/-- Bytes of one DRAM stack: 384 GB over four stacks (R1, R3, R238). DEDUCED (log entry 6). -/
def stackBytes : Nat := 96000000000

/-- One bit of an open choice among outcomes the spec permits, and a number for it (DESIGN CHOICE, log entry 7). -/
opaque pick : Nat → Nat → Nat

/-- The free credits of a class on a link when a packet is routed: their numbers are not stated (R296, R297; DESIGN CHOICE, log entry 62). -/
opaque freeCredits : Nat → Nat → Nat → Nat

/-- The 16-byte row of a core's run-list region in which the entry of a priority and slot stands: its place is not stated (R16; DESIGN
CHOICE, log entry 8). -/
opaque runListRow : Nat → Nat → Nat → Nat

/-- What a byte of a run-list row without an entry reads as (R16; DESIGN CHOICE, log entry 8). -/
opaque runListByte : Nat → Nat → List (Nat × List RunEntry) → Byte

/-- The link that the counter word of a record in an overflow chain holds: its form is not stated (R16; DESIGN CHOICE, log entry 82). -/
opaque chainLink : Nat → BitVec 48

/-- The wait-kind code of a spill slot's wait descriptor (R20; DESIGN CHOICE, log entry 9). -/
opaque waitCode : WaitKind → BitVec 4

/-- INSN of an event message when the fetch itself failed (R90; DESIGN CHOICE, log entry 10). -/
opaque fetchInsn : Nat → BitVec 32

/-- The register value of a load whose destination context was reset (R88, R121; DESIGN CHOICE, log entry 11). -/
opaque goneValue : Nat → Line

/-- What a service core reads from a special register of firmware, index 0x200 to 0x3FF (R46; DESIGN CHOICE, log entry 14). -/
opaque firmwareRegister : Nat → Nat → Word

/-- A byte that another cube holds and that firmware, die management or the host reads, where the step's input does not say what that cube
answers, by the model's number of the read and its global physical address (DESIGN CHOICE, log entry 15). -/
opaque remoteByte : Nat → Nat → Byte

/-- A byte of a quantised element loaded from a line with uncorrectable data, by the model's number of the operation and its
place in the tile: the spec says what floating elements and headers become (R203; DESIGN CHOICE, log entry 17). -/
opaque spoiledByte : Nat → Nat → Byte

/-- SHAKE-256 to 64 bytes, of a list of bytes (R317, R318; DESIGN CHOICE, log entry 12). -/
opaque shake256 : List Byte → List Byte

/-- The fused digest of the vendor's key, and the public half of the cube's identity key (R317, R318; DESIGN CHOICE, log entry 12). -/
opaque vendorKeyDigest : List Byte
opaque identityKey : List Byte

/-- Whether an ML-DSA-65 signature under a key verifies over a 64-byte digest (R317; DESIGN CHOICE, log entry 12). -/
opaque imageVerifies : List Byte → List Byte → List Byte → Bool

/-- The signature of an attestation report (R318; DESIGN CHOICE, log entry 12). -/
opaque attestationSignature : List Byte → List Byte

/-- AES-256-GCM under a key, IV and additional data: cipher text and tag (R305; DESIGN CHOICE, log entry 12). -/
opaque gcmSeal : BitVec 256 → Nat → List Byte → List Byte → List Byte × BitVec 128

/-- Its inverse: the plain text where the tag verifies (R305; DESIGN CHOICE, log entry 12). -/
opaque gcmOpen : BitVec 256 → Nat → List Byte → List Byte → BitVec 128 → Option (List Byte)

end Sys2Proof.Config
end

