-- ==== Sys2Proof/Machine/Float.lean ====
section
/-! DEFINITION. The floating-point formats of R58, their exact arithmetic on integers, and the one rounding of R64 to R66.
A finite value is (−1)^neg × m × 2^e with a natural m and an integer e; nothing is rounded but in `Fmt.round` and
`Fmt.roundStochastic`. Flags are NV, DZ, OF, UF, NX from bit 4 to bit 0 (R47). -/

namespace Sys2Proof.Machine

open Sys2Proof

/-- A binary format: exponent bits and fraction bits (R58). -/
structure Fmt where
  eb : Nat
  mb : Nat
  deriving DecidableEq, Repr

def fp64 : Fmt := ⟨11, 52⟩
def acc56 : Fmt := ⟨11, 44⟩
def fp32 : Fmt := ⟨8, 23⟩
def fp16 : Fmt := ⟨5, 10⟩
def bf16 : Fmt := ⟨8, 7⟩

/-- The precision codes of R103: 0 FP64, 1 FP32, 2 FP16, 3 BF16. -/
def fmtOf (p : Fin 4) : Fmt := if p.val = 0 then fp64 else if p.val = 1 then fp32 else if p.val = 2 then fp16 else bf16

def Fmt.width (f : Fmt) : Nat := 1 + f.eb + f.mb
def Fmt.bias (f : Fmt) : Nat := 2 ^ (f.eb - 1) - 1
def Fmt.expMax (f : Fmt) : Nat := 2 ^ f.eb - 1
/-- The exponent of the smallest normal value. -/
def Fmt.emin (f : Fmt) : Int := 1 - (f.bias : Int)
def Fmt.signBit (f : Fmt) (neg : Bool) : Nat := if neg then 2 ^ (f.eb + f.mb) else 0
def Fmt.infBits (f : Fmt) (neg : Bool) : Nat := f.signBit neg + f.expMax * 2 ^ f.mb
/-- The largest finite value. -/
def Fmt.maxBits (f : Fmt) (neg : Bool) : Nat := f.signBit neg + f.expMax * 2 ^ f.mb - 1
/-- The canonical quiet NaN (R39, R59). -/
def Fmt.qnan (f : Fmt) : Nat := f.expMax * 2 ^ f.mb + 2 ^ (f.mb - 1)

/-- The value a pattern stands for; `nan` says whether it signals. -/
inductive Num where
  | nan (signalling : Bool)
  | inf (neg : Bool)
  | fin (neg : Bool) (m : Nat) (e : Int)
  deriving DecidableEq, Repr

/-- Read a pattern (R58). -/
def Fmt.unpack (f : Fmt) (n : Nat) : Num :=
  let frac := n % 2 ^ f.mb
  let ex := n / 2 ^ f.mb % 2 ^ f.eb
  let neg := n / 2 ^ (f.eb + f.mb) % 2 == 1
  if ex = f.expMax then (if frac = 0 then .inf neg else .nan (decide (frac < 2 ^ (f.mb - 1))))
  else if ex = 0 then .fin neg frac (f.emin - f.mb)
  else .fin neg (2 ^ f.mb + frac) ((ex : Int) - f.bias - f.mb)

/-- The rounding rules of R64 that look at the exact value alone. -/
inductive Round where
  | nearest | zero | up | down
  deriving DecidableEq, Repr

/-- FPCTL.MODE as a rule; 4 is nearest-even but in `Fmt.roundStochastic`, and 5 to 7 act as 0 (R47). -/
def roundOf (mode : BitVec 3) : Round :=
  if mode = 1 then .zero else if mode = 2 then .up else if mode = 3 then .down else .nearest

abbrev Flags := BitVec 5
def flagNV : Flags := 16
def flagDZ : Flags := 8
def flagOF : Flags := 4
def flagUF : Flags := 2
def flagNX : Flags := 1
def flagIf (b : Bool) (f : Flags) : Flags := if b then f else 0

/-- 2^k for an integer k that is not negative; 1 below. -/
def pow2 (k : Int) : Nat := 2 ^ k.toNat

/-- m × 2^e as a multiple of 2^q, rounded to an integer multiple; the second component says whether it was exact. -/
def roundAt (r : Round) (neg : Bool) (m : Nat) (e q : Int) : Nat × Bool :=
  if q ≤ e then (m * pow2 (e - q), true)
  else
    let d := pow2 (q - e)
    let sig := m / d
    let rem := m % d
    let inc := match r with
      | .nearest => decide (d < 2 * rem) || (decide (2 * rem = d) && sig % 2 == 1)
      | .zero => false
      | .up => !neg && rem != 0
      | .down => neg && rem != 0
    (if inc then sig + 1 else sig, rem == 0)

/-- The exponent of the leading bit of m × 2^e, m not zero. -/
def leadExp (m : Nat) (e : Int) : Int := e + Nat.log2 m

/-- The spacing exponent of a format at a value whose leading bit stands at `x` (R66's u). -/
def Fmt.quantum (f : Fmt) (x : Int) : Int := max (x - f.mb) (f.emin - f.mb)

/-- Pattern of sig × 2^q, where q is a quantum and sig has at most one bit more than the precision; `none` past the largest. -/
def Fmt.pack (f : Fmt) (neg : Bool) (sig : Nat) (q : Int) : Option Nat :=
  let carry := decide (2 ^ (f.mb + 1) ≤ sig)
  let sig' := if carry then sig / 2 else sig
  let q' := if carry then q + 1 else q
  if sig' < 2 ^ f.mb then some (f.signBit neg + sig')
  else
    let ex := q' + f.mb + f.bias
    if (f.expMax : Int) ≤ ex then none else some (f.signBit neg + ex.toNat * 2 ^ f.mb + (sig' - 2 ^ f.mb))

/-- What an overflow gives (R65): infinity, or the largest finite value where the rule points towards zero. -/
def Fmt.overflow (f : Fmt) (r : Round) (neg : Bool) : Nat :=
  match r with
  | .nearest => f.infBits neg
  | .zero => f.maxBits neg
  | .up => if neg then f.maxBits neg else f.infBits neg
  | .down => if neg then f.infBits neg else f.maxBits neg

/-- Tiny after rounding (R65): rounded to the format's precision with no lower exponent bound, below the smallest normal. -/
def Fmt.tiny (f : Fmt) (r : Round) (neg : Bool) (m : Nat) (e : Int) : Bool :=
  let x := leadExp m e
  decide (x < f.emin) && !(decide (x = f.emin - 1) && decide (2 ^ (f.mb + 1) ≤ (roundAt r neg m e (x - f.mb)).1))

/-- The one rounding of R64 and R65: (−1)^neg × m × 2^e into the format. -/
def Fmt.round (f : Fmt) (r : Round) (neg : Bool) (m : Nat) (e : Int) : Nat × Flags :=
  if m = 0 then (f.signBit neg, 0)
  else
    let q := f.quantum (leadExp m e)
    let (sig, exact) := roundAt r neg m e q
    match f.pack neg sig q with
    | none => (f.overflow r neg, flagOF ||| flagNX)
    | some b => (b, flagIf (!exact) flagNX ||| flagIf (!exact && f.tiny r neg m e) flagUF)

/-- R66: the stochastic narrowing of a finite value with the 16-bit number `rnd`; a zero converts as under nearest-even. -/
def Fmt.roundStochastic (f : Fmt) (neg : Bool) (m : Nat) (e : Int) (rnd : Nat) : Nat × Flags :=
  if m = 0 then (f.signBit neg, 0)
  else
    let q := f.quantum (leadExp m e)
    let t := (roundAt .zero false m e (q - 16)).1
    let k := (t + rnd) / 2 ^ 16
    match f.pack neg k q with
    | none => (f.infBits neg, flagOF ||| flagNX)
    | some b =>
      let same := decide ((k : Int) * pow2 (q - min q e) = (m : Int) * pow2 (e - min q e))
      (b, flagIf (!same) flagNX ||| flagIf (!same && decide (leadExp m e < f.emin)) flagUF)

/-- R67: one step of the 32-bit xorshift. -/
def rngStep (x0 : BitVec 32) : BitVec 32 :=
  let x1 := x0 ^^^ (x0 <<< 13)
  let x2 := x1 ^^^ (x1 >>> 17)
  x2 ^^^ (x2 <<< 5)

/-! ## Exact arithmetic -/

def Num.isNan : Num → Bool
  | .nan _ => true
  | _ => false
def Num.isSignalling : Num → Bool
  | .nan s => s
  | _ => false
def Num.isZero : Num → Bool
  | .fin _ m _ => m == 0
  | _ => false
def Num.neg : Num → Num
  | .nan s => .nan s
  | .inf n => .inf (!n)
  | .fin n m e => .fin (!n) m e

/-- m with its sign. -/
def signed (neg : Bool) (m : Nat) : Int := if neg then -(m : Int) else m

/-- The exact sum of two operands that are no NaN; `none` where it is invalid. A zero sum of operands of opposite sign is
+0, but −0 when rounding down (R65). -/
def Num.add (r : Round) : Num → Num → Option Num
  | .fin n1 m1 e1, .fin n2 m2 e2 =>
    let e := min e1 e2
    let v := signed n1 (m1 * pow2 (e1 - e)) + signed n2 (m2 * pow2 (e2 - e))
    if v = 0 then some (.fin (if n1 == n2 then n1 else decide (r = .down)) 0 0) else some (.fin (decide (v < 0)) v.natAbs e)
  | .inf n1, .inf n2 => if n1 == n2 then some (.inf n1) else none
  | .inf n1, _ => some (.inf n1)
  | _, .inf n2 => some (.inf n2)
  | _, _ => none

/-- The exact product of two operands that are no NaN; `none` for 0 × ∞. -/
def Num.mul : Num → Num → Option Num
  | .fin n1 m1 e1, .fin n2 m2 e2 => some (.fin (n1 != n2) (m1 * m2) (e1 + e2))
  | .inf n1, .fin n2 m2 _ => if m2 = 0 then none else some (.inf (n1 != n2))
  | .fin n1 m1 _, .inf n2 => if m1 = 0 then none else some (.inf (n1 != n2))
  | .inf n1, .inf n2 => some (.inf (n1 != n2))
  | _, _ => none

/-- The quotient of two operands that are no NaN, to more bits than any format holds, the last one set when it is inexact;
`none` where it is invalid; a division of a finite value by zero is an infinity here and sets DZ in `fdiv` (R104). -/
def Num.div : Num → Num → Option Num
  | .fin n1 m1 e1, .fin n2 m2 e2 =>
    if m2 = 0 then (if m1 = 0 then none else some (.inf (n1 != n2)))
    else
      let k := 64 + Nat.log2 m2
      let n := m1 * 2 ^ k
      some (.fin (n1 != n2) (2 * (n / m2) + (if n % m2 = 0 then 0 else 1)) (e1 - e2 - k - 1))
  | .inf n1, .fin n2 _ _ => some (.inf (n1 != n2))
  | .fin n1 _ _, .inf n2 => some (.fin (n1 != n2) 0 0)
  | _, _ => none

/-- Integer square root, one bit at a time from bit `i` down. -/
def isqrtLoop (n : Nat) : Nat → Nat → Nat
  | 0, acc => if (acc + 1) * (acc + 1) ≤ n then acc + 1 else acc
  | i + 1, acc =>
    let c := acc + 2 ^ (i + 1)
    isqrtLoop n i (if c * c ≤ n then c else acc)

def isqrt (n : Nat) : Nat := isqrtLoop n (Nat.log2 n / 2 + 1) 0

/-- The square root, to more bits than any format holds, the last one set when it is inexact (R104). -/
def Num.sqrt : Num → Option Num
  | .fin n m e =>
    if m = 0 then some (.fin n 0 0)
    else if n then none
    else
      let e' := if e % 2 = 0 then e else e - 1
      let m' := (if e % 2 = 0 then m else 2 * m) * 2 ^ 128
      let r := isqrt m'
      some (.fin false (2 * r + (if r * r = m' then 0 else 1)) (e' / 2 - 65))
  | .inf n => if n then none else some (.inf false)
  | .nan _ => none

/-- a < b for operands that are no NaN; zeros compare equal. -/
def Num.lt : Num → Num → Bool
  | .fin n1 m1 e1, .fin n2 m2 e2 =>
    let e := min e1 e2
    decide (signed n1 (m1 * pow2 (e1 - e)) < signed n2 (m2 * pow2 (e2 - e)))
  | .inf n1, .inf n2 => n1 && !n2
  | .inf n1, .fin _ _ _ => n1
  | .fin _ _ _, .inf n2 => !n2
  | _, _ => false

/-- The sign of an operand. -/
def Num.sign : Num → Bool
  | .nan _ => false
  | .inf n => n
  | .fin n _ _ => n

/-! ## Operations of the scalar and vector units -/

/-- An operand: its pattern and its value; `boxed` is false for the quiet NaN substituted under R39. -/
structure Opnd where
  bits : Nat
  num : Num
  boxed : Bool
  deriving DecidableEq, Repr

/-- An operand held canonically. -/
def Fmt.opnd (f : Fmt) (n : Nat) : Opnd := ⟨n, f.unpack n, true⟩

/-- An f register read in a format (R39): nonzero upper bits make it the canonical quiet NaN. -/
def Fmt.readReg (f : Fmt) (w : Word) : Opnd :=
  if w.toNat / 2 ^ f.width = 0 then f.opnd w.toNat else ⟨f.qnan, .nan false, false⟩

/-- A pattern of format `f` made quiet. -/
def Fmt.quiet (f : Fmt) (n : Nat) : Nat := if n / 2 ^ (f.mb - 1) % 2 = 1 then n else n + 2 ^ (f.mb - 1)

/-- A quieted NaN of format `f` moved into format `g`: top fraction bits kept, or zeros filled in below (R68). -/
def moveNan (f g : Fmt) (n : Nat) : Nat :=
  let n' := f.quiet n
  let frac := n' % 2 ^ f.mb
  let neg := n / 2 ^ (f.eb + f.mb) % 2 == 1
  g.signBit neg + g.expMax * 2 ^ g.mb + (if g.mb ≤ f.mb then frac / 2 ^ (f.mb - g.mb) else frac * 2 ^ (g.mb - f.mb))

/-- R68: the NaN of the first canonically held NaN operand, else the canonical one. -/
def pickNan (f g : Fmt) : List Opnd → Nat
  | [] => g.qnan
  | o :: t => if o.num.isNan && o.boxed then moveNan f g o.bits else pickNan f g t

def anyNan (os : List Opnd) : Bool := os.any (·.num.isNan)
def anySignalling (os : List Opnd) : Bool := os.any (·.num.isSignalling)

/-- Round an exact result; an invalid operation gives the canonical quiet NaN and NV (R68). -/
def Fmt.finish (f : Fmt) (r : Round) : Option Num → Nat × Flags
  | some (.fin n m e) => f.round r n m e
  | some (.inf n) => (f.infBits n, 0)
  | _ => (f.qnan, flagNV)

/-- The common shape of R68: NaN operands first, then the exact operation rounded once. -/
def Fmt.compute (f : Fmt) (r : Round) (os : List Opnd) (exact : Option Num) : Nat × Flags :=
  if anyNan os then (pickNan f f os, flagIf (anySignalling os) flagNV) else f.finish r exact

def fadd (f : Fmt) (r : Round) (a b : Opnd) : Nat × Flags := f.compute r [a, b] (a.num.add r b.num)
def fsub (f : Fmt) (r : Round) (a b : Opnd) : Nat × Flags := f.compute r [a, b] (a.num.add r b.num.neg)
def fmul (f : Fmt) (r : Round) (a b : Opnd) : Nat × Flags := f.compute r [a, b] (a.num.mul b.num)

/-- Finite and not zero. -/
def Num.isFiniteNonzero : Num → Bool
  | .fin _ m _ => m != 0
  | _ => false

/-- FDIV: a finite nonzero value divided by zero sets DZ (R104). -/
def fdiv (f : Fmt) (r : Round) (a b : Opnd) : Nat × Flags :=
  let (v, fl) := f.compute r [a, b] (a.num.div b.num)
  (v, fl ||| flagIf (a.num.isFiniteNonzero && b.num.isZero) flagDZ)

def fsqrt (f : Fmt) (r : Round) (a : Opnd) : Nat × Flags := f.compute r [a] a.num.sqrt

/-- R105: (−1)^np × a × b + (−1)^nc × c, rounded once; 0 × ∞ is invalid even beside a quiet NaN c. -/
def fmadd (f : Fmt) (r : Round) (np nc : Bool) (a b c : Opnd) : Nat × Flags :=
  let prod := if a.num.isNan || b.num.isNan then some (.nan false) else a.num.mul b.num
  let prod' := prod.map fun p => if np then p.neg else p
  let c' := if nc then c.num.neg else c.num
  if anyNan [a, b, c] then
    (pickNan f f [a, b, c], flagIf (anySignalling [a, b, c] || prod.isNone) flagNV)
  else match prod' with
    | none => (f.qnan, flagNV)
    | some p => f.finish r (p.add r c')

/-- a is below b, −0 below +0 (R106). -/
def Num.below (a b : Num) : Bool := a.lt b || (!b.lt a && a.sign && !b.sign)

/-- R106: FMIN (`max` false) and FMAX. -/
def fminmax (f : Fmt) (max : Bool) (a b : Opnd) : Nat × Flags :=
  let nv := flagIf (anySignalling [a, b]) flagNV
  if a.num.isNan && b.num.isNan then (pickNan f f [a, b], nv)
  else if a.num.isNan then (b.bits, nv)
  else if b.num.isNan then (a.bits, nv)
  else if max then (if a.num.below b.num then b.bits else a.bits, 0)
  else (if b.num.below a.num then b.bits else a.bits, 0)

/-- R107: the comparison `k` (EQ, LT, LE, UN) and the flags it sets. -/
def fcompare (k : Fin 4) (a b : Opnd) : Bool × Flags :=
  if anyNan [a, b] then (decide (k.val = 3), flagIf (k.val = 1 || k.val = 2 || anySignalling [a, b]) flagNV)
  else match k.val with
    | 0 => (!a.num.lt b.num && !b.num.lt a.num, 0)
    | 1 => (a.num.lt b.num, 0)
    | 2 => (!b.num.lt a.num, 0)
    | _ => (false, 0)

/-- R108: the class bit of an operand. -/
def fclass (f : Fmt) (a : Opnd) : Nat :=
  match a.num with
  | .nan s => if s && a.boxed then 256 else 512
  | .inf n => if n then 1 else 128
  | .fin n m _ =>
    if m = 0 then (if n then 8 else 16)
    else if m < 2 ^ f.mb then (if n then 4 else 32)
    else (if n then 2 else 64)

/-! ## Conversions (R69, R83) -/

/-- Float to float: rounded once, stochastically with `rnd` where it is given (R66); NaNs as R68. -/
def cvtFloat (f g : Fmt) (r : Round) (rnd : Option Nat) (a : Opnd) : Nat × Flags :=
  match a.num with
  | .nan s => (pickNan f g [a], flagIf s flagNV)
  | .inf n => (g.infBits n, 0)
  | .fin n m e => match rnd with
    | none => g.round r n m e
    | some k => g.roundStochastic n m e k

/-- The range of an integer type of `n` bits. -/
def intMin (sgn : Bool) (n : Nat) : Int := if sgn then -(2 ^ (n - 1) : Int) else 0
def intMax (sgn : Bool) (n : Nat) : Int := if sgn then 2 ^ (n - 1) - 1 else 2 ^ n - 1

/-- Float to an integer of `n` bits: rounded by the mode, clamped with NV, a NaN gives 0 (R69). -/
def cvtToInt (r : Round) (sgn : Bool) (n : Nat) (a : Opnd) : Int × Flags :=
  match a.num with
  | .nan _ => (0, flagNV)
  | .inf neg => (if neg then intMin sgn n else intMax sgn n, flagNV)
  | .fin neg m e =>
    let (q, exact) := roundAt r neg m e 0
    let v := signed neg q
    if v < intMin sgn n then (intMin sgn n, flagNV)
    else if intMax sgn n < v then (intMax sgn n, flagNV)
    else (v, flagIf (!exact) flagNX)

/-- Integer to float (R69). -/
def cvtOfInt (g : Fmt) (r : Round) (rnd : Option Nat) (v : Int) : Nat × Flags :=
  match rnd with
  | none => g.round r (decide (v < 0)) v.natAbs 0
  | some k => g.roundStochastic (decide (v < 0)) v.natAbs 0 k

/-- Integer to an integer of `n` bits: the nearest end where it does not fit (R69). -/
def clampInt (sgn : Bool) (n : Nat) (v : Int) : Int := max (intMin sgn n) (min (intMax sgn n) v)

/-- An n-bit pattern as a signed or unsigned number. -/
def intOf (sgn : Bool) (n : Nat) (v : Nat) : Int :=
  let u := v % 2 ^ n
  if sgn && decide (2 ^ (n - 1) ≤ u) then (u : Int) - 2 ^ n else u

/-- A number as an n-bit pattern. -/
def ofIntBits (n : Nat) (v : Int) : Nat := (v % (2 ^ n : Int)).toNat

/-! ## Sums of the engines (R64, R74, R77): nearest-even, canonical NaNs only, no flags kept -/

/-- One nearest-even operation of an engine. -/
def engineAdd (f : Fmt) (a b : Nat) : Nat :=
  let x := f.unpack a
  let y := f.unpack b
  if x.isNan || y.isNan then f.qnan else (f.finish .nearest (x.add .nearest y)).1

end Sys2Proof.Machine
end

