-- ==== Sys2Proof/Machine/Tab.lean ====
section
/-! DEFINITION. Sparse tables: a list of (key, value) pairs with strictly rising keys and no entry equal to the table's
default, so that equal tables are equal lists. Every table of the state is read and written through these four operations. -/

namespace Sys2Proof.Machine

open Sys2Proof

variable {α : Type}

/-- The value at key `k`; `d` where none is listed. -/
def Tab.read (d : α) : Tab α → Nat → α
  | [], _ => d
  | (k', v) :: t, k => if k' = k then v else Tab.read d t k

/-- The table without key `k`. -/
def Tab.erase : Tab α → Nat → Tab α
  | [], _ => []
  | (k', v) :: t, k => if k' = k then Tab.erase t k else (k', v) :: Tab.erase t k

/-- The table with an entry put before the first greater key. -/
def Tab.insert (k : Nat) (v : α) : Tab α → Tab α
  | [] => [(k, v)]
  | (k', v') :: t => if k < k' then (k, v) :: (k', v') :: t else (k', v') :: Tab.insert k v t

/-- The table with `v` at key `k`; writing the default removes the entry. -/
def Tab.write [DecidableEq α] (d : α) (t : Tab α) (k : Nat) (v : α) : Tab α :=
  if v = d then Tab.erase t k else Tab.insert k v (Tab.erase t k)

/-- Every value changed, entries that become the default dropped; the default at a key is `d`. -/
def Tab.remap [DecidableEq α] (d : Nat → α) (f : α → α) : Tab α → Tab α
  | [] => []
  | (k, v) :: t => if f v = d k then Tab.remap d f t else (k, f v) :: Tab.remap d f t

/-- Every key is at least `lo`, keys rise strictly, and no entry is the default. -/
def Tab.wfFrom [DecidableEq α] (d : α) (lo : Nat) : Tab α → Bool
  | [] => true
  | (k, v) :: t => decide (lo ≤ k) && !decide (v = d) && Tab.wfFrom d (k + 1) t

/-- The canonical form of a table with default `d`. -/
def Tab.wf [DecidableEq α] (d : α) (t : Tab α) : Bool := Tab.wfFrom d 0 t

/-- Memory's canonical form (R218: an unlisted byte reads zero). -/
def Memory.wf (m : List Host.Cell) : Bool := Tab.wf (0 : Byte) m

end Sys2Proof.Machine
end

