-- ==== Sys2Proof/Machine/Operands.lean ====
section
/-! DEFINITION. Reading and writing the registers of a strand (R37 to R43), immediate operands (R101), lanes of vector
registers (R40) and little-endian byte order (R4). -/

namespace Sys2Proof.Machine

open Sys2Proof

/-! ## Bits and bytes -/

/-- Bits hi to lo of a natural number (R92). -/
def bits (v hi lo : Nat) : Nat := v / 2 ^ lo % 2 ^ (hi + 1 - lo)

/-- A number with bits hi to lo replaced. -/
def setBits (v hi lo x : Nat) : Nat :=
  v % 2 ^ lo + (x % 2 ^ (hi + 1 - lo)) * 2 ^ lo + v / 2 ^ (hi + 1) * 2 ^ (hi + 1)

/-- The low n bits of v, sign-extended to 64 bits (R92). -/
def sext (v n : Nat) : Word := BitVec.ofInt 64 (intOf true n v)

/-- The n bytes of v, lowest first (R4). -/
def leBytes : Nat → Nat → List Byte
  | 0, _ => []
  | n + 1, v => BitVec.ofNat 8 (v % 256) :: leBytes n (v / 256)

/-- The number whose bytes are these, lowest first (R4). -/
def leVal : List Byte → Nat
  | [] => 0
  | b :: t => b.toNat + 256 * leVal t

/-- Words of eight bytes, lowest first. -/
def leWords : List Byte → List Word
  | b0 :: b1 :: b2 :: b3 :: b4 :: b5 :: b6 :: b7 :: t => BitVec.ofNat 64 (leVal [b0, b1, b2, b3, b4, b5, b6, b7]) :: leWords t
  | _ => []

/-- The bytes of a list of words. -/
def bytesOfWords : List Word → List Byte
  | [] => []
  | w :: t => leBytes 8 w.toNat ++ bytesOfWords t

def wordAt (l : List Word) (i : Nat) : Word := l.getD i 0

/-! ## Registers -/

/-- The value a performed load has not yet put into register `r`. -/
def Strand.pending (u : Strand) (r : LoadDest) : Option Line := (u.pend.find? fun p => decide (p.dest = r)).map (·.val)

/-- x[r]: x0 reads zero (R38); a load that has not returned is waited for (R122). -/
def Strand.readX (u : Strand) (r : Fin 32) : Word :=
  if r.val = 0 then 0 else match u.pending (.x r) with
    | some v => v.setWidth 64
    | none => Tab.read 0 u.x r.val

/-- Loads under way whose destination has been written since: they still return, and write nothing. -/
def forget (l : List Pend) (d : LoadDest) : List Pend := l.map fun p => if p.dest = d then { p with dest := .none } else p

/-- Write x[d]; x0 discards (R38). -/
def Strand.setX (u : Strand) (d : Fin 32) (v : Word) : Strand :=
  if d.val = 0 then u else { u with x := Tab.write 0 u.x d.val v, pend := forget u.pend (.x d) }

def Strand.readF (u : Strand) (r : Fin 32) : Word := Tab.read 0 u.f r.val
def Strand.setF (u : Strand) (d : Fin 32) (v : Word) : Strand := { u with f := Tab.write 0 u.f d.val v }

def Strand.readV (u : Strand) (r : Fin 32) : Line := match u.pending (.v r) with
  | some v => v
  | none => Tab.read 0 u.v r.val
def Strand.setV (u : Strand) (d : Fin 32) (v : Line) : Strand :=
  { u with v := Tab.write 0 u.v d.val v, pend := forget u.pend (.v d) }

/-- m[r]: m0 reads all ones (R37). -/
def Strand.readM (u : Strand) (r : Fin 8) : Word := if r.val = 0 then BitVec.allOnes 64 else Tab.read 0 u.m r.val
/-- Write m[d]; m0 discards (R38). -/
def Strand.setM (u : Strand) (d : Fin 8) (v : Word) : Strand := if d.val = 0 then u else { u with m := Tab.write 0 u.m d.val v }

/-- tm[r] (R43). -/
def Strand.readTm (u : Strand) (r : Fin 16) : BitVec 256 := match u.pending (.tm r) with
  | some v => v.setWidth 256
  | none => Tab.read 0 u.tm r.val

/-- A load has been performed: its value waits to return into the register (R44, R122); x0 drops the value, and the load is counted
all the same (R119). -/
def Strand.loadTo (u : Strand) (d : LoadDest) (v : Line) : Strand :=
  { u with loads := u.loads + 1, pend := forget u.pend d ++ [⟨if d = .x 0 then .none else d, v⟩] }

/-- Put a returned value into its register (R122). -/
def Strand.deliver (u : Strand) (p : Pend) : Strand := match p.dest with
  | .x r => u.setX r (p.val.setWidth 64)
  | .v r => u.setV r p.val
  | .tm r => { u with tm := Tab.write 0 u.tm r.val (p.val.setWidth 256), pend := forget u.pend (.tm r) }
  | .none => u
  | .block => u

/-- Every load of the strand returns. -/
def Strand.deliverAll (u : Strand) : Strand := { u.pend.foldl Strand.deliver u with loads := 0, pend := [] }

/-- A double-word operand or result in a register of the given kind: an integer immediate, sign-extended (R101). -/
def imm15 (i : BitVec 15) : Word := i.signExtend 64

/-- An f register read in precision `p` (R39, R103). -/
def Strand.readFp (u : Strand) (p : Fin 4) (r : Fin 32) : Opnd := (fmtOf p).readReg (u.readF r)

/-! ## Lanes -/

/-- Lane i of a vector register, at `n` bits a lane (R40). -/
def lane (v : Line) (n i : Nat) : Nat := v.toNat / 2 ^ (n * i) % 2 ^ n

/-- The register whose lanes are these, n bits each, lane 0 first (R40). -/
def lanesVal (n : Nat) : List Nat → Nat
  | [] => 0
  | x :: t => x % 2 ^ n + 2 ^ n * lanesVal n t

def ofLanes (n : Nat) (l : List Nat) : Line := BitVec.ofNat 512 (lanesVal n l)

/-- Lanes of an n-bit element width: 512 / n (R40). -/
def laneCount (n : Nat) : Nat := 512 / n

/-- Lane i is active, and not masked off (R41, R42). -/
def Strand.laneOn (u : Strand) (m : Fin 8) (i : Nat) : Bool := decide (i < u.vl.toNat) && (u.readM m).getLsbD i

end Sys2Proof.Machine
end

