-- ==== Sys2Proof/Machine/Ops.lean ====
section
/-! DEFINITION. The named operations over the state: register contexts, cores, clusters and contexts by number; how an
instruction ends (retire, event, wait at issue, resident block); taking an event and its message (R87 to R90); the
outstanding-operation counters (R44). -/

namespace Sys2Proof.Machine

open Sys2Proof

/-! ## Who acts

A register context has a key: core × 16 + slot, slot 0 to 7 a strand, 8 the loader, 9 the storer; 4096 + k is the service
core of cluster k. -/

def unitKey (core slot : Nat) : Nat := core * 16 + slot
def serviceKey (cluster : Nat) : Nat := 4096 + cluster
def isService (key : Nat) : Bool := decide (4096 ≤ key)
def coreOf (key : Nat) : Nat := key / 16
def slotOf (key : Nat) : Nat := key % 16
def isSpindle (key : Nat) : Bool := !isService key && decide (8 ≤ slotOf key)
/-- Strand 0 of a task core (R10). -/
def isMsgStrand (key : Nat) : Bool := !isService key && decide (slotOf key = 0)
/-- Strands 1 to 7 of a task core (R10). -/
def isTaskStrand (key : Nat) : Bool := !isService key && decide (1 ≤ slotOf key) && decide (slotOf key < 8)
def clusterOf (key : Nat) : Nat := if isService key then key - 4096 else key / 128
def dieOfCore (core : Nat) : Nat := core / 64

/-- R48: the RNGST a strand starts with when its context is created. -/
def rngSeed (core strand : Nat) : BitVec 32 :=
  0x9E3779B1 ^^^ BitVec.ofNat 32 (core * 0x00010001) ^^^ BitVec.ofNat 32 (strand * 0x01000100)

/-- A register context nothing has written. -/
def unitDefault (key : Nat) : Strand :=
  if !isService key && decide (slotOf key < 8) then { rngst := rngSeed (coreOf key) (slotOf key) } else {}

def State.unit (s : State) (key : Nat) : Strand := Tab.read (unitDefault key) s.units key
def State.setUnit (s : State) (key : Nat) (u : Strand) : State := { s with units := Tab.write (unitDefault key) s.units key u }
/-- The register context whose instruction is executed. -/
def State.me (s : State) : Strand := s.unit s.cur
def State.setMe (s : State) (u : Strand) : State := s.setUnit s.cur u

def State.core (s : State) (c : Nat) : Core := Tab.read {} s.cores c
def State.setCore (s : State) (c : Nat) (k : Core) : State := { s with cores := Tab.write {} s.cores c k }
def State.cluster (s : State) (c : Nat) : Cluster := Tab.read {} s.clusters c
def State.setCluster (s : State) (c : Nat) (k : Cluster) : State := { s with clusters := Tab.write {} s.clusters c k }
def State.ctx (s : State) (c : Nat) : Ctx := Tab.read {} s.ctxs c
def State.setCtx (s : State) (c : Nat) (k : Ctx) : State := { s with ctxs := Tab.write {} s.ctxs c k }
def State.die (s : State) (d : Nat) : Die := Tab.read {} s.dies d
def State.setDie (s : State) (d : Nat) (k : Die) : State := { s with dies := Tab.write {} s.dies d k }
def State.bank (s : State) (b : Nat) : BankCtl := Tab.read {} s.banks b
def State.setBank (s : State) (b : Nat) (k : BankCtl) : State := { s with banks := Tab.write {} s.banks b k }
def State.link (s : State) (l : Nat) : Link := Tab.read {} s.links l
def State.setLink (s : State) (l : Nat) (k : Link) : State := { s with links := Tab.write {} s.links l k }

/-- This cube's number (R321). -/
def State.cubeNum (s : State) : Nat := s.plat.cube.toNat
/-- The context a cluster belongs to (R312); 16, which is no context, where it has none. -/
def State.ctxOfCluster (s : State) (c : Nat) : Nat := (s.cluster c).ctx.getD 16
/-- The context of a register context (R50: a spindle core has its task core's). -/
def State.ctxOf (s : State) (key : Nat) : Nat := s.ctxOfCluster (clusterOf key)
def State.myCtx (s : State) : Nat := s.ctxOf s.cur
/-- GTIME in ns: one cc is 5/9 ns (R5, R45). -/
def State.gtime (s : State) : Nat := s.gtimeBase + s.cycle * 5 / 9
/-- A core of the context's partition. -/
def State.inPartition (s : State) (ctx core : Nat) : Bool := decide (core < 256) && decide ((s.cluster (core / 8)).ctx = some ctx)
/-- A count the spec says is kept and reported. -/
def Count.key : Count → Nat
  | .staleDecrement => 0
  | .refusedSubmission => 1
  | .discardedMessage => 2
  | .discardedReply => 3
  | .bar2Miss => 4
  | .routerDiscard => 5
  | .staleGeneration => 6
def State.count (s : State) (ctx : Nat) (c : Count) : State :=
  let k := s.ctx ctx
  s.setCtx ctx { k with counts := Tab.write 0 k.counts c.key (Tab.read 0 k.counts c.key + 1) }
def State.countCube (s : State) (c : Count) : State := { s with counts := Tab.write 0 s.counts c.key (Tab.read 0 s.counts c.key + 1) }

/-- Unit numbers in packets (R295): cluster units of a die. -/
def unitNumber (key : Nat) : Nat :=
  if isService key then (key - 4096) / 8 * 1024 + (key - 4096) % 8 * 64 + 8
  else
    let core := coreOf key
    let slot := if slotOf key < 8 then core % 8 else if slotOf key = 8 then 16 + core % 8 else 24 + core % 8
    core / 64 * 1024 + core / 8 % 8 * 64 + slot

/-- The task core a unit number names (R295: slots 0 to 7). -/
def coreOfUnit (unit : Nat) : Option Nat :=
  if unit / 512 % 2 = 0 && decide (unit % 64 < 8) then some (unit / 1024 * 64 + unit / 64 % 8 * 8 + unit % 64) else none

/-! ## Events -/

/-- The event codes of R88. -/
def EvCode.num : EvCode → Nat
  | .undef => 0x01
  | .priv => 0x02
  | .align => 0x03
  | .xmiss => 0x04
  | .perm => 0x05
  | .nopage => 0x06
  | .plypool => 0x07
  | .plyremote => 0x08
  | .sidefx => 0x09
  | .tileown => 0x0A
  | .fmtmis => 0x0B
  | .hoverrun => 0x0C
  | .hblock => 0x0D
  | .bkpt => 0x0E
  | .svc => 0x0F
  | .unreach => 0x10
  | .e2elost => 0x11
  | .liststale => 0x12
  | .eccu => 0x13
  | .colltmo => 0x14
  | .tshape => 0x15
  | .ctxgone => 0x16
  | .trap => 0x17

/-- Why an instruction does not retire. -/
inductive Stop where
  /-- it stops precisely on an event (R87): code, ADDR, LANE, AUX. -/
  | event (code : EvCode) (addr : Word) (lane : Nat) (aux : BitVec 10)
  /-- it waits at issue (R252); an end of its own where it has one (IDLE). -/
  | hold (kind : HoldKind) (until_ : Nat)
  /-- it blocks residently (R19). -/
  | block (kind : WaitKind) (addr : Word)
  /-- a part of it is done, and PC stays: a block of another cube has been asked for (R145), or one of its accesses made (R181). -/
  | await (t : State)
  deriving DecidableEq, Repr

abbrev Res (α : Type) := Except Stop α

def raise {α : Type} (code : EvCode) (addr : Word) : Res α := .error (.event code addr 0 0)
def raiseAt {α : Type} (code : EvCode) (addr : Word) (lane : Nat) : Res α := .error (.event code addr lane 0)
def stall {α : Type} (kind : HoldKind) : Res α := .error (.hold kind 0)
def blockOn {α : Type} (kind : WaitKind) (addr : Word) : Res α := .error (.block kind addr)
/-- Raise an event where a condition holds. -/
def need (ok : Bool) (code : EvCode) (addr : Word) : Res Unit := if ok then .ok () else raise code addr

/-- MAJOR of the event message (R90): 63 for a 16-bit instruction. -/
def majorOf (u : Strand) : Nat := if u.irLen = 2 then 63 else u.ir.toNat / 2 % 64

/-- The major opcode of an operation as MSTAT reports it (R49): a 16-bit instruction is the form it expands to (R81). -/
def opMajor (u : Strand) : Nat :=
  let op := u.ir.toNat / 2 % 16
  if u.irLen ≠ 2 then u.ir.toNat / 2 % 64
  else if op = 7 then 16
  else if op = 8 then 17
  else if op = 13 then 18
  else if op = 14 then 19
  else if u.ir.toNat / 32 % 8 = 2 then 32 else 33

/-- The event message of a unit that stops now (R90). -/
def State.eventMsg (s : State) (key : Nat) (code : EvCode) (addr : Word) (lane : Nat) (aux : BitVec 10) : EventMsg :=
  let u := s.unit key
  { code := code, note := false, strand := if isSpindle key then 0 else slotOf key, unit := unitNumber key, ctx := s.ctxOf key,
    gen := (s.ctx (s.ctxOf key)).gen, major := majorOf u, ply := u.ply, pc := u.pc, addr := addr, insn := u.ir, lane := lane,
    aux := aux, party := key }

/-- Pool lines that have been taken and not used go back (R182, R204). -/
def State.returnLines (s : State) (ctx : Nat) (ls : List (Nat × Nat)) : State :=
  ls.foldl (fun (t : State) l =>
    let k := t.ctx ctx
    t.setCtx ctx { k with poolFree := Tab.write 0 k.poolFree l.2 (Tab.read 0 k.poolFree l.2 + 1) }) s

/-- Take an event (R87): the strand stops at the instruction, PC and every register unchanged; its event slot holds the
message until EVENT_MESSAGE posts it. A spindle core also records CODE (R51). Pool lines that it took while it waited go back (R138). -/
def State.takeEventOf (s : State) (key : Nat) (code : EvCode) (addr : Word) (lane : Nat) (aux : BitVec 10) : State :=
  let u := s.unit key
  (s.returnLines (s.ctxOf key) u.taken).setUnit key { u with
    event := some (s.eventMsg key code addr lane aux), posted := false, st := .stopped, hold := none, wait := none, haltWait := none, blocks := [], taken := [],
    vec := none, code := if isSpindle key then BitVec.ofNat 8 code.num else u.code }

def State.takeEvent (s : State) (code : EvCode) (addr : Word) (lane : Nat) (aux : BitVec 10) : State :=
  s.takeEventOf s.cur code addr lane aux

/-- A note (R88): a message that stops nobody, in the service core's inbox of a cluster. -/
def State.note (s : State) (cluster : Nat) (ctx : Nat) (unit : Nat) (code : EvCode) (addr : Word) : State :=
  let k := s.cluster cluster
  s.setCluster cluster { k with svc := k.svc ++
    [{ code := code, note := true, strand := 0, unit := unit, ctx := ctx, gen := (s.ctx ctx).gen, major := 0, ply := 0, pc := 0,
       addr := addr, insn := 0, lane := 0, aux := 0, party := 0 }] }

/-- Two waits of one instruction are one wait: the address of the pool line that lacks may change (R182, R204). -/
def HoldKind.same : HoldKind → HoldKind → Bool
  | .plyPool _ _, .plyPool _ _ => true
  | a, b => decide (a = b)

/-- Wait at issue (R252): nothing changes but the mark; a wait already under way keeps its beginning. -/
def State.holdAt (s : State) (kind : HoldKind) (until_ : Nat) : State :=
  let u := s.me
  s.setMe { u with hold := some (match u.hold with
    | some h => if h.kind.same kind then { h with kind := kind } else ⟨kind, s.cycle, until_⟩
    | none => ⟨kind, s.cycle, until_⟩) }

/-- The wait of a unit that cannot go on: one already under way keeps its beginning and its place; one that a halt withdrew keeps its timer, which
was paused (R266), and how often it was passed over. -/
def State.waitMark (s : State) (kind : WaitKind) (addr : Word) : Wait := match s.me.wait with
  | some w => if w.kind = kind ∧ w.addr = addr then w else ⟨kind, addr, s.cycle, s.fresh, 0⟩
  | none => match s.me.haltWait with
    | some w => if w.kind = kind ∧ w.addr = addr then { w with seq := s.fresh } else ⟨kind, addr, s.cycle, s.fresh, 0⟩
    | none => ⟨kind, addr, s.cycle, s.fresh, 0⟩

/-- The entry with the least number. -/
def leastBy {α : Type} (f : α → Nat) : List α → Option α
  | [] => none
  | a :: t => match leastBy f t with
    | some b => if f b < f a then some b else some a
    | none => some a

/-- The unit waiting on a word that has been passed over 16 times, the first of them (R126): the word's next state is for it. -/
def State.passedOver (s : State) (kind : WaitKind) (addr : Word) : Option Nat :=
  (leastBy (fun (e : Nat × Wait) => e.2.seq) (s.units.filterMap fun e => match e.2.wait with
    | some x => if x.kind = kind ∧ x.addr = addr ∧ 16 ≤ x.passed ∧ !e.2.halted then some (e.1, x) else none
    | none => none)).map (·.1)

/-- Another unit than the executing one is next at a word (R126). -/
def State.isReserved (s : State) (kind : WaitKind) (addr : Word) : Bool := match s.passedOver kind addr with
  | some key => decide (key ≠ s.cur)
  | none => false

/-- The executing unit has used up a word's state: the others that wait for that state have been passed over once more (R126). -/
def State.passOthers (s : State) (kind : WaitKind) (addr : Word) : State :=
  { s with units := s.units.map fun e => (e.1, { e.2 with wait := e.2.wait.map fun w =>
      if w.kind = kind ∧ w.addr = addr then { w with passed := w.passed + 1 } else w }) }

/-- Block residently (R19): the strand is BLOCKED. -/
def State.blockAt (s : State) (kind : WaitKind) (addr : Word) : State :=
  { s.setMe { s.me with st := .blocked, hold := none, wait := some (s.waitMark kind addr), haltWait := none } with fresh := s.fresh + 1 }

/-- A spindle core waits for a word at issue, among the word's waiters (R50, R126). -/
def State.waitWord (s : State) (kind : WaitKind) (addr : Word) : State :=
  { s.setMe { s.me with hold := some ⟨.word, s.cycle, 0⟩, wait := some (s.waitMark kind addr) } with fresh := s.fresh + 1 }

/-- A spindle core's tile command waits at issue for the lease (R191). -/
def State.waitLease (s : State) : State :=
  let w := s.waitMark .tileLease 0
  let s1 := s.holdAt .tile 0
  { s1.setMe { s1.me with wait := some w } with fresh := s.fresh + 1 }

/-- How an instruction's result becomes the next state: an instruction that stops or waits has no other effect (R87). -/
def finish (s : State) : Res State → Host.Outcome State Fault Refusal
  | .ok t => .next t
  | .error (.event code addr lane aux) => .next (s.takeEvent code addr lane aux)
  | .error (.hold kind until_) => .next (s.holdAt kind until_)
  | .error (.block kind addr) => .next (s.blockAt kind addr)
  | .error (.await t) => .next t

/-! ## Retiring -/

/-- A PC value: bit 0 is zero (R37); a spindle core's wraps modulo 4 KiB (R50). A spindle core's PC is held, linked and reported as a byte
offset, twice the halfword offset of R50 (DESIGN CHOICE, log entry 94). -/
def pcValue (key : Nat) (p : Word) : Word := if isSpindle key then p &&& 0xFFE else p &&& ~~~(1 : Word)

/-- The registers of the unit that executes, with PC at `p`, no longer waiting; operand blocks of the instruction that is done are dropped. -/
def Strand.goto (u : Strand) (key : Nat) (p : Word) : Strand := { u with pc := pcValue key p, hold := none, wait := none, haltWait := none, blocks := [] }

/-- The instruction is done: registers `u`, PC at `p`. -/
def State.retireTo (s : State) (u : Strand) (p : Word) : State := s.setMe (u.goto s.cur p)
/-- The instruction is done: registers `u`, PC past its `len` bytes. -/
def State.retire (s : State) (u : Strand) (len : Nat) : State := s.retireTo u (u.pc + BitVec.ofNat 64 len)

/-! ## Outstanding operations (R44) -/

def Strand.counter (u : Strand) : Ctr → Nat
  | .none => 0
  | .stores => u.stores
  | .copies => u.copies
  | .tiles => u.tiles
  | .msgs => u.msgs

def Strand.raiseCtr (u : Strand) : Ctr → Strand
  | .none => u
  | .stores => { u with stores := u.stores + 1 }
  | .copies => { u with copies := u.copies + 1 }
  | .tiles => { u with tiles := u.tiles + 1 }
  | .msgs => { u with msgs := u.msgs + 1 }

def Strand.lowerCtr (u : Strand) : Ctr → Strand
  | .none => u
  | .stores => { u with stores := u.stores - 1 }
  | .copies => { u with copies := u.copies - 1 }
  | .tiles => { u with tiles := u.tiles - 1 }
  | .msgs => { u with msgs := u.msgs - 1 }

/-- R44: an instruction that would take a counter above 65,535 waits at issue. -/
def roomIn (n : Nat) : Res Unit := if n < 65535 then .ok () else stall .counter

/-- The most recent status-reporting operation (R49). -/
def Strand.status (u : Strand) (last : Nat) (major : Nat) : Strand :=
  { u with last := BitVec.ofNat 8 last, major := BitVec.ofNat 6 major, err := u.err || last != 0 }

/-- Add an operation in flight. -/
def State.addOp (s : State) (o : Op) : State := { s with ops := s.ops ++ [{ o with ord := s.fresh }], fresh := s.fresh + 1 }

/-- A plain operation of the executing unit. -/
def State.newOp (s : State) (kind : OpKind) (ctr : Ctr) : Op :=
  { kind := kind, ctr := ctr, party := s.cur, wid := s.me.wid, ctx := s.myCtx, gen := (s.ctx s.myCtx).gen, pts := s.me.pts,
    since := s.cycle, ord := s.fresh, reads := [], writes := [], buf := [], status := 0, done := none, engerr := false }

/-- R31: the forms that a handler must not issue. -/
def State.noHandler (s : State) : Res Unit := if isMsgStrand s.cur then raise .hblock 0 else .ok ()

end Sys2Proof.Machine
end

