-- ==== Sys2Proof/Machine/Flags.lean ====
section
/-! DEFINITION. The flag and status computations: FPFLG and FPCTL of a strand (R47), RNGST's steps (R67), ASTAT of an array
(R54), and MSTAT as SRW writes it (R49, R115). -/

namespace Sys2Proof.Machine

open Sys2Proof

/-- FPFLG is sticky: flags are only set (R47). -/
def Strand.addFlags (u : Strand) (f : Flags) : Strand := { u with fpflg := u.fpflg ||| f }

/-- The rounding rule the strand's MODE names (R47, R64). -/
def Strand.rounding (u : Strand) : Round := roundOf u.fpctl
/-- MODE 4 (R64, R66). -/
def Strand.stochastic (u : Strand) : Bool := decide (u.fpctl = 4)

/-- The 16 random bits of the next RNGST step (R66, R67). -/
def rndBits (r : BitVec 32) : Nat := (rngStep r).toNat / 2 ^ 16

/-- The destinations that round stochastically under MODE 4 (R64): BF16 and FP16. -/
def stochasticFmt (g : Fmt) : Bool := decide (g = bf16) || decide (g = fp16)

/-- ASTAT: OF, NV, UF, NX are sticky (R54). -/
def Cluster.addAstat (k : Cluster) (f : BitVec 9) : Cluster := { k with astat := k.astat ||| (f &&& 0xF) }
def astatOF : BitVec 9 := 1
def astatNV : BitVec 9 := 2
def astatUF : BitVec 9 := 4
def astatNX : BitVec 9 := 8
/-- The flags of one rounding as ASTAT holds them; an array's NV is set where a NaN is produced (R54, R74). -/
def astatOf (f : Flags) : BitVec 9 :=
  (if f.getLsbD 4 then astatNV else 0) ||| (if f.getLsbD 2 then astatOF else 0)
    ||| (if f.getLsbD 1 then astatUF else 0) ||| (if f.getLsbD 0 then astatNX else 0)
/-- Flags set in this cc, which no clear in it takes away (R54). -/
def Cluster.justSet (k : Cluster) (now : Nat) : BitVec 9 := if k.astatSet.1 = now then k.astatSet.2 else 0
/-- SRW of ASTAT (R115): OF, NV, UF, NX are cleared by ones; SAT is replaced. -/
def astatWrite (old : BitVec 9) (v : Word) : BitVec 9 :=
  (old &&& ~~~(v.setWidth 9) &&& 0xF) ||| (v.setWidth 9 &&& 0x100)

/-- MSTAT as SRR reads it (R49). -/
def Strand.mstat (u : Strand) : Word :=
  u.last.setWidth 64 ||| (u.major.setWidth 64 <<< 8) ||| (if u.err then 0x10000 else 0) ||| (if u.engerr then 0x20000 else 0)
/-- SRW of MSTAT (R49, R115): LAST and MAJOR replaced, ERR and ENGERR cleared by ones, never set. -/
def Strand.writeMstat (u : Strand) (v : Word) : Strand :=
  { u with last := v.setWidth 8, major := (v >>> 8).setWidth 6, err := u.err && !v.getLsbD 16, engerr := u.engerr && !v.getLsbD 17 }

/-- SRW of RNGST (R48): a zero stores 0x6D2B79F5. -/
def rngWrite (v : Word) : BitVec 32 := if v.setWidth 32 = 0 then 0x6D2B79F5 else v.setWidth 32
/-- SRW of VL (R42). -/
def vlWrite (v : Word) : BitVec 7 := if 64 < v.toNat then 64 else v.setWidth 7

end Sys2Proof.Machine
end

