-- ==== Sys2Proof/Machine/Access.lean ====
section
/-! DEFINITION. From a virtual address to a place in memory and the checks on the way (R93, R119, R232 to R249); bytes of
base memory, ply cells (R137, R138, R230), full bits (R124) and logical timestamps (R220). Every party's access goes
through the operations of this file. -/

namespace Sys2Proof.Machine

open Sys2Proof

/-! ## Local addresses

Memory's keys: a DRAM byte by its 39-bit cube-local address (R238); a scratchpad byte at 2^59 + core × 2^28 + offset. -/

def scratchKey (core off : Nat) : Nat := 2 ^ 59 + core * 2 ^ 28 + off
def isScratchKey (key : Nat) : Bool := decide (2 ^ 59 ≤ key)
def scratchCore (key : Nat) : Nat := key / 2 ^ 28 % 256
def scratchOff (key : Nat) : Nat := key % 2 ^ 20


/-- The kinds of access the checks tell apart (R243). -/
inductive Access where
  | read | write | exec
  deriving DecidableEq, Repr

/-! ## Reserved scratchpad regions (R18) -/

def runListBase : Nat := 0xFC000
def inboxBase : Nat := 0xEC000
def spillBase (k : Core) : Nat := inboxBase - k.spillSize * 4096
/-- The pool's size: records and counters, rounded up to 4 KiB. -/
def poolBytes (k : Core) : Nat := (k.poolSize * 72 + 4095) / 4096 * 4096
def poolBase (k : Core) : Nat := spillBase k - poolBytes k
def recordOff (k : Core) (slot : Nat) : Nat := poolBase k + slot * 64
def counterOff (k : Core) (slot : Nat) : Nat := poolBase k + k.poolSize * 64 + slot * 8
def spillOff (k : Core) (slot : Nat) : Nat := spillBase k + slot * 4096
/-- The regions lie without a gap from the pool to the end of the scratchpad. -/
def State.reservedOff (s : State) (core off : Nat) : Bool := decide (poolBase (s.core core) ≤ off)

/-! ## Translation -/

/-- Page size as a shift (R241). -/
def Pte.shift (p : Pte) : Nat := if p.sz = 0 then 16 else if p.sz = 1 then 21 else 30

/-- An entry matches an address of a context (R244). -/
def Pte.hits (p : Pte) (ctx : Nat) (va : Nat) : Bool :=
  p.v && decide (p.ctx.toNat = ctx) && decide (va / 2 ^ p.shift = p.vpn.toNat * 2 ^ 16 / 2 ^ p.shift)

/-- The address an entry gives (R241). -/
def Pte.map (p : Pte) (va : Nat) : Nat := p.pfn.toNat * 2 ^ 16 + va % 2 ^ p.shift

/-- The matching entry of lowest index (R244). -/
def tlbFind (tlb : Tab (Option Pte)) (ctx va : Nat) : Option Pte :=
  (tlb.find? fun e => match e.2 with
    | some p => p.hits ctx va
    | none => false).bind (·.2)

/-- R248: an entry that breaks a rule of its table counts as not valid. -/
def AmapEntry.ok (e : AmapEntry) : Bool :=
  e.v && decide (12 ≤ e.glog.toNat) && decide (e.glog.toNat ≤ 30) && decide (e.n ≠ 0) && decide (e.size ≠ 0)
    && decide (e.base.toNat % 2 ^ e.glog.toNat = 0) && decide (e.size.toNat % 2 ^ e.glog.toNat = 0)
    && decide (e.lbase.toNat % 2 ^ e.glog.toNat = 0)

/-- A run list's own entries: what exceeds them is its overflow chain (R16). -/
def runListRoom : Nat := 256

/-- The 16 bytes of a run-list entry of a core (R16). -/
def runEntryBytes (cube core : Nat) (k : Core) (e : RunEntry) : List Byte :=
  leBytes 8 (15 * 2 ^ 60 + cube * 2 ^ 36 + core * 2 ^ 28 + recordOff k e.slot) ++ leBytes 8 e.word1.toNat

/-- A byte of a core's run-list region (R16): an entry's, in the row where it stands, which is open, as are the other rows. -/
def State.runListByte (s : State) (core off : Nat) : Byte :=
  let k := s.core core
  match (List.range 4).findSome? fun p => ((Tab.read [] k.runq p).take runListRoom).find? fun e =>
      decide (Config.runListRow core p e.slot % 1024 = (off - runListBase) / 16) with
  | some e => (runEntryBytes s.cubeNum core k e).getD (off % 16) 0
  | none => Config.runListByte core off k.runq

/-- A byte of base memory. -/
def State.byte (s : State) (key : Nat) : Byte :=
  if isScratchKey key && decide (runListBase ≤ scratchOff key) then s.runListByte (scratchCore key) (scratchOff key) else Tab.read 0 s.mem key

/-- n bytes of base memory from a local address. -/
def State.bytes (s : State) (key : Nat) : Nat → List Byte
  | 0 => []
  | n + 1 => s.byte key :: s.bytes (key + 1) n

def State.word64 (s : State) (key : Nat) : Word := BitVec.ofNat 64 (leVal (s.bytes key 8))

/-- Put bytes into base memory. -/
def putBytes (m : List Host.Cell) (key : Nat) : List Byte → List Host.Cell
  | [] => m
  | b :: t => putBytes (Tab.write (0 : Byte) m key b) (key + 1) t

def State.putBase (s : State) (key : Nat) (bs : List Byte) : State := { s with mem := putBytes s.mem key bs }

/-- R249: the cube and cube-local address of a DRAM-form global physical address. -/
def State.resolveDram (s : State) (p : Nat) : Option (Nat × Nat) :=
  match s.amap.find? fun e => match e.2 with
    | some a => a.ok && decide (a.base.toNat ≤ p) && decide (p < a.base.toNat + a.size.toNat)
    | none => false with
  | some (_, some a) =>
    let off := p - a.base.toNat
    let stripe := off / 2 ^ a.glog.toNat
    let cube := bits (leVal (s.bytes (a.list.toNat + stripe % a.n.toNat * 4) 4)) 19 0
    some (cube, a.lbase.toNat + stripe / a.n.toNat * 2 ^ a.glog.toNat + off % 2 ^ a.glog.toNat)
  | _ => none

/-- The entry of a DRAM-form address (R249). -/
def State.amapOf (s : State) (p : Nat) : Option AmapEntry :=
  (s.amap.find? fun e => match e.2 with
    | some a => a.ok && decide (a.base.toNat ≤ p) && decide (p < a.base.toNat + a.size.toNat)
    | none => false).bind (·.2)

/-- Under the previous fields of an entry that is being re-striped (R308): the cube, the local address there, the stripe. -/
def State.resolveOld (s : State) (p : Nat) : Option (Nat × Nat × Nat) :=
  (s.amapOf p).bind fun e =>
    if e.fwd ∧ e.on ≠ 0 then
      let off := p - e.base.toNat
      let stripe := off / 2 ^ e.oglog.toNat
      let cube := bits (leVal (s.bytes (e.olist.toNat + stripe % e.on.toNat * 4) 4)) 19 0
      some (cube, e.lbase.toNat + stripe / e.on.toNat * 2 ^ e.oglog.toNat + off % 2 ^ e.oglog.toNat, stripe)
    else none

/-- A local address lies in a stripe of an entry that is being re-striped, of which this cube is the old home (R308); with the address's global one. -/
def State.oldStripe (s : State) (e : AmapEntry) (stripe key : Nat) : Option Nat :=
  if !e.fwd ∨ e.on = 0 ∨ isScratchKey key then none
  else
    let g := 2 ^ e.oglog.toNat
    let a := e.lbase.toNat + stripe / e.on.toNat * g
    let cube := bits (leVal (s.bytes (e.olist.toNat + stripe % e.on.toNat * 4) 4)) 19 0
    if cube = s.cubeNum ∧ a ≤ key ∧ key < a + g then some (e.base.toNat + stripe * g + (key - a)) else none

/-- A local address lies in a stripe that is being copied away: accesses to it wait (R308). -/
def State.copiedAway (s : State) (key : Nat) : Bool := s.amap.any fun e => match e.2 with
  | some a => a.copying.any fun n => (s.oldStripe a n key).isSome
  | none => false

/-- A stripe that still lies at its old home (R308). -/
def State.unmoved (s : State) (p stripe : Nat) : Bool := match s.amapOf p with
  | some e => !e.moved.contains stripe
  | none => false

/-- A new access to a range that is being re-striped is held at issue (R308): until this cube has acknowledged the generation, and at the new
home until the stripe's data has arrived. -/
def State.rangeHeld (s : State) (gpa : Nat) : Bool := match s.amapOf gpa with
  | some e => e.fwd && (!e.acked || (match s.resolveOld gpa, s.resolveDram gpa with
      | some (old, a, stripe), some (new, b) => decide (new = s.cubeNum) && (decide (old ≠ s.cubeNum) || decide (a ≠ b)) && s.unmoved gpa stripe
      | _, _ => false))
  | none => false

/-- R238: the local DRAM address exists. -/
def dramExists (a : Nat) : Bool := decide (a < 2 ^ 39) && decide (a % 2 ^ 37 < Config.stackBytes)

/-- R137: a tag that an access may carry on a plied page. -/
def State.tagLive (s : State) (ctx : Nat) (tag : BitVec 16) : Bool :=
  decide (tag = 0) || (match Tab.read none (s.ctx ctx).tags tag.toNat with
    | some t => !t.retiring
    | none => false)

/-- A page's homing as a number: HVAL, bit 6 HMODE, bit 7 PCL. -/
def Pte.homing (p : Pte) : Nat := p.hval.toNat + 64 * p.hmode.toNat + 128 * p.pcl.toNat

/-- A page of this cube serves accesses under its homing: its mask is not zero (R235), its PCL frame not below LINBASE (R240). -/
def State.homingServes (s : State) (ctx homing a : Nat) : Bool :=
  !(homing.testBit 6 && decide (Tab.read 0 (s.ctx ctx).hmask (homing % 64) = 0))
    && !(homing.testBit 7 && decide (a % 2 ^ 37 < (s.die (a / 2 ^ 37)).linbase.toNat))

/-- A scratch-window virtual address (R93). -/
def isScratchVa (va : Word) : Bool := decide (va.toNat / 2 ^ 60 = 15)

/-- The checks of R89 step 10 after ALIGN, up to PERM, for one access of a party of `ctx` that translates through core `core`. A fetch from
another cube's memory is PERM, whether it is a scratch window or a DRAM page (R113 names the window; DESIGN CHOICE, log entry 93). -/
def State.locate (s : State) (core ctx : Nat) (va : Word) (acc : Access) (tag : BitVec 16) : Except EvCode Loc :=
  let v := va.toNat
  if isScratchVa va then
    if bits v 59 56 ≠ 0 ∨ bits v 27 20 ≠ 0 then .error .nopage
    else
      let cube := bits v 55 36
      let c := bits v 35 28
      let off := bits v 19 0
      let gpa := v % 2 ^ 60 % 2 ^ 59 + 2 ^ 59
      if cube ≠ s.cubeNum then (if acc = .exec then .error .perm else .ok ⟨cube, gpa, gpa, false, false, true, va, 0⟩)
      else if !s.inPartition ctx c || (decide (acc = .write) && s.reservedOff c off) then .error .perm
      else .ok ⟨cube, scratchKey c off, gpa, false, false, true, va, 0⟩
  else if v / 2 ^ 56 ≠ 0 then .error .nopage
  else match tlbFind (s.core core).tlb ctx v with
    | none => .error .xmiss
    | some p =>
      let gpa := p.map v
      match s.resolveDram gpa with
      | none => .error .nopage
      | some (cube, a) =>
        let here := decide (cube = s.cubeNum)
        if here && !dramExists a then .error .nopage
        else if (decide (acc = .exec) && (p.nx || !here)) || (decide (acc = .write) && p.ro)
            || (here && !s.homingServes ctx p.homing a)
            || (here && p.plied && !s.tagLive ctx tag) then .error .perm
        else .ok ⟨cube, a, gpa, p.plied, p.conf, false, va, p.homing⟩

/-- A plied access to another cube's plied page (R88, PLYREMOTE). -/
def State.farPly (s : State) (l : Loc) (tag : BitVec 16) : Bool := l.plied && decide (l.cube ≠ s.cubeNum) && decide (tag ≠ 0)

/-- The checks of R89 step 10 after ALIGN, up to PLYREMOTE. -/
def State.resolve (s : State) (core ctx : Nat) (va : Word) (acc : Access) (tag : BitVec 16) : Except EvCode Loc :=
  match s.locate core ctx va acc tag with
  | .error c => .error c
  | .ok l => if s.farPly l tag then .error .plyremote else .ok l

/-- The checks of R89 step 10 for an access of the executing unit of n bytes, all of one line. `ok`: what else the form refuses with PERM;
SIDEFX applies to the side-effect stores of R136. -/
def State.checkWith (s : State) (ok : Loc → Bool) (va : Word) (n : Nat) (acc : Access) (tag : BitVec 16) (sideEffect : Bool) (lane : Nat) : Res Loc :=
  if va.toNat % n ≠ 0 then raiseAt .align va lane
  else match s.locate (coreOf s.cur) s.myCtx va acc tag with
    | .error c => raiseAt c va lane
    | .ok l =>
      if !ok l then raiseAt .perm va lane
      else if s.farPly l tag then raiseAt .plyremote va lane
      else if sideEffect && s.me.recfree && !l.plied then raiseAt .sidefx va lane
      else if !l.scratch && s.rangeHeld l.gpa then stall .operations
      else .ok l

/-- The checks of an access whose form refuses nothing more. -/
def State.check (s : State) (va : Word) (n : Nat) (acc : Access) (tag : BitVec 16) (sideEffect : Bool) (lane : Nat) : Res Loc :=
  s.checkWith (fun _ => true) va n acc tag sideEffect lane

/-- The unit's ply tag; a spindle core uses tag 0 (R50). -/
def State.myTag (s : State) : BitVec 16 := if isSpindle s.cur then 0 else s.me.ply

def State.isLocal (s : State) (l : Loc) : Bool := decide (l.cube = s.cubeNum)
/-- R307: an access that resolves to a removed cube ends in UNREACH. -/
def State.isRemoved (s : State) (cube : Nat) : Bool := s.removed.contains cube

/-! ## Homing (R235, R236) -/

/-- The position of the (idx + 1)-th set bit of a mask, counted from bit 0. -/
def nthSetBit (m : Word) (idx : Nat) : Nat := ((List.range 64).filter m.getLsbD).getD idx 0

/-- R236: the core of the storing die whose slice homes a line under a mask. -/
def maskHome (m : Word) (a : Nat) : Nat :=
  let l := bits a 38 6
  let h := (Nat.xor (Nat.xor l (l / 2 ^ 10)) (l / 2 ^ 20)) % 1024
  nthSetBit m (h % ((List.range 64).filter m.getLsbD).length)

/-- The core id that homes a local line under a page's homing (R235). -/
def State.homeCore (s : State) (ctx : Nat) (hmode : Bool) (hval : Nat) (a : Nat) : Nat :=
  a / 2 ^ 37 * 64 + (if hmode then maskHome (Tab.read 0 (s.ctx ctx).hmask hval) a else hval)

/-- The core that homes the line of a location of DRAM by this cube's masks. -/
def State.homeOf (s : State) (ctx : Nat) (l : Loc) : Nat := s.homeCore ctx (l.homing.testBit 6) (l.homing % 64) l.key

/-- The translations of an address of a context in all of the cube's TLBs: the entry, and the local address where this cube stores the line. -/
def State.translations (s : State) (ctx : Nat) (va : Word) : List (Pte × Nat) := s.cores.filterMap fun e => match tlbFind e.2.tlb ctx va.toNat with
  | some p => match s.resolveDram (p.map va.toNat) with
    | some (cube, a) => if cube = s.cubeNum then some (p, a) else none
    | none => none
  | none => none

/-- The line of an address whose homing has changed while the affected translations have not been invalidated (R236): two TLBs home it on different
slices, or its mask entry has changed. -/
def State.twoHomes (s : State) (ctx : Nat) (va : Word) : Option Nat :=
  let ts := s.translations ctx va
  match ts with
  | [] => none
  | (p, a) :: _ =>
    let home (q : Pte) : Nat := s.homeCore ctx q.hmode q.hval.toNat a
    if ts.any fun e => decide (e.2 = a) && (decide (home e.1 ≠ home p) || (e.1.hmode && Tab.read false (s.ctx ctx).remasked e.1.hval.toNat)) then some (a / 64) else none

/-- The second slice's copy of a line comes about: what the line holds now (R236). -/
def State.copySlice (s : State) (ctx : Nat) (va : Word) : State := match s.twoHomes ctx va with
  | some line => { s with copies := Tab.write none s.copies line (some ⟨ctx, va, s.bytes (64 * line) 64⟩) }
  | none => s

/-- Accesses see the other copy of a line from now on (R236). -/
def State.swapSlice (s : State) (ctx : Nat) (va : Word) : State := match s.twoHomes ctx va with
  | some line => match Tab.read none s.copies line with
    | some c => { s.putBase (64 * line) c.data with copies := Tab.write none s.copies line (some ⟨ctx, va, s.bytes (64 * line) 64⟩) }
    | none => s
  | none => s

/-- Copies end with the translations that they came from (R236). -/
def State.dropCopies (s : State) : State :=
  if s.copies = [] then s
  else { s with copies := s.copies.filter fun e => match e.2 with
    | some c => decide (s.twoHomes c.ctx c.va = some e.1)
    | none => false }

/-! ## Timestamps (R220) -/

/-- The stamp of a DRAM line, of a scratchpad bank, or of a ply cell. -/
def stampOf (key : Nat) : Nat := if isScratchKey key then 2 ^ 60 + scratchCore key * 64 + scratchOff key / 64 % 64 else key / 64
def stampOfCell (ck : Nat) : Nat := 2 ^ 80 + ck

/-- A load at a party's pts: the pts after it, and the location's read lease extended. -/
def State.stampLoad (s : State) (pts k : Nat) : Nat × State :=
  let (w, r) := Tab.read (0, 0) s.stamps k
  let t := max pts w
  (t, { s with stamps := Tab.write (0, 0) s.stamps k (w, max r t) })

/-- A store or an atomic. -/
def State.stampStore (s : State) (pts k : Nat) : Nat × State :=
  let t := max pts ((Tab.read (0, 0) s.stamps k).2 + 1)
  (t, { s with stamps := Tab.write (0, 0) s.stamps k (t, t) })

/-! ## Ply cells -/

/-- The key of a ply cell: context, tag, line (R137). -/
def cellKey (ctx : Nat) (tag : BitVec 16) (key : Nat) : Nat := (ctx * 2 ^ 16 + tag.toNat) * 2 ^ 40 + key / 64

def State.cell (s : State) (ctx : Nat) (tag : BitVec 16) (key : Nat) : Option Cell := Tab.read none s.cells (cellKey ctx tag key)

/-- The accessing tag reaches a cell here: a plied page and a nonzero tag. -/
def usesCell (l : Loc) (tag : BitVec 16) : Bool := l.plied && decide (tag ≠ 0)

/-- Bytes of a 64-byte line. -/
def lineBytes (d : Line) : List Byte := leBytes 64 d.toNat
def ofLineBytes (bs : List Byte) : Line := BitVec.ofNat 512 (leVal bs)
/-- A list of bytes with some replaced from index i on. -/
def replaceAt (bs : List Byte) (i : Nat) (new : List Byte) : List Byte := bs.take i ++ new ++ bs.drop (i + new.length)
/-- Ones at n places from place i. -/
def maskAt (i n : Nat) : BitVec 64 := (BitVec.ofNat 64 (2 ^ n - 1)) <<< i

/-- plyread of R92: n bytes at a local place under a tag. -/
def State.view (s : State) (ctx : Nat) (l : Loc) (n : Nat) (tag : BitVec 16) : List Byte :=
  if usesCell l tag then match s.cell ctx tag l.key with
    | some c => ((lineBytes c.data).drop (l.key % 64)).take n
    | none => s.bytes l.key n
  else s.bytes l.key n

/-- R123: the cell's marked bytes over the base. -/
def State.merged (s : State) (ctx : Nat) (l : Loc) (n : Nat) (tag : BitVec 16) : List Byte :=
  if usesCell l tag then match s.cell ctx tag l.key with
    | some c => (List.range n).map fun i =>
        if c.mask.getLsbD (l.key % 64 + i) then (lineBytes c.data).getD (l.key % 64 + i) 0 else s.byte (l.key + i)
    | none => s.bytes l.key n
  else s.bytes l.key n

/-- The stamp an access of a place under a tag goes by. -/
def State.stampKey (s : State) (ctx : Nat) (l : Loc) (tag : BitVec 16) : Nat :=
  if usesCell l tag && (s.cell ctx tag l.key).isSome then stampOfCell (cellKey ctx tag l.key) else stampOf l.key

/-- An access that reads two locations at one point (R220, R230). -/
def State.stampBoth (s : State) (pts a b : Nat) : Nat × State :=
  let (t, s1) := s.stampLoad pts a
  let (t1, s2) := s1.stampLoad t b
  s2.stampLoad t1 a

/-- The line's cell is still to be made (R138). -/
def State.makesCell (s : State) (ctx : Nat) (l : Loc) (tag : BitVec 16) : Bool := usesCell l tag && (s.cell ctx tag l.key).isNone

/-- The stamps of a store or an atomic after its write; where it has made the cell it has read the whole base line at the same point (R220, R230). -/
def State.stampWrite (s : State) (made : Bool) (pts ctx : Nat) (l : Loc) (tag : BitVec 16) : Nat × State :=
  if made then
    let (t, s1) := s.stampLoad pts (stampOf l.key)
    let (t1, s2) := s1.stampStore t (s.stampKey ctx l tag)
    s2.stampLoad t1 (stampOf l.key)
  else s.stampStore pts (s.stampKey ctx l tag)

/-- R250: the pool part a cell's line comes from: the die that homes the base line, then the others in ascending order. -/
def poolPart (free : Tab Nat) (die : Nat) : Option Nat :=
  if 0 < Tab.read 0 free die then some die else (List.range 4).find? fun d => decide (0 < Tab.read 0 free d)

/-- plywrite of R92: bytes of one line at a local place under a tag; `none` where a cell must be made and no pool line is
free (R138). -/
def State.put (s : State) (ctx : Nat) (l : Loc) (bs : List Byte) (tag : BitVec 16) : Option State :=
  if bs = [] then some s
  else if usesCell l tag then
    let ck := cellKey ctx tag l.key
    let wr (c : Cell) : Cell := { c with data := ofLineBytes (replaceAt (lineBytes c.data) (l.key % 64) bs)
                                         mask := c.mask ||| maskAt (l.key % 64) bs.length }
    match s.cell ctx tag l.key with
    | some c => some { s with cells := Tab.write none s.cells ck (some (wr c)) }
    | none =>
      let k := s.ctx ctx
      match poolPart k.poolFree (l.key / 2 ^ 37) with
      | none => none
      | some d =>
        let base := s.bytes (l.key / 64 * 64) 64
        some { s.setCtx ctx { k with poolFree := Tab.write 0 k.poolFree d (Tab.read 0 k.poolFree d - 1) } with
          cells := Tab.write none s.cells ck (some (wr ⟨ofLineBytes base, 0, d⟩)) }
  else some (s.putBase l.key bs)

/-- plywrite of an access for whose cell a line may have been taken out of the pool at issue (R182, R204): the taken line makes the cell; where
another access has made it since, the line goes back to the pool. Answers the lines still taken. -/
def State.putTaken (s : State) (ctx : Nat) (l : Loc) (bs : List Byte) (tag : BitVec 16) (taken : List (Nat × Nat)) : Option (State × List (Nat × Nat)) :=
  let ck := cellKey ctx tag l.key
  match taken.find? fun p => decide (p.1 = ck) with
  | some p =>
    let rest := taken.filter fun x => !decide (x.1 = ck)
    match s.cell ctx tag l.key with
    | some _ => ((s.returnLines ctx [p]).put ctx l bs tag).map fun t => (t, rest)
    | none =>
      let base := s.bytes (l.key / 64 * 64) 64
      let c : Cell := ⟨ofLineBytes (replaceAt base (l.key % 64) bs), maskAt (l.key % 64) bs.length, p.2⟩
      some ({ s with cells := Tab.write none s.cells ck (some c) }, rest)
  | none => (s.put ctx l bs tag).map fun t => (t, taken)

/-- Take out of the pool a line for each new cell that an instruction needs (R182, R204), as far as the pool has them; and the address and lane
of the first that lacks. The lines stay with the unit. -/
def State.takeLines (s : State) (tag : BitVec 16) : List (Loc × Nat) → State × Option (Word × Nat)
  | [] => (s, none)
  | (l, lane) :: t =>
    let ck := cellKey s.myCtx tag l.key
    if !usesCell l tag || (s.cell s.myCtx tag l.key).isSome || s.me.taken.any (fun x => decide (x.1 = ck)) then s.takeLines tag t
    else
      let k := s.ctx s.myCtx
      match poolPart k.poolFree (l.key / 2 ^ 37) with
      | none => (s, some (l.va, lane))
      | some d =>
        let s1 := s.setCtx s.myCtx { k with poolFree := Tab.write 0 k.poolFree d (Tab.read 0 k.poolFree d - 1) }
        (s1.setMe { s1.me with taken := s1.me.taken ++ [(ck, d)] }).takeLines tag t

/-- Go on once every line is taken; while one lacks, the instruction waits at issue with those it has. -/
def State.withLines (s : State) (tag : BitVec 16) (ls : List (Loc × Nat)) (go : State → Res State) : Res State :=
  match s.takeLines tag ls with
  | (s1, none) => go s1
  | (s1, some (va, lane)) => .error (.await (s1.holdAt (.plyPool va lane) 0))

/-! ## Full bits (R124) -/

def State.isFull (s : State) (key : Nat) : Bool := Tab.read false s.full (key / 8)
def State.setFull (s : State) (key : Nat) (b : Bool) : State := { s with full := Tab.write false s.full (key / 8) b }

/-- R88: the line's data is uncorrectable. -/
def State.uncorrectable (s : State) (key : Nat) : Bool := Tab.read false s.bad (key / 64)

/-! ## A unit's accesses to this cube's memory: the value, and the state after it -/

/-- Raise a unit's pts. -/
def State.setPts (s : State) (key pts : Nat) : State := s.setUnit key { s.unit key with pts := pts }

/-- One load of the executing unit (R218, R220). -/
def State.loadAt (s : State) (l : Loc) (tag : BitVec 16) : State :=
  let (t, s') := s.stampLoad s.me.pts (s.stampKey s.myCtx l tag)
  s'.setPts s.cur t

/-- One load of LDX or VLDX (R123, R230): where there is a cell it reads the cell and the base at one point. -/
def State.loadMerged (s : State) (l : Loc) (tag : BitVec 16) : State :=
  if usesCell l tag && (s.cell s.myCtx tag l.key).isSome then
    let (t, s') := s.stampBoth s.me.pts (stampOf l.key) (s.stampKey s.myCtx l tag)
    s'.setPts s.cur t
  else s.loadAt l tag

/-- One atomic of the executing unit that writes nothing (R220): a CAS or a lock attempt that fails. -/
def State.atomicAt (s : State) (l : Loc) (tag : BitVec 16) : State :=
  let (t, s') := s.stampStore s.me.pts (s.stampKey s.myCtx l tag)
  s'.setPts s.cur t

/-- One store of the executing unit; waits for a pool line where it needs one (R138). -/
def State.storeAt (s : State) (l : Loc) (bs : List Byte) (tag : BitVec 16) : Res State :=
  match s.put s.myCtx l bs tag with
  | none => stall (.plyPool l.va 0)
  | some s1 =>
    let (t, s2) := s1.stampWrite (s.makesCell s.myCtx l tag) s1.me.pts s1.myCtx l tag
    .ok (s2.setPts s2.cur t)

/-! ## Accesses of the cube itself (engines, the router, die management, built-in routines): base memory, no checks -/

/-- The cube floor (R220): at least every timestamp performed. -/
def State.floor (s : State) : Nat := s.stamps.foldl (fun m e => max m (max e.2.1 e.2.2)) 0

/-- A write at a local place by a party of the cube that has no timestamp of its own: its access is at the cube floor. -/
def State.cubeWrite (s : State) (key : Nat) (bs : List Byte) : State :=
  let (_, s') := (s.putBase key bs).stampStore s.floor (stampOf key)
  s'

/-- STFF semantics at a scratchpad word, a plain store elsewhere (R27, R151). -/
def State.completionWrite (s : State) (key : Nat) (w : Word) : State :=
  let s' := s.cubeWrite key (leBytes 8 w.toNat)
  if isScratchKey key then s'.setFull key true else s'

end Sys2Proof.Machine
end

