-- ==== Sys2Proof/Machine/Image.lean ====
section
/-! DEFINITION. Places that firmware and engines name by global physical address, and the save image of a switched-out context, which is the
scratchpad of its cores while it is out (R232, R249, R267, R269). -/

namespace Sys2Proof.Machine

open Sys2Proof


/-- The local address of a global physical address of this cube (R232, R249); an old home keeps a stripe until it has moved (R308). -/
def State.localOf (s : State) (gpa : Nat) : Option Nat :=
  if 2 ^ 59 ≤ gpa then
    if bits gpa 58 56 = 0 ∧ bits gpa 27 20 = 0 ∧ bits gpa 55 36 = s.cubeNum ∧ gpa < 2 ^ 60 then some (scratchKey (bits gpa 35 28) (bits gpa 19 0)) else none
  else match s.resolveDram gpa with
    | some (cube, a) =>
      if cube = s.cubeNum then (if dramExists a then some a else none)
      else match s.resolveOld gpa with
        | some (old, b, stripe) => if old = s.cubeNum ∧ s.unmoved gpa stripe ∧ dramExists b then some b else none
        | none => none
    | none => none

/-- Bytes written from a global physical address on, page by page of 4 KiB; pieces that lie nowhere here are dropped. -/
def State.putPhys (s : State) (gpa : Nat) : Nat → List Byte → State
  | 0, _ => s
  | f + 1, bs =>
    if bs = [] then s
    else
      let n := 4096 - gpa % 4096
      let t := match s.localOf gpa with
        | some key => s.putBase key (bs.take n)
        | none => s
      t.putPhys (gpa + n) f (bs.drop n)

/-- Bytes read from a global physical address on; a piece that lies nowhere here reads zero. -/
def State.getPhys (s : State) (gpa : Nat) (n : Nat) : List Byte :=
  (List.range n).map fun i => match s.localOf (gpa + i) with
    | some key => s.byte key
    | none => 0

/-- A context is switched out. -/
def State.isOut (s : State) (ctx : Nat) : Bool := decide ((s.ctx ctx).state = .out)

/-- The number of a saved core among those of its context (R269). -/
def Ctx.savedIndex (k : Ctx) (core : Nat) : Option Nat := k.saved.findIdx? fun e => decide (e.1 = core)

/-- The global physical address of an offset of a saved core's block (R269). -/
def Ctx.blockPlace (k : Ctx) (core off : Nat) : Option Nat := (k.savedIndex core).map fun i => k.savebase.toNat + 0x20000 + i * 0x120000 + off

/-- The local address of an offset of a saved core's block. -/
def State.blockKey (s : State) (ctx core off : Nat) : Option Nat := match (s.ctx ctx).blockPlace core off with
  | some gpa => s.localOf gpa
  | none => none

/-- A scratchpad address of a context: while it is out, the place in the image (R267). -/
def State.redirect (s : State) (ctx key : Nat) : Nat :=
  if isScratchKey key && s.isOut ctx then (s.blockKey ctx (scratchCore key) (scratchOff key)).getD key else key

/-- A completion word of a context's engine (R27, R151, R209): with STFF semantics at a scratchpad word, on the image while it is out. -/
def State.completeAt (s : State) (ctx key : Nat) (w : Word) : State :=
  if isScratchKey key && s.isOut ctx then
    let off := scratchOff key
    let s1 := match s.blockKey ctx (scratchCore key) off with
      | some a => s.cubeWrite a (leBytes 8 w.toNat)
      | none => s
    match s1.blockKey ctx (scratchCore key) (0x100000 + off / 64) with
    | some a => s1.putBase a [s1.byte a ||| BitVec.ofNat 8 (2 ^ (off / 8 % 8))]
    | none => s1
  else s.completionWrite key w

/-- The state as it was while a switched-out context had its cores: what its engines' translations go by. -/
def State.present (s : State) (ctx : Nat) : State :=
  if s.isOut ctx then
    let k := s.ctx ctx
    let s1 := k.saved.foldl (fun (t : State) e => t.setCore e.1 { e.2 with tlb := (s.core e.1).tlb }) s
    k.savedClusters.foldl (fun (t : State) e => t.setCluster e.1 e.2) s1
  else s

/-- The unit of a core on which a work stands: strand 0 keeps its own operations; others are found by the work's number. -/
def workUnit (units : Nat → Strand) (party wid : Nat) : Option Nat :=
  if isService party || isMsgStrand party then some party
  else if wid = 0 then none
  else ((List.range 10).map (unitKey (coreOf party))).find? fun k => decide ((units k).wid = wid)

/-- The spill slot that holds a work. -/
def workSpill (spills : Tab (Option Spill)) (wid : Nat) : Option Nat :=
  (spills.find? fun e => match e.2 with
    | some p => decide (p.wid = wid)
    | none => false).map (·.1)

/-- Offset of a counter in a spill slot and in a save record (R20, R270). -/
def Ctr.spillOff : Ctr → Nat
  | .none => 3136
  | .stores => 3144
  | .copies => 3152
  | .tiles => 3160
  | .msgs => 3168

/-- A unit of a switched-out context, as it was saved. -/
def Ctx.savedUnit (k : Ctx) (key : Nat) : Strand := ((k.savedUnits.find? fun e => decide (e.1 = key)).map (·.2)).getD (unitDefault key)

/-- A unit's record in its core's block: a strand's save record, or a spindle core's state; the counters' place and MSTAT's in it (R269). -/
def recordPlace (slot : Nat) : Nat := if slot < 8 then 0x105000 + 0x1000 * slot else 0x10D000 + 0x1000 * (slot - 8)
def counterPlace (slot : Nat) (c : Ctr) : Nat := if slot < 8 then c.spillOff else c.spillOff - 3136 + 256
def mstatPlace (slot : Nat) : Nat := if slot < 8 then 3200 else 296

/-- One word less in the image, where it is not zero. -/
def State.lowerWord (s : State) (gpa : Nat) : State :=
  match s.localOf gpa with
  | some key => s.putBase key (leBytes 8 (leVal (s.bytes key 8) - 1))
  | none => s

/-- An operation of a switched-out context's work completes: its saved counter falls, its saved MSTAT shows the outcome (R267). -/
def State.settleSaved (s : State) (ctx party wid : Nat) (c : Ctr) (f : Strand → Strand) : State :=
  let k := s.ctx ctx
  let core := coreOf party
  match workUnit k.savedUnit party wid with
  | some key =>
    let u := f ((k.savedUnit key).lowerCtr c)
    let s1 := s.setCtx ctx { k with savedUnits := k.savedUnits.map fun e => if e.1 = key then (key, u) else e }
    match k.blockPlace core (recordPlace (slotOf key)) with
    | some gpa =>
      let s2 := if c = .none then s1 else s1.lowerWord (gpa + counterPlace (slotOf key) c)
      s2.putPhys (gpa + mstatPlace (slotOf key)) 2 (leBytes 8 u.mstat.toNat)
    | none => s1
  | none =>
    match (k.saved.find? fun e => decide (e.1 = core)).bind fun e => (workSpill e.2.spills wid).map fun slot => (e.2, slot) with
    | some (q, slot) => match k.blockPlace core (spillOff q slot + c.spillOff) with
      | some gpa => if c = .none then s else s.lowerWord gpa
      | none => s
    | none => s

end Sys2Proof.Machine
end

