-- ==== Sys2Proof/Machine/Scalar.lean ====
section
/-! DEFINITION. The integer register and immediate forms (R97 to R102). Every source is read before the destination is
written; x0 discards; no flag, no event. -/

namespace Sys2Proof.Machine

open Sys2Proof Host

/-- Write x[d] and go on past the instruction's `len` bytes. -/
def State.writeX (s : State) (d : Fin 32) (v : Word) (len : Nat) : State := s.retire (s.me.setX d v) len

/-- A two-source form. -/
def State.op2 (s : State) (d a b : Fin 32) (f : Word → Word → Word) (len : Nat) : State :=
  s.writeX d (f (s.me.readX a) (s.me.readX b)) len
/-- A one-source form. -/
def State.op1 (s : State) (d a : Fin 32) (f : Word → Word) (len : Nat) : State := s.writeX d (f (s.me.readX a)) len
/-- A form with an immediate. -/
def State.opImm (s : State) (d a : Fin 32) (y : Word) (f : Word → Word → Word) (len : Nat) : State :=
  s.writeX d (f (s.me.readX a) y) len

/-- Bits [5:0] of a shift or rotate amount (R98). -/
def shiftOf (y : Word) : Nat := y.toNat % 64

def boolWord (b : Bool) : Word := if b then 1 else 0

/-- R99: signed quotient. -/
def divSigned (x y : Word) : Word := if y = 0 then BitVec.allOnes 64 else BitVec.ofInt 64 (x.toInt.tdiv y.toInt)
/-- R99: signed remainder. -/
def remSigned (x y : Word) : Word := if y = 0 then x else BitVec.ofInt 64 (x.toInt.tmod y.toInt)
/-- R99: unsigned quotient. -/
def divUnsigned (x y : Word) : Word := if y = 0 then BitVec.allOnes 64 else x / y
/-- R99: unsigned remainder. -/
def remUnsigned (x y : Word) : Word := if y = 0 then x else x % y

/-- Leading zero bits of a word. -/
def clz (x : Word) : Nat := if x = 0 then 64 else 63 - Nat.log2 x.toNat
/-- Trailing zero bits: the leading zero bits of the reversed word. -/
def ctz (x : Word) : Nat := clz x.reverse
/-- The number of 1 bits among the lowest n. -/
def popcBelow (x : Word) : Nat → Nat
  | 0 => 0
  | n + 1 => popcBelow x n + (if x.getLsbD n then 1 else 0)
def popc (x : Word) : Nat := popcBelow x 64

/-- R100: the descriptor's POS, LEN, and the field's width within the word. -/
def fieldPos (y : Word) : Nat := bits y.toNat 5 0
def fieldLen (y : Word) : Nat := bits y.toNat 14 8
def fieldWidth (y : Word) : Nat := min (fieldPos y + fieldLen y) 64 - fieldPos y
/-- R100: BEXT. -/
def bitExtract (x y : Word) : Word := if fieldLen y = 0 then 0 else BitVec.ofNat 64 (x.toNat / 2 ^ fieldPos y % 2 ^ fieldWidth y)
/-- R100: BINS into `old`. -/
def bitInsert (old x y : Word) : Word :=
  if fieldLen y = 0 then old
  else BitVec.ofNat 64 (setBits old.toNat (fieldPos y + fieldWidth y - 1) (fieldPos y) x.toNat)

/-- ADD (R98): x[ra] + x[rb], wrapping. -/
def execAdd (d a b : Fin 32) (s : State) : Outcome State Fault Refusal :=
  .next (s.op2 d a b (fun x y => x + y) 4)

/-- SUB (R98): x[ra] − x[rb], wrapping. -/
def execSub (d a b : Fin 32) (s : State) : Outcome State Fault Refusal :=
  .next (s.op2 d a b (fun x y => x - y) 4)

/-- AND (R98). -/
def execAnd (d a b : Fin 32) (s : State) : Outcome State Fault Refusal :=
  .next (s.op2 d a b (fun x y => x &&& y) 4)

/-- OR (R98). -/
def execOr (d a b : Fin 32) (s : State) : Outcome State Fault Refusal :=
  .next (s.op2 d a b (fun x y => x ||| y) 4)

/-- XOR (R98). -/
def execXor (d a b : Fin 32) (s : State) : Outcome State Fault Refusal :=
  .next (s.op2 d a b (fun x y => x ^^^ y) 4)

/-- ANDN (R98): x[ra] and not x[rb]. -/
def execAndn (d a b : Fin 32) (s : State) : Outcome State Fault Refusal :=
  .next (s.op2 d a b (fun x y => x &&& ~~~y) 4)

/-- SHL (R98): bits [63:6] of x[rb] are ignored. -/
def execShl (d a b : Fin 32) (s : State) : Outcome State Fault Refusal :=
  .next (s.op2 d a b (fun x y => x <<< shiftOf y) 4)

/-- SHR (R98): zero fill. -/
def execShr (d a b : Fin 32) (s : State) : Outcome State Fault Refusal :=
  .next (s.op2 d a b (fun x y => x >>> shiftOf y) 4)

/-- SHA (R98): sign fill. -/
def execSha (d a b : Fin 32) (s : State) : Outcome State Fault Refusal :=
  .next (s.op2 d a b (fun x y => x.sshiftRight (shiftOf y)) 4)

/-- ROT (R98): rotated right. -/
def execRot (d a b : Fin 32) (s : State) : Outcome State Fault Refusal :=
  .next (s.op2 d a b (fun x y => x.rotateRight (shiftOf y)) 4)

/-- MIN (R98): signed minimum. -/
def execMin (d a b : Fin 32) (s : State) : Outcome State Fault Refusal :=
  .next (s.op2 d a b (fun x y => if x.slt y then x else y) 4)

/-- MAX (R98): signed maximum. -/
def execMax (d a b : Fin 32) (s : State) : Outcome State Fault Refusal :=
  .next (s.op2 d a b (fun x y => if x.slt y then y else x) 4)

/-- MINU (R98): unsigned minimum. -/
def execMinu (d a b : Fin 32) (s : State) : Outcome State Fault Refusal :=
  .next (s.op2 d a b (fun x y => if x.ult y then x else y) 4)

/-- MAXU (R98): unsigned maximum. -/
def execMaxu (d a b : Fin 32) (s : State) : Outcome State Fault Refusal :=
  .next (s.op2 d a b (fun x y => if x.ult y then y else x) 4)

/-- SLT (R98): 1 if x[ra] < x[rb] signed. -/
def execSlt (d a b : Fin 32) (s : State) : Outcome State Fault Refusal :=
  .next (s.op2 d a b (fun x y => boolWord (x.slt y)) 4)

/-- SLTU (R98): 1 if x[ra] < x[rb] unsigned. -/
def execSltu (d a b : Fin 32) (s : State) : Outcome State Fault Refusal :=
  .next (s.op2 d a b (fun x y => boolWord (x.ult y)) 4)

/-- SEQ (R98): 1 if x[ra] = x[rb]. -/
def execSeq (d a b : Fin 32) (s : State) : Outcome State Fault Refusal :=
  .next (s.op2 d a b (fun x y => boolWord (x == y)) 4)

/-- SEL (R98): x[ra] if x[rc] ≠ 0, else x[rb]. -/
def execSel (d a b c : Fin 32) (s : State) : Outcome State Fault Refusal :=
  .next (s.op2 d a b (fun x y => if s.me.readX c = 0 then y else x) 4)

/-- MUL (R98): the low 64 bits of the product. -/
def execMul (d a b : Fin 32) (s : State) : Outcome State Fault Refusal :=
  .next (s.op2 d a b (fun x y => x * y) 4)

/-- MULH (R98): bits [127:64] of the signed product. -/
def execMulh (d a b : Fin 32) (s : State) : Outcome State Fault Refusal :=
  .next (s.op2 d a b (fun x y => BitVec.ofInt 64 (x.toInt * y.toInt / 2 ^ 64)) 4)

/-- MULHU (R98): bits [127:64] of the unsigned product. -/
def execMulhu (d a b : Fin 32) (s : State) : Outcome State Fault Refusal :=
  .next (s.op2 d a b (fun x y => BitVec.ofNat 64 (x.toNat * y.toNat / 2 ^ 64)) 4)

/-- DIV (R99): truncated signed quotient; all ones for a zero divisor; −2^63 for −2^63 ÷ −1. -/
def execDiv (d a b : Fin 32) (s : State) : Outcome State Fault Refusal :=
  .next (s.op2 d a b (fun x y => divSigned x y) 4)

/-- DIVU (R99): unsigned quotient; all ones for a zero divisor. -/
def execDivu (d a b : Fin 32) (s : State) : Outcome State Fault Refusal :=
  .next (s.op2 d a b (fun x y => divUnsigned x y) 4)

/-- REM (R99): signed remainder, with the sign of x[ra]; x[ra] for a zero divisor; 0 for −2^63 ÷ −1. -/
def execRem (d a b : Fin 32) (s : State) : Outcome State Fault Refusal :=
  .next (s.op2 d a b (fun x y => remSigned x y) 4)

/-- REMU (R99): unsigned remainder; x[ra] for a zero divisor. -/
def execRemu (d a b : Fin 32) (s : State) : Outcome State Fault Refusal :=
  .next (s.op2 d a b (fun x y => remUnsigned x y) 4)

/-- CLZ (R98): leading zero bits; 64 for zero. -/
def execClz (d a : Fin 32) (s : State) : Outcome State Fault Refusal :=
  .next (s.op1 d a (fun x => BitVec.ofNat 64 (clz x)) 4)

/-- CTZ (R98): trailing zero bits; 64 for zero. -/
def execCtz (d a : Fin 32) (s : State) : Outcome State Fault Refusal :=
  .next (s.op1 d a (fun x => BitVec.ofNat 64 (ctz x)) 4)

/-- POPC (R98): the number of 1 bits. -/
def execPopc (d a : Fin 32) (s : State) : Outcome State Fault Refusal :=
  .next (s.op1 d a (fun x => BitVec.ofNat 64 (popc x)) 4)

/-- BREV (R98): bit i moved to bit 63 − i. -/
def execBrev (d a : Fin 32) (s : State) : Outcome State Fault Refusal :=
  .next (s.op1 d a (fun x => x.reverse) 4)

/-- BEXT (R100): the field of x[ra] that x[rb] describes, zero-extended. -/
def execBext (d a b : Fin 32) (s : State) : Outcome State Fault Refusal :=
  .next (s.op2 d a b bitExtract 4)

/-- BINS (R100): the field of x[rd] that x[rb] describes, replaced by the low bits of x[ra]. -/
def execBins (d a b : Fin 32) (s : State) : Outcome State Fault Refusal :=
  .next (s.op2 d a b (bitInsert (s.me.readX d)) 4)

/-- ADDI (R101): x[ra] + imm. imm is imm15 sign-extended. -/
def execAddi (d a : Fin 32) (im : BitVec 15) (s : State) : Outcome State Fault Refusal :=
  .next (s.opImm d a (imm15 im) (fun x y => x + y) 4)

/-- ANDI (R101). imm is imm15 sign-extended. -/
def execAndi (d a : Fin 32) (im : BitVec 15) (s : State) : Outcome State Fault Refusal :=
  .next (s.opImm d a (imm15 im) (fun x y => x &&& y) 4)

/-- ORI (R101). imm is imm15 sign-extended. -/
def execOri (d a : Fin 32) (im : BitVec 15) (s : State) : Outcome State Fault Refusal :=
  .next (s.opImm d a (imm15 im) (fun x y => x ||| y) 4)

/-- XORI (R101). imm is imm15 sign-extended. -/
def execXori (d a : Fin 32) (im : BitVec 15) (s : State) : Outcome State Fault Refusal :=
  .next (s.opImm d a (imm15 im) (fun x y => x ^^^ y) 4)

/-- SLTI (R101): 1 if x[ra] < imm signed. imm is imm15 sign-extended. -/
def execSlti (d a : Fin 32) (im : BitVec 15) (s : State) : Outcome State Fault Refusal :=
  .next (s.opImm d a (imm15 im) (fun x y => boolWord (x.slt y)) 4)

/-- SLTIU (R101): 1 if x[ra] < imm as unsigned 64-bit values. imm is imm15 sign-extended. -/
def execSltiu (d a : Fin 32) (im : BitVec 15) (s : State) : Outcome State Fault Refusal :=
  .next (s.opImm d a (imm15 im) (fun x y => boolWord (x.ult y)) 4)

/-- SHLI (R101). -/
def execShli (d a : Fin 32) (sz : Fin 64) (s : State) : Outcome State Fault Refusal :=
  .next (s.op1 d a (fun x => x <<< sz.val) 4)

/-- SHRI (R101): zero fill. -/
def execShri (d a : Fin 32) (sz : Fin 64) (s : State) : Outcome State Fault Refusal :=
  .next (s.op1 d a (fun x => x >>> sz.val) 4)

/-- SHAI (R101): sign fill. -/
def execShai (d a : Fin 32) (sz : Fin 64) (s : State) : Outcome State Fault Refusal :=
  .next (s.op1 d a (fun x => x.sshiftRight sz.val) 4)

/-- LIH (R102): imm20 sign-extended, shifted left by 15. -/
def execLih (d : Fin 32) (im : BitVec 20) (s : State) : Outcome State Fault Refusal :=
  .next (s.writeX d (im.signExtend 64 <<< 15) 4)

/-- ADPC (R102): PC of the instruction plus imm20 sign-extended, shifted left by 15. -/
def execAdpc (d : Fin 32) (im : BitVec 20) (s : State) : Outcome State Fault Refusal :=
  .next (s.writeX d (s.me.pc + (im.signExtend 64 <<< 15)) 4)

end Sys2Proof.Machine
end

