-- ==== Sys2Proof/Machine/Send.lean ====
section
/-! DEFINITION. Sending packets (R146, R293 to R298): in-cube packets go to `inner`; a packet to another cube is numbered
under its key, kept until it is acknowledged, and put into `net`. -/

namespace Sys2Proof.Machine

open Sys2Proof

/-- The classes that are numbered end to end (R296). -/
def sequenced (ocls : Nat) : Bool := ocls = 0 || ocls = 2 || ocls = 4 || ocls = 5

/-- The host port's unit (R295). -/
def hostPort : Nat := 524

/-- R298: the key of a sent packet, without this cube's own number. -/
def srcKeyOf (p : Packet) : Nat := (p.sunit * 2 ^ 20 + p.dcube) * 8 + p.ocls
/-- R299: the key of a received packet, without this cube's own number. -/
def dstKeyOf (p : Packet) : Nat := (p.scube * 2 ^ 12 + p.sunit) * 8 + p.ocls

def noKey : SrcKey := ⟨0, [], none⟩

/-- Whether a packet can be sent now (R298, R307). -/
inductive SendState where
  | ready | window | unreach
  deriving DecidableEq, Repr

def State.sendState (s : State) (dcube sunit ocls : Nat) : SendState :=
  if dcube = s.cubeNum then .ready
  else if s.isRemoved dcube then .unreach
  else if sequenced ocls then match Tab.read none s.srcKeys ((sunit * 2 ^ 20 + dcube) * 8 + ocls) with
    | some k => if k.resync.isSome then .unreach else if 1024 ≤ k.unacked.length then .window else .ready
    | none => .ready
  else .ready

/-- Put a packet for another cube on its way: TS is the time of the send (R293), and a numbered class takes its key's next number (R298). -/
def State.launchPacket (s : State) (p : Packet) : State :=
  let p := { p with ts := BitVec.ofNat 32 s.gtime }
  if sequenced p.ocls then
    let k := (Tab.read none s.srcKeys (srcKeyOf p)).getD noKey
    let p := { p with seq := k.next.toNat }
    { s with net := s.net ++ [p],
             srcKeys := Tab.write none s.srcKeys (srcKeyOf p)
               (some { k with next := k.next + 1, unacked := k.unacked ++ [⟨p, s.gtime, s.gtime, 0⟩] }) }
  else { s with net := s.net ++ [p] }

/-- The state of a packet's key. -/
def State.packetState (s : State) (p : Packet) : SendState := s.sendState p.dcube p.sunit p.ocls

/-- PLYRETs under way of a work of a core (strand 0's own have number 0) that were issued before number `ord` (R146). -/
def State.plyretsOf (s : State) (core wid ord : Nat) : Bool :=
  s.ops.any fun o => decide (coreOf o.party = core) && decide (o.wid = wid) && (decide (wid ≠ 0) || isMsgStrand o.party) && decide (o.ord < ord)
    && (match o.kind with
      | .plyret _ _ => true
      | _ => false)

/-- A message that engages its destination (R35): a user message to a task core, since a gateway core has no user handler; a launch start; a spawn. -/
def Packet.engages (p : Packet) : Bool :=
  (decide (p.kind = .user) && (coreOfUnit p.dunit).isSome) || decide (p.kind = .launchStart) || (decide (p.kind = .builtin) && decide (p.hcls = 3))

/-- The reply address of a packet (R150); in a spawn the field holds the count (DESIGN CHOICE, log entry 13). -/
def Packet.replyTo (p : Packet) : BitVec 60 := if p.kind = .builtin then 0 else p.reply

/-- The packets that R146 holds back: messages, spawns, decrements, queue items, and the response of MRET (R224). -/
def Packet.isMessage (p : Packet) : Bool := match p.kind with
  | .user => true
  | .builtin => decide (p.hcls = 3) || decide (p.hcls = 4) || decide (p.hcls = 6)
  | .response => decide (p.reply ≠ 0)
  | _ => false

/-- Packets whose order a key keeps. -/
def Packet.sameKey (p q : Packet) : Bool := decide (p.sunit = q.sunit) && decide (p.dcube = q.dcube) && decide (p.ocls = q.ocls)

/-- A packet stays in the core: its key's window is full or its key awaits a RESYNC (R298), an earlier PLYRET of its sender is under way (R146), or an
earlier packet of its key stays. -/
def State.mustWait (s : State) (p : Packet) : Bool :=
  s.outbox.any p.sameKey || (sequenced p.ocls && decide (s.packetState p ≠ .ready))
    || (p.isMessage && (match coreOfUnit p.sunit with
      | some c => s.plyretsOf c p.wid p.ord
      | none => false))

/-- A packet leaves its sender, unless it must wait. -/
def State.depart (s : State) (p : Packet) : State :=
  if s.mustWait p then { s with outbox := s.outbox ++ [p] }
  else if p.dcube = s.cubeNum then { s with inner := s.inner ++ [{ p with ts := BitVec.ofNat 32 s.gtime }] }
  else s.launchPacket p

/-- Send a packet. -/
def State.post (s : State) (p : Packet) : State := { s with fresh := s.fresh + 1 }.depart { p with ord := s.fresh }

/-- Packets that need wait no longer leave, in order. -/
def State.releaseOutbox (s : State) : State := if s.outbox = [] then s else s.outbox.foldl State.depart { s with outbox := [] }

/-- A packet from a unit of this cube in a context (R293): TS is the low 32 bits of GTIME. -/
def State.packet (s : State) (kind : PktKind) (sunit ctx dcube dunit hcls ocls pri : Nat) (payload : List Word) (wid : Nat) : Packet :=
  { kind := kind, dcube := dcube, dunit := dunit, scube := s.cubeNum, sunit := sunit, hcls := hcls, ocls := ocls, seq := 0,
    ctx := ctx, pri := pri, conf := false, mcast := false, aux := 0, ts := BitVec.ofNat 32 s.gtime, reply := 0, ply := 0,
    gen := (s.ctx ctx).gen, tspec := 0, payload := payload, wid := wid, ord := 0, req := 0 }

/-- A packet of the executing unit. -/
def State.myPacket (s : State) (kind : PktKind) (dcube dunit hcls ocls pri : Nat) (payload : List Word) : Packet :=
  { s.packet kind (unitNumber s.cur) s.myCtx dcube dunit hcls ocls pri payload s.me.wid with major := opMajor s.me }

/-- Whole flits (R293): a payload is padded with zero words to a multiple of four. -/
def flitWords (ws : List Word) : List Word := ws ++ List.replicate ((4 - ws.length % 4) % 4) 0

/-! ## Remote accesses (R121)

The packet carries the global physical address (R245). The payload's words and the operation codes of AUX are the model's
own (DESIGN CHOICE, log entry 13): word 0 the address; word 1 the page's homing and PCL, by which the destination checks the access and finds
the home slice (R236, R240); word 2 the operand or the data's first word; word 3 the expected value of a CAS. -/

/-- AUX of a built-in access (R294): size code, operation code. -/
def accessAux (bytes opcode : Nat) : BitVec 16 := BitVec.ofNat 16 (Nat.log2 bytes + opcode * 16)

/-- The core on another cube to which an access goes, as far as this cube knows it (R121, R236): the scratchpad's, or the home of the line by this
cube's masks. -/
def State.farHome (s : State) (ctx gpa homing : Nat) : Nat :=
  if 2 ^ 59 ≤ gpa then bits gpa 35 28 else match s.resolveDram gpa with
    | some (_, a) => s.homeCore ctx (homing.testBit 6) (homing % 64) a
    | none => homing % 64

/-- A remote access request of the executing unit in class 0 at priority 2 (R121). -/
def State.remoteRequest (s : State) (l : Loc) (hcls bytes opcode : Nat) (payload : List Word) : Packet :=
  { s.myPacket .builtin l.cube 0 hcls 0 2 (flitWords (BitVec.ofNat 64 l.gpa :: BitVec.ofNat 64 l.homing :: payload)) with
    aux := accessAux bytes opcode, conf := l.conf,
    dunit := unitNumber (unitKey (s.farHome s.myCtx l.gpa l.homing) 0) }

/-- A remote access to the bytes a mask selects in one line: operation code 1 (DESIGN CHOICE, log entry 13). -/
def State.lineRequest (s : State) (l : Loc) (mask : BitVec 64) (hcls : Nat) (data : List Byte) : Packet :=
  s.remoteRequest { l with gpa := l.gpa / 64 * 64, key := l.key / 64 * 64 } hcls 64 1 (mask.setWidth 64 :: leWords (data ++ List.replicate ((8 - data.length % 8) % 8) 0))

/-- Send requests one after the other; answers the parts of the result they bring, now with the requests' numbers: where each lies
in the buffer, and its bytes, in the order in which the answer holds them. -/
def State.postParts (s : State) : List (Packet × List RemotePart) → State × List RemotePart
  | [] => (s, [])
  | (p, ps) :: t =>
    let (s', l) := (s.post { p with awaited := true }).postParts t
    (s', ps.map (fun x => { x with req := s.fresh }) ++ l)

/-- The first request for an unreachable cube, by the address and lane it is for. -/
def State.unreachPart (s : State) (reqs : List (Packet × List RemotePart)) : Option RemotePart :=
  (reqs.find? fun r => decide (s.sendState r.1.dcube r.1.sunit r.1.ocls = .unreach)).bind fun r => r.2.head?

/-- Send remote accesses whose results the unit waits for: PC stays, and issue is held until every one has returned (R121). -/
def State.remoteAwait (s : State) (reqs : List (Packet × List RemotePart)) (dest : Option LoadDest) (bytes : Nat)
    (signed : Bool) (buf : Line) (len : Nat) : Res State :=
  match s.unreachPart reqs with
  | some r => raiseAt .unreach r.va r.lane
  | none =>
  if reqs.any fun r => decide (s.sendState r.1.dcube r.1.sunit r.1.ocls = .window) then stall .window
  else if s.me.remote.isSome then stall .remote
  else
    let (s1, parts) := s.postParts reqs
    let u := s1.me
    .ok (s1.setMe { u with loads := u.loads + 1, remote := some ⟨dest, bytes, signed, len, parts, buf, (reqs.head?.map fun r => (wordAt r.1.payload 0).toNat).getD 0⟩, hold := some ⟨.remote, s.cycle, 0⟩ })

/-- One remote access whose result the unit waits for. -/
def State.remoteOne (s : State) (va : Word) (p : Packet) (dest : Option LoadDest) (bytes : Nat) (signed : Bool) (len : Nat) : Res State :=
  s.remoteAwait [(p, [⟨0, 0, bytes, va, 0⟩])] dest bytes signed 0 len

/-- Send a posted remote access, counted as a store until it is acknowledged (R121); an unreachable cube gives LAST 1. -/
def State.remotePost (s : State) (l : Loc) (p : Packet) (u : Strand) (major len : Nat) : Res State :=
  match s.sendState l.cube p.sunit 0 with
  | .unreach => .ok (s.retire (u.status 1 major) len)
  | .window => stall .window
  | .ready => .ok ((s.post p).retire (u.raiseCtr .stores) len)

/-- A posted write of a context's function to another cube is not yet performed (R311): the function's later accesses wait. -/
def State.hostPending (s : State) (ctx : Nat) : Bool :=
  let mine (p : Packet) : Bool := decide (p.sunit = hostPort) && decide (p.ctx = ctx) && decide (p.scube = s.cubeNum)
  s.outbox.any mine || s.srcKeys.any fun e => match e.2 with
    | some k => k.unacked.any fun u => mine u.pkt
    | none => false

end Sys2Proof.Machine
end

