-- ==== Sys2Proof/Machine/Memory.lean ====
section
/-! DEFINITION. Scalar loads and stores (R119 to R123), the full/empty forms (R124 to R126), the tensor-map load and the
prefetch hint (R127, R128). -/

namespace Sys2Proof.Machine

open Sys2Proof Host

/-- ea of R92 with a signed offset. -/
def State.ea (s : State) (b : Fin 32) (o : BitVec 64) : Word := s.me.readX b + o

/-- n little-endian bytes extended to a register value (R122). -/
def extend (sgn : Bool) (n : Nat) (bs : List Byte) : Word := BitVec.ofInt 64 (intOf sgn (8 * n) (leVal bs))

/-- The size codes of LD and LDX forms (R122): bytes and signedness. -/
def sizeBytes (sz : Nat) : Nat := 2 ^ (sz % 4)
def sizeSigned (sz : Nat) : Bool := decide (sz < 4)

/-- The ply tag of a ply-explicit form (R92): bits [15:0] of x[P]; a spindle core's accesses use tag 0 (R50). -/
def State.explicitTag (s : State) (p : Fin 32) : BitVec 16 := if isSpindle s.cur then 0 else (s.me.readX p).setWidth 16

/-- A scalar load (R119, R122): checked, performed at one point, its value on its way to the register. `merged` gives the
view of LDX (R123). -/
def State.loadForm (s : State) (va : Word) (n : Nat) (sgn : Bool) (d : LoadDest) (tag : BitVec 16) (merged : Bool) (len : Nat) : Res State := do
  roomIn s.me.loads
  let l ← s.check va n .read tag false 0
  if s.isLocal l then
    if s.uncorrectable l.key then raise .eccu va
    else
      let bs := if merged then s.merged s.myCtx l n tag else s.view s.myCtx l n tag
      let v : Line := match d with
        | .x _ => (extend sgn n bs).setWidth 512
        | _ => ofLineBytes bs
      let s1 := if merged then s.loadMerged l tag else s.loadAt l tag
      .ok (s1.retire (s1.me.loadTo d v) len)
  else s.remoteOne va (s.remoteRequest l 0 n 0 []) (some d) n sgn len

/-- A scalar store (R119, R122): written at one point, counted until STORE_PERFORMED reports it. -/
def State.storeForm (s : State) (va : Word) (n : Nat) (v : Word) (tag : BitVec 16) (len : Nat) : Res State := do
  roomIn s.me.stores
  let l ← s.check va n .write tag true 0
  if s.isLocal l then
    let s1 ← s.storeAt l (leBytes n v.toNat) tag
    .ok ((s1.addOp (s.newOp .store .stores)).retire (s1.me.raiseCtr .stores) len)
  else s.remotePost l (s.remoteRequest l 1 n 0 [v]) s.me 17 len

/-- LD (R122): sizes B, H, W, D, BU, HU, WU. -/
def execLd (d b : Fin 32) (sz : Fin 8) (o : BitVec 9) (s : State) : Outcome State Fault Refusal :=
  finish s (s.loadForm (s.ea b (o.signExtend 64)) (sizeBytes sz.val) (sizeSigned sz.val) (.x d) s.myTag false 4)

/-- LD, ply-explicit (R79, R122). -/
def execLdPly (d b : Fin 32) (sz : Fin 8) (p : Fin 32) (o : BitVec 4) (s : State) : Outcome State Fault Refusal :=
  finish s (s.loadForm (s.ea b (o.signExtend 64)) (sizeBytes sz.val) (sizeSigned sz.val) (.x d) (s.explicitTag p) false 4)

/-- ST (R122): sizes B, H, W, D. -/
def execSt (d b : Fin 32) (sz : Fin 4) (o : BitVec 9) (s : State) : Outcome State Fault Refusal :=
  finish s (s.storeForm (s.ea b (o.signExtend 64)) (sizeBytes sz.val) (s.me.readX d) s.myTag 4)

/-- ST, ply-explicit (R79, R122). -/
def execStPly (d b : Fin 32) (sz : Fin 4) (p : Fin 32) (o : BitVec 4) (s : State) : Outcome State Fault Refusal :=
  finish s (s.storeForm (s.ea b (o.signExtend 64)) (sizeBytes sz.val) (s.me.readX d) (s.explicitTag p) 4)

/-- LDX (R123): sizes 3 to 6 are B, H, W, D; the cell's marked bytes over the base, sign-extended. -/
def execLdx (d b : Fin 32) (sz : Fin 8) (p : Fin 32) (o : BitVec 4) (s : State) : Outcome State Fault Refusal :=
  finish s (s.loadForm (s.ea b (o.signExtend 64)) (sizeBytes (sz.val - 3)) true (.x d) (s.explicitTag p) true 4)

/-! ## Full/empty forms (R125) -/

/-- The address of a full/empty form: 8-aligned, in this cube's scratch window, else PERM (R124). -/
def State.feCheck (s : State) (va : Word) (acc : Access) (sideEffect : Bool) : Res Loc :=
  s.checkWith (fun l => l.scratch && s.isLocal l) va 8 acc 0 sideEffect 0

/-- A waiting form on a word in the wrong state: HBLOCK is raised before; a spindle core waits at issue (R50, R126). -/
def State.feWait {α : Type} (s : State) (kind : WaitKind) (va : Word) : Res α :=
  if isSpindle s.cur then .error (.await (s.waitWord kind va)) else blockOn kind va

/-- LDFE, and LDFF with `empties` false (R125). LDFE leaves the word to a waiter that has been passed over 16 times, and passes the other waiters over
(R126). -/
def State.loadFull (s : State) (va : Word) (d : Fin 32) (empties : Bool) (len : Nat) : Res State := do
  s.noHandler
  let l ← s.feCheck va (if empties then .write else .read) empties
  if s.isFull l.key && !(empties && s.isReserved .full va) then
    need (!s.uncorrectable l.key) .eccu va
    let s1 ← if empties then s.storeAt l [] 0 else .ok (s.loadAt l 0)
    let s2 := if empties then (s1.setFull l.key false).passOthers .full va else s1
    .ok (s2.retire (s2.me.setX d (s.word64 l.key)) len)
  else s.feWait .full va

/-- STEF (R125), with R126 as LDFE. -/
def State.storeEmpty (s : State) (va : Word) (v : Word) (len : Nat) : Res State := do
  s.noHandler
  let l ← s.feCheck va .write true
  if s.isFull l.key || s.isReserved .empty va then s.feWait .empty va
  else
    let s1 ← s.storeAt l (leBytes 8 v.toNat) 0
    let s2 := (s1.setFull l.key true).passOthers .empty va
    .ok (s2.retire s2.me len)

/-- LDFE (R125): waits until full; x[rd] := word; bit := empty. -/
def execLdfe (d b : Fin 32) (o : BitVec 9) (s : State) : Outcome State Fault Refusal :=
  finish s (s.loadFull (s.ea b (o.signExtend 64)) d true 4)

/-- LDFF (R125): waits until full; x[rd] := word; bit unchanged. -/
def execLdff (d b : Fin 32) (o : BitVec 9) (s : State) : Outcome State Fault Refusal :=
  finish s (s.loadFull (s.ea b (o.signExtend 64)) d false 4)

/-- FEGET (R125): x[rd] := bit; counted as a load. -/
def execFeget (d b : Fin 32) (o : BitVec 9) (s : State) : Outcome State Fault Refusal :=
  finish s (do
    roomIn s.me.loads
    let l ← s.feCheck (s.ea b (o.signExtend 64)) .read false
    let s1 := s.loadAt l 0
    .ok (s1.retire (s1.me.loadTo (.x d) (if s.isFull l.key then 1 else 0)) 4))

/-- STEF (R125): waits until empty; word := x[rs]; bit := full. -/
def execStef (d b : Fin 32) (o : BitVec 9) (s : State) : Outcome State Fault Refusal :=
  finish s (s.storeEmpty (s.ea b (o.signExtend 64)) (s.me.readX d) 4)

/-- STFF (R125): word := x[rs]; bit := full; counted as a store. -/
def execStff (d b : Fin 32) (o : BitVec 9) (s : State) : Outcome State Fault Refusal :=
  finish s (do
    roomIn s.me.stores
    let l ← s.feCheck (s.ea b (o.signExtend 64)) .write true
    let s1 ← s.storeAt l (leBytes 8 (s.me.readX d).toNat) 0
    .ok (((s1.setFull l.key true).addOp (s.newOp .store .stores)).retire (s1.me.raiseCtr .stores) 4))

/-- FESET (R125): bit := bit 0 of x[rs]; counted as a store. -/
def execFeset (d b : Fin 32) (o : BitVec 9) (s : State) : Outcome State Fault Refusal :=
  finish s (do
    roomIn s.me.stores
    let l ← s.feCheck (s.ea b (o.signExtend 64)) .write true
    let s1 ← s.storeAt l [] 0
    .ok (((s1.setFull l.key ((s.me.readX d).getLsbD 0)).addOp (s.newOp .store .stores)).retire (s1.me.raiseCtr .stores) 4))

/-! ## TMLD and PREF -/

/-- TMLD (R127): 32 aligned bytes into tm[N] as one load. -/
def execTmld (t : Fin 16) (a : Fin 32) (o : BitVec 9) (s : State) : Outcome State Fault Refusal :=
  finish s (s.loadForm (s.ea a (o.signExtend 64)) 32 false (.tm t) s.myTag false 4)

/-- PREF (R128): a hint with no architectural effect. -/
def execPref (_h : Bool) (_a : Fin 32) (_o : BitVec 9) (s : State) : Outcome State Fault Refusal :=
  .next (s.retire s.me 4)

end Sys2Proof.Machine
end

