-- ==== Sys2Proof/Machine/Atomic.lean ====
section
/-! DEFINITION. Atomics (R129, R130), compare-and-swap (R131) and reader-writer locks (R132, R133). -/

namespace Sys2Proof.Machine

open Sys2Proof Host

/-- The operations of AMO, by fn (R130). -/
inductive AmoOp where
  | add | min | max | minu | maxu | and | or | xor | swap | fadd
  deriving DecidableEq, Repr

/-- fn of R130; also the operation code of a remote request (DESIGN CHOICE, log entry 13). -/
def AmoOp.code : AmoOp → Nat
  | .add => 0
  | .min => 1
  | .max => 2
  | .minu => 3
  | .maxu => 4
  | .and => 5
  | .or => 6
  | .xor => 7
  | .swap => 8
  | .fadd => 9

/-- The new value of an n-bit word (R130). -/
def AmoOp.apply (op : AmoOp) (n old opd : Nat) : Nat :=
  match op with
  | .add => (old + opd) % 2 ^ n
  | .min => if intOf true n old < intOf true n opd then old else opd
  | .max => if intOf true n old < intOf true n opd then opd else old
  | .minu => Nat.min old opd
  | .maxu => Nat.max old opd
  | .and => Nat.land old opd
  | .or => Nat.lor old opd
  | .xor => Nat.xor old opd
  | .swap => opd
  | .fadd => engineAdd (if n = 32 then fp32 else fp64) old opd

/-- The operations whose 32-bit old value is sign-extended (R130). -/
def AmoOp.signed : AmoOp → Bool
  | .add => true
  | .min => true
  | .max => true
  | _ => false

/-- R136: SWAP and FADD are side-effect stores. -/
def AmoOp.sideEffect : AmoOp → Bool
  | .swap => true
  | .fadd => true
  | _ => false

/-- R129: the scope an address requires of a core. For a spindle core, which has no scratchpad (R233), its task core's counts as its own (DESIGN
CHOICE, log entry 95). -/
def State.requiredScope (s : State) (core : Nat) (l : Loc) : Nat :=
  if !s.isLocal l then 3
  else if !l.scratch then 2
  else if scratchCore l.key = core then 0
  else if scratchCore l.key / 8 = core / 8 then 1
  else 2

/-- The checks of an atomic: address, and a scope that is not too narrow (R129). -/
def State.atomicCheck (s : State) (va : Word) (n : Nat) (scope : Fin 4) (sideEffect : Bool) : Res Loc :=
  s.checkWith (fun l => decide (s.requiredScope (coreOf s.cur) l ≤ scope.val)) va n .write s.myTag sideEffect 0

/-- The result of an atomic is counted as a load into x[d], or as a posted store where d is x0 (R130, R131). -/
def State.atomicDone (s : State) (op : Op) (d : Fin 32) (v : Word) (len : Nat) : State :=
  if d.val = 0 then (s.addOp op).retire (s.me.raiseCtr .stores) len
  else s.retire (s.me.loadTo (.x d) (v.setWidth 512)) len

def State.atomicRoom (s : State) (d : Fin 32) : Res Unit := if d.val = 0 then roomIn s.me.stores else roomIn s.me.loads

/-- AMO (R130): read, modify and write at one point. -/
def State.amo (s : State) (op : AmoOp) (d a b : Fin 32) (c : Fin 4) (z : Bool) : Res State := do
  let n := if z then 8 else 4
  let va := s.me.readX a
  let opd := (s.me.readX b).toNat % 2 ^ (8 * n)
  s.atomicRoom d
  let l ← s.atomicCheck va n c op.sideEffect
  if s.isLocal l then
    let old := leVal (s.view s.myCtx l n s.myTag)
    let s1 ← s.storeAt l (leBytes n (op.apply (8 * n) old opd)) s.myTag
    need (!s.uncorrectable l.key) .eccu va
    .ok (s1.atomicDone (s.newOp .store .stores) d (BitVec.ofInt 64 (intOf op.signed (8 * n) old)) 4)
  else
    let p := s.remoteRequest l 2 n op.code [BitVec.ofNat 64 opd]
    if d.val = 0 then s.remotePost l p s.me 20 4 else s.remoteOne va p (some (.x d)) n op.signed 4

/-- AMO ADD (R130). -/
def execAmoAdd (d a b : Fin 32) (c : Fin 4) (z : Bool) (s : State) : Outcome State Fault Refusal :=
  finish s (s.amo .add d a b c z)

/-- AMO MIN (R130). -/
def execAmoMin (d a b : Fin 32) (c : Fin 4) (z : Bool) (s : State) : Outcome State Fault Refusal :=
  finish s (s.amo .min d a b c z)

/-- AMO MAX (R130). -/
def execAmoMax (d a b : Fin 32) (c : Fin 4) (z : Bool) (s : State) : Outcome State Fault Refusal :=
  finish s (s.amo .max d a b c z)

/-- AMO MINU (R130). -/
def execAmoMinu (d a b : Fin 32) (c : Fin 4) (z : Bool) (s : State) : Outcome State Fault Refusal :=
  finish s (s.amo .minu d a b c z)

/-- AMO MAXU (R130). -/
def execAmoMaxu (d a b : Fin 32) (c : Fin 4) (z : Bool) (s : State) : Outcome State Fault Refusal :=
  finish s (s.amo .maxu d a b c z)

/-- AMO AND (R130). -/
def execAmoAnd (d a b : Fin 32) (c : Fin 4) (z : Bool) (s : State) : Outcome State Fault Refusal :=
  finish s (s.amo .and d a b c z)

/-- AMO OR (R130). -/
def execAmoOr (d a b : Fin 32) (c : Fin 4) (z : Bool) (s : State) : Outcome State Fault Refusal :=
  finish s (s.amo .or d a b c z)

/-- AMO XOR (R130). -/
def execAmoXor (d a b : Fin 32) (c : Fin 4) (z : Bool) (s : State) : Outcome State Fault Refusal :=
  finish s (s.amo .xor d a b c z)

/-- AMO SWAP (R130). -/
def execAmoSwap (d a b : Fin 32) (c : Fin 4) (z : Bool) (s : State) : Outcome State Fault Refusal :=
  finish s (s.amo .swap d a b c z)

/-- AMO FADD (R130). -/
def execAmoFadd (d a b : Fin 32) (c : Fin 4) (z : Bool) (s : State) : Outcome State Fault Refusal :=
  finish s (s.amo .fadd d a b c z)

/-- CAS (R131): x[rd] holds the expected value and receives the old one. -/
def execCas (d a b : Fin 32) (c : Fin 4) (s : State) : Outcome State Fault Refusal :=
  finish s (do
    let va := s.me.readX a
    s.atomicRoom d
    let l ← s.atomicCheck va 8 c true
    if s.isLocal l then
      let old := BitVec.ofNat 64 (leVal (s.view s.myCtx l 8 s.myTag))
      let s1 ← if old = s.me.readX d then s.storeAt l (leBytes 8 (s.me.readX b).toNat) s.myTag else .ok (s.atomicAt l s.myTag)
      need (!s.uncorrectable l.key) .eccu va
      .ok (s1.atomicDone (s.newOp .store .stores) d old 4)
    else
      let p := s.remoteRequest l 2 8 10 [s.me.readX b, s.me.readX d]
      if d.val = 0 then s.remotePost l p s.me 21 4 else s.remoteOne va p (some (.x d)) 8 false 4)

/-! ## Locks (R132) -/

/-- The lock forms. -/
inductive LockOp where
  | rlk | rlkT | wlk | wlkT | runlk | wunlk
  deriving DecidableEq, Repr

/-- The operation code of a remote attempt: the waiting forms have that of their .T forms (DESIGN CHOICE, log entry 13). -/
def LockOp.code : LockOp → Nat
  | .rlk => 11
  | .rlkT => 11
  | .wlk => 12
  | .wlkT => 12
  | .runlk => 13
  | .wunlk => 14

/-- The operation code of the access that takes a withdrawn waiter's 1 back (R133; DESIGN CHOICE, log entry 13). -/
def withdrawCode : Nat := 15

def lockWR (w : Word) : Bool := w.getLsbD 63
def lockWPREF (w : Word) : Bool := w.getLsbD 62
def lockWWAIT (w : Word) : Nat := bits w.toNat 61 32
def lockRD (w : Word) : Nat := bits w.toNat 31 0

/-- The word after a successful attempt; none where it does not succeed (R132). `counted`: the attempt belongs to a WLK that
has added to WWAIT, and subtracts it again (R133). -/
def LockOp.attempt (op : LockOp) (w : Word) (counted : Bool) : Option Word :=
  match op with
  | .rlk | .rlkT =>
    if !lockWR w && !(lockWPREF w && decide (0 < lockWWAIT w)) && decide (lockRD w < 2 ^ 32 - 1) then some (w + 1) else none
  | .wlk | .wlkT =>
    if !lockWR w && decide (lockRD w = 0) then
      some ((w ||| 0x8000000000000000) - (if counted && decide (0 < lockWWAIT w) then 0x100000000 else 0))
    else none
  | .runlk => if 0 < lockRD w then some (w - 1) else none
  | .wunlk => if lockWR w then some (w &&& 0x7FFFFFFFFFFFFFFF) else none

/-- The word after the first failed attempt of a WLK (R133). -/
def addWaiter (w : Word) : Option Word := if lockWWAIT w < 2 ^ 30 - 1 then some (w + 0x100000000) else none

/-- The value x[rd] receives from an attempt (R132): 1 or 0, or the old word of an unlock. -/
def LockOp.result (op : LockOp) (w : Word) (ok : Bool) : Word :=
  match op with
  | .runlk | .wunlk => w
  | _ => boolWord ok

/-- The forms that wait (R133). -/
def LockOp.waits : LockOp → Bool
  | .rlk => true
  | .wlk => true
  | _ => false
def LockOp.isUnlock : LockOp → Bool
  | .runlk => true
  | .wunlk => true
  | _ => false
def LockOp.waitKind : LockOp → WaitKind
  | .wlk => .wlk
  | _ => .rlk

/-- One lock attempt (R132, R133). A failed WLK's first attempt adds to WWAIT and blocks, and `wwait` remembers it until the WLK succeeds or
is withdrawn; other failed waits block with no change; a failed .T form answers 0; a failed unlock writes MSTAT LAST 4. -/
def State.lockForm (s : State) (op : LockOp) (d a : Fin 32) (c : Fin 4) : Res State := do
  let va := s.me.readX a
  let u := s.me
  let posted := op.isUnlock && decide (d.val = 0)
  if op.waits then s.noHandler
  if posted then roomIn u.stores else roomIn u.loads
  let l ← s.atomicCheck va 8 c true
  let place := (l.cube, if s.isLocal l then l.key else l.gpa, if l.plied then s.myTag else 0)
  let counted := decide (op = .wlk) && decide (u.wwait = some place)
  let first := decide (op = .wlk) && !counted && (match u.wait with
    | some wt => !(decide (wt.kind = .wlk) && decide (wt.addr = va))
    | none => true)
  if s.isLocal l then
    let w := BitVec.ofNat 64 (leVal (s.view s.myCtx l 8 s.myTag))
    match op.attempt w counted with
    | some w' =>
      let s1 ← s.storeAt l (leBytes 8 w'.toNat) s.myTag
      need (!s.uncorrectable l.key) .eccu va
      let s2 := s1.setMe { s1.me with wwait := if op = .wlk then none else s1.me.wwait }
      if posted then .ok ((s2.addOp (s.newOp .store .stores)).retire (s2.me.raiseCtr .stores) 4)
      else .ok (s2.retire (s2.me.loadTo (.x d) ((op.result w true).setWidth 512)) 4)
    | none =>
      if op.waits then
        match (if first then addWaiter w else none) with
        | some w' =>
          let s1 ← s.storeAt l (leBytes 8 w'.toNat) s.myTag
          need (!s.uncorrectable l.key) .eccu va
          .ok ((s1.setMe { s1.me with wwait := some place }).blockAt .wlk va)
        | none =>
          need (!s.uncorrectable l.key) .eccu va
          .ok ((s.atomicAt l s.myTag).blockAt op.waitKind va)
      else
        need (!s.uncorrectable l.key) .eccu va
        let s1 := s.atomicAt l s.myTag
        let v := s1.me.status 4 21
        if posted then .ok ((s1.addOp (s.newOp .store .stores)).retire (v.raiseCtr .stores) 4)
        else .ok (s1.retire ((if op.isUnlock then v else s1.me).loadTo (.x d) ((op.result w false).setWidth 512)) 4)
  else
    let p := s.remoteRequest l 2 8 op.code [boolWord counted, boolWord first]
    if posted then s.remotePost l p u 21 4 else s.remoteOne va p (some (.x d)) 8 false 4

/-- RLK (R132, R133): blocks until the attempt succeeds; x[rd] := 1. -/
def execRlk (d a : Fin 32) (c : Fin 4) (s : State) : Outcome State Fault Refusal :=
  finish s (s.lockForm .rlk d a c)

/-- RLK.T (R132): one attempt; 1 or 0. -/
def execRlkT (d a : Fin 32) (c : Fin 4) (s : State) : Outcome State Fault Refusal :=
  finish s (s.lockForm .rlkT d a c)

/-- WLK (R132, R133): blocks until the attempt succeeds; x[rd] := 1. -/
def execWlk (d a : Fin 32) (c : Fin 4) (s : State) : Outcome State Fault Refusal :=
  finish s (s.lockForm .wlk d a c)

/-- WLK.T (R132): one attempt; WWAIT never touched. -/
def execWlkT (d a : Fin 32) (c : Fin 4) (s : State) : Outcome State Fault Refusal :=
  finish s (s.lockForm .wlkT d a c)

/-- RUNLK (R132): RD falls by one; x[rd] := the old word. -/
def execRunlk (d a : Fin 32) (c : Fin 4) (s : State) : Outcome State Fault Refusal :=
  finish s (s.lockForm .runlk d a c)

/-- WUNLK (R132): WR := 0; x[rd] := the old word. -/
def execWunlk (d a : Fin 32) (c : Fin 4) (s : State) : Outcome State Fault Refusal :=
  finish s (s.lockForm .wunlk d a c)

end Sys2Proof.Machine
end

