-- ==== Sys2Proof/Machine/Ply.lean ====
section
/-! DEFINITION. Ply tags (R137 to R143): PLYNEW, PLYSET, PLYGET, PLYRET, PLYQRY, and the service of waiting PLYNEWs. -/

namespace Sys2Proof.Machine

open Sys2Proof Host

/-- The lowest number from `k` on that no entry of a rising table has. -/
def firstFree (k : Nat) : List (Nat × α) → Nat
  | [] => k
  | (j, _) :: t => if j = k then firstFree (k + 1) t else if j < k then firstFree k t else k

/-- The lowest free tag of a context's domain, 1 to NTAGS (R139). -/
def Ctx.freeTag (k : Ctx) : Option (BitVec 16) :=
  let t := firstFree 1 k.tags
  if t ≤ k.ntags.toNat then some (BitVec.ofNat 16 t) else none

/-- Tags a quota class holds, live or retiring (R139, R141). -/
def Ctx.held (k : Ctx) (q : BitVec 3) : Nat := (k.tags.filter fun e => match e.2 with
  | some t => decide (t.cls = q)
  | none => false).length

/-- A class may receive a tag (R139). -/
def Ctx.canGrant (k : Ctx) (q : BitVec 3) : Bool := decide (k.held q < (Tab.read 0 k.quota q.toNat).toNat) && k.freeTag.isSome

/-- A waiter put into its place. -/
def insertWaiter (w : Nat × BitVec 3) : List (Nat × BitVec 3) → List (Nat × BitVec 3)
  | [] => [w]
  | h :: t => if w.1 < h.1 then w :: h :: t else h :: insertWaiter w t

/-- The classes of the PLYNEWs of a context that began to wait before number `seq`, in that order (R139). -/
def State.plynewQueue (s : State) (ctx seq : Nat) : List (BitVec 3) :=
  ((s.units.filterMap fun e => match e.2.wait with
    | some w => if s.ctxOf e.1 = ctx ∧ w.kind = .plynew ∧ w.seq < seq then some (w.seq, e.2.plyq) else none
    | none => none).foldr insertWaiter []).map (·.2)

/-- The domain once waiters are served in order, each whose class is at its quota passed over (R139). -/
def Ctx.serve (k : Ctx) : List (BitVec 3) → Ctx
  | [] => k
  | q :: t => match (if k.canGrant q then k.freeTag else none) with
    | some tag => Ctx.serve { k with tags := Tab.write none k.tags tag.toNat (some ⟨false, q⟩) } t
    | none => k.serve t

/-- Make a tag live in a class and give it to x[rd] (R139). -/
def State.grantTag (s : State) (d : Fin 32) (tag : BitVec 16) : State :=
  let ctx := s.myCtx
  let k := s.ctx ctx
  let s1 := s.setCtx ctx { k with tags := Tab.write none k.tags tag.toNat (some ⟨false, s.me.plyq⟩) }
  s1.retire (s1.me.setX d (tag.setWidth 64)) 4

/-- The tag PLYNEW would receive now: the lowest free one once those that began to wait before it are served, unless its class is full. -/
def State.plynewTag (s : State) : Option (BitVec 16) :=
  let seq := match s.me.wait with
    | some w => if w.kind = .plynew then w.seq else s.fresh
    | none => s.fresh
  let k := (s.ctx s.myCtx).serve (s.plynewQueue s.myCtx seq)
  if k.canGrant s.me.plyq then k.freeTag else none

/-- PLYNEW (R139): the lowest free tag, or a resident block. -/
def execPlynew (d : Fin 32) (s : State) : Outcome State Fault Refusal :=
  finish s (do
    s.noHandler
    match s.plynewTag with
    | some tag => .ok (s.grantTag d tag)
    | none => blockOn .plynew (s.me.plyq.setWidth 64))

/-- PLYNEW.NB (R139): the lowest free tag, or 0. -/
def execPlynewNb (d : Fin 32) (s : State) : Outcome State Fault Refusal :=
  .next (match s.plynewTag with
    | some tag => s.grantTag d tag
    | none => s.writeX d 0 4)

/-- PLY := a tag that is 0 or live, else PERM with ADDR the value (R140). -/
def State.setPly (s : State) (v : Word) : Res State := do
  need (s.tagLive s.myCtx (v.setWidth 16)) .perm (v &&& 0xFFFF)
  .ok (s.retire { s.me with ply := v.setWidth 16 } 4)

/-- PLYSET (R140). -/
def execPlyset (a : Fin 32) (s : State) : Outcome State Fault Refusal := finish s (s.setPly (s.me.readX a))

/-- PLYGET (R140). -/
def execPlyget (d : Fin 32) (s : State) : Outcome State Fault Refusal := .next (s.writeX d (s.me.ply.setWidth 64) 4)

/-- The tag becomes retiring (R137, R141). -/
def Ctx.retireTag (k : Ctx) (tag : BitVec 16) : Ctx :=
  { k with tags := match Tab.read none k.tags tag.toNat with
      | some t => Tab.write none k.tags tag.toNat (some { t with retiring := true })
      | none => k.tags }

/-- PLYRET (R141): at issue the tag becomes retiring, PLY drops it, a held record loses it (R166); the cells follow
asynchronously, counted as a store. -/
def State.plyret (s : State) (a : Fin 32) (commit : Bool) : Res State := do
  let tag : BitVec 16 := (s.me.readX a).setWidth 16
  if tag = 0 then .ok (s.retire s.me 4)
  else
    roomIn s.me.stores
    need (s.tagLive s.myCtx tag) .perm (tag.setWidth 64)
    need (!(commit && s.me.recfree)) .sidefx (tag.setWidth 64)
    let s1 := s.setCtx s.myCtx ((s.ctx s.myCtx).retireTag tag)
    let s2 := s1.addOp (s.newOp (.plyret tag.toNat commit) .stores)
    let u := s2.me
    let u' := { u with
      ply := if u.ply = tag then 0 else u.ply
      held := u.held.map fun (r : SkRec) => if r.ply = tag then { r with ply := 0 } else r }
    .ok (s2.retire (u'.raiseCtr .stores) 4)

/-- PLYRET.C (R141). -/
def execPlyretC (a : Fin 32) (s : State) : Outcome State Fault Refusal := finish s (s.plyret a true)

/-- PLYRET.D (R141). -/
def execPlyretD (a : Fin 32) (s : State) : Outcome State Fault Refusal := finish s (s.plyret a false)

/-- Keys of the cells a tag holds. -/
def State.cellsOf (s : State) (ctx tag : Nat) : List Nat :=
  (s.cells.filter fun e => decide (e.1 / 2 ^ 40 = ctx * 2 ^ 16 + tag)).map (·.1)

/-- Free lines of a pool (R250). -/
def Ctx.freeLines (k : Ctx) : Nat := ((List.range 4).map (Tab.read 0 k.poolFree)).sum

/-- PLYQRY's answer about a tag (R142). -/
def State.queryTag (s : State) (tag : BitVec 16) : Word :=
  if tag = 0 then 1
  else match Tab.read none (s.ctx s.myCtx).tags tag.toNat with
    | none => 0
    | some t => BitVec.ofNat 64 ((if t.retiring then 2 else 1) + t.cls.toNat * 4 + (s.cellsOf s.myCtx tag.toNat).length % 2 ^ 32 * 2 ^ 16)

/-- PLYQRY's answer about a class (R142). -/
def Ctx.queryClass (k : Ctx) (q : BitVec 3) : Word :=
  BitVec.ofNat 64 (k.held q % 2 ^ 16 + (Tab.read 0 k.quota q.toNat).toNat * 2 ^ 16 + k.freeLines % 2 ^ 32 * 2 ^ 32)

/-- PLYQRY (R142). -/
def execPlyqry (d a : Fin 32) (s : State) : Outcome State Fault Refusal :=
  let v := s.me.readX a
  .next (s.writeX d (if v.getLsbD 63 then (s.ctx s.myCtx).queryClass (v.setWidth 3) else s.queryTag (v.setWidth 16)) 4)

end Sys2Proof.Machine
end

