-- ==== Sys2Proof/Machine/Trace.lean ====
section
/-! DEFINITION. Trace records (R322): their first word, and the record a tracing cluster keeps. -/

namespace Sys2Proof.Machine

open Sys2Proof

/-- Word 0 of a trace record (R322); a record on strand 0 carries the fields of the running activation. -/
def State.traceWord0 (s : State) (kind : Nat) (key : Nat) : Word :=
  let act := if isMsgStrand key then (s.unit key).inMsg else none
  let hcls := match act with
    | some p => p.pkt.hcls
    | none => 0
  let seq := match act with
    | some p => p.pkt.seq
    | none => 0
  BitVec.ofNat 64 (kind + slotOf key % 8 * 2 ^ 4 + coreOf key * 2 ^ 8 + s.cubeNum * 2 ^ 16 + hcls % 64 * 2 ^ 36
    + s.ctxOf key % 16 * 2 ^ 42 + seq % 2 ^ 16 * 2 ^ 48)

/-- Records a 64 KiB trace buffer holds. -/
def traceCapacity : Nat := 2048

/-- Append a record with a given word 0 for a unit while its context traces (TRCTL [0]); a record past a full buffer counts as lost. -/
def State.traceWith (s : State) (key : Nat) (w0 w2 w3 : Word) : State :=
  let k := s.ctx (s.ctxOf key)
  if k.trctl.getLsbD 0 then
    let c := s.cluster (clusterOf key)
    if c.trace.length < traceCapacity then
      s.setCluster (clusterOf key) { c with trace := c.trace ++ [⟨w0, BitVec.ofNat 64 s.gtime, w2, w3⟩] }
    else s.setCtx (s.ctxOf key) { k with trlost := k.trlost + 1 }
  else s

def State.trace (s : State) (key kind : Nat) (w2 w3 : Word) : State := s.traceWith key (s.traceWord0 kind key) w2 w3

end Sys2Proof.Machine
end

