-- ==== Sys2Proof/Machine/System.lean ====
section
/-! DEFINITION. Special registers as they are read, and the strand's own as they are written (R45 to R49, R51, R55, R115), TSTAMP (R116), IDLE (R117), HNOTE (R118). -/

namespace Sys2Proof.Machine

open Sys2Proof Host

/-! ## Spindle control (R51) -/

/-- LOADCTL or STORCTL of a core (slot 8 or 9) as SRR reads it: GO and HALT are write-only. -/
def spindleCtl (u : Strand) : Word :=
  (if u.busy then 2 else 0) ||| (if u.event.isSome then 4 else 0) ||| (u.start.setWidth 64 <<< 16) ||| (u.code.setWidth 64 <<< 32)

/-- GO: an idle spindle core starts at START with x1 to x15 and the counters zero (R51). -/
def Strand.spindleGo (u : Strand) (now : Nat) : Strand :=
  if u.busy then u
  else { u with busy := true, st := .run, pc := BitVec.ofNat 64 (u.start.toNat * 2), x := [], pend := [], loads := 0, stores := 0,
                copies := 0, tiles := 0, msgs := 0, hold := none, wait := none, haltReq := false, wid := now }

/-- A HALT takes effect (R51): outstanding loads are discarded, stores and copies complete on their own. -/
def Strand.spindleStop (u : Strand) : Strand :=
  { u with busy := false, st := .idle, pend := [], loads := 0, hold := none, wait := none, haltReq := false, remote := none }

/-- A write of LOADCTL or STORCTL (R51): START is stored, then GO acts and then HALT. R51 gives no order for a write of both: the core starts, and halts at
its first instruction boundary (DESIGN CHOICE, log entry 111). -/
def Strand.writeCtl (u : Strand) (v : Word) (now : Nat) : Strand :=
  let u1 := { u with start := (v >>> 16).setWidth 11 }
  let u2 := if v.getLsbD 0 then u1.spindleGo now else u1
  if v.getLsbD 3 && u2.busy then { u2 with haltReq := true } else u2

/-! ## Lease state (R55) -/

def leaseTime (k : Cluster) (now : Nat) : Nat := if k.holder.isSome then min (now - k.leaseSince) 16384 else 0

/-- LEASEST of a core (R55). -/
def leaseSt (k : Cluster) (core : Nat) (now : Nat) : Word :=
  BitVec.ofNat 64 ((if k.holder = some (core % 8) then 1 else 0) + (if k.waiting.contains (core % 8) then 2 else 0)
    + (if k.holder.isSome then min k.cmds 64 else 0) * 2 ^ 4 + leaseTime k now * 2 ^ 16 + (k.holder.getD 0) % 8 * 2 ^ 32 + (if k.holder.isSome then 2 ^ 35 else 0))

/-! ## SRR and SRW -/

/-- The indices of R45's table. -/
def isSpecial (i : Nat) : Bool :=
  i ≤ 4 || i = 0x08 || i = 0x09 || i = 0x10 || i = 0x11 || i = 0x12 || i = 0x13 || i = 0x18 || (0x20 ≤ i && i ≤ 0x23)
    || i = 0x28 || i = 0x29 || (0x30 ≤ i && i ≤ 0x37) || i = 0x40 || i = 0x41 || i = 0x48 || (0x50 ≤ i && i ≤ 0x53)

/-- Registers that SRW may write (R45). -/
def isWritable (i : Nat) : Bool :=
  i = 0x08 || i = 0x09 || i = 0x10 || i = 0x11 || i = 0x12 || i = 0x13 || i = 0x18 || i = 0x40 || (0x50 ≤ i && i ≤ 0x53)

/-- Registers a spindle core may read (R50). -/
def spindleReads (i : Nat) : Bool := i = 0 || i = 2 || i = 3 || i = 4 || i = 0x18

/-- RECDONE (R45): done mask, visit count, stage of the held record. -/
def recDone (u : Strand) : Word := match u.held with
  | some r => r.done.setWidth 64 ||| (r.visits.setWidth 64 <<< 16) ||| (r.stage.setWidth 64 <<< 24)
  | none => 0

/-- The value SRR reads (R45, R115). In task strands MSGCLS to MSGRPL read zero; in strand 0 RECFREE, RECDONE and LVL do. -/
def State.readSpecial (s : State) (i : Nat) : Word :=
  let u := s.me
  let core := coreOf s.cur
  let k := s.cluster (clusterOf s.cur)
  let msg := isMsgStrand s.cur
  if i = 0x00 then BitVec.ofNat 64 (core % 256 + s.cubeNum * 2 ^ 8)
  else if i = 0x01 then BitVec.ofNat 64 (slotOf s.cur % 8)
  else if i = 0x02 then BitVec.ofNat 64 (s.myCtx % 16) ||| ((s.ctx s.myCtx).gen.setWidth 64 <<< 8)
  else if i = 0x03 then BitVec.ofNat 64 s.cycle
  else if i = 0x04 then BitVec.ofNat 64 s.gtime
  else if i = 0x08 then u.ply.setWidth 64
  else if i = 0x09 then u.plyq.setWidth 64
  else if i = 0x10 then u.fpctl.setWidth 64
  else if i = 0x11 then u.fpflg.setWidth 64
  else if i = 0x12 then u.rngst.setWidth 64
  else if i = 0x13 then u.vl.setWidth 64
  else if i = 0x18 then u.mstat
  else if i = 0x20 then (if msg then u.msgcls.setWidth 64 else 0)
  else if i = 0x21 then (if msg then u.msgsrc.setWidth 64 else 0)
  else if i = 0x22 then (if msg then u.msgts.setWidth 64 else 0)
  else if i = 0x23 then (if msg then u.msgrpl.setWidth 64 else 0)
  else if i = 0x28 then (if !msg && u.recfree then 1 else 0)
  else if i = 0x29 then (if msg then 0 else recDone u)
  else if 0x30 ≤ i && i ≤ 0x37 then (if msg then 0 else Tab.read 0 u.lvl (i - 0x30))
  else if i = 0x40 then k.astat.setWidth 64
  else if i = 0x41 then leaseSt k core s.cycle
  else if i = 0x48 then BitVec.ofNat 64 (s.core core).blktmo
  else if i = 0x50 then spindleCtl (s.unit (unitKey core 8))
  else if i = 0x51 then spindleCtl (s.unit (unitKey core 9))
  else 0

/-- SRR (R46, R115). -/
def execSrr (d : Fin 32) (im : Fin 1024) (s : State) : Outcome State Fault Refusal :=
  finish s (
    if 0x200 ≤ im.val then
      (if isService s.cur then .ok (s.writeX d (Config.firmwareRegister im.val s.fresh) 4) else raise .priv 0)
    else if !isSpecial im.val || (isSpindle s.cur && !spindleReads im.val) then raise .undef 0
    else .ok (s.writeX d (s.readSpecial im.val) 4))

/-- The strand's own registers as SRW writes them (R42, R47 to R49, R115). -/
def Strand.writeSpecial (u : Strand) (i : Nat) (v : Word) : Strand :=
  if i = 0x09 then { u with plyq := v.setWidth 3 }
  else if i = 0x10 then { u with fpctl := v.setWidth 3 }
  else if i = 0x11 then { u with fpflg := v.setWidth 5 }
  else if i = 0x12 then { u with rngst := rngWrite v }
  else if i = 0x13 then { u with vl := vlWrite v }
  else if i = 0x18 then u.writeMstat v
  else u

/-- TSTAMP (R116): x[rd] := GTIME, and a mark record while the context traces. -/
def execTstamp (d a : Fin 32) (s : State) : Outcome State Fault Refusal :=
  let s1 := s.trace s.cur 2 s.me.pc (s.me.readX a)
  .next (s1.writeX d (BitVec.ofNat 64 s.gtime) 4)

/-- IDLE (R117, R51): a strand stops issuing for n cc; a spindle core ends its program once its stores and copies are done.
Loads that are still out then (a TMLD) are discarded, as R51 has it of a HALT (DESIGN CHOICE, log entry 90). -/
def execIdle (a : Fin 32) (s : State) : Outcome State Fault Refusal :=
  let u := s.me
  let n := bits (u.readX a).toNat 15 0
  if isSpindle s.cur then
    finish s (if u.stores = 0 ∧ u.copies = 0 then
      .ok (s.setMe { u with busy := false, st := .idle, hold := none, wait := none, pend := [], loads := 0 }) else stall .operations)
  else if n = 0 then .next (s.retire u 4)
  else
    let s1 := s.retire u 4
    .next (s1.setMe { s1.me with hold := some ⟨.idle, s.cycle, s.cycle + n⟩ })

/-! ## HNOTE -/

/-- Raise an MSI-X vector of a function's table (R118, R310): sent, or pending while masked, or nothing while disabled. The
flag says whether the message was sent. -/
def raiseVector (enable mask : Bool) (vs : Tab Vector_) (v : Nat) : Bool × Tab Vector_ :=
  let e := Tab.read {} vs v
  if !enable then (false, vs)
  else if mask || e.masked then (false, Tab.write {} vs v { e with pending := true })
  else (true, vs)

/-- Raise a vector of a context's virtual function, number context + 1. -/
def State.raiseVf (s : State) (ctx v : Nat) : Bool × State :=
  let k := s.ctx ctx
  let (sent, vs) := raiseVector k.msixEnable k.msixMask k.vectors v
  let s1 := s.setCtx ctx { k with vectors := vs }
  (sent, if sent then { s1 with irqs := s1.irqs ++ [(ctx + 1, v)] } else s1)

/-- Raise a vector of the physical function. -/
def State.raisePf (s : State) (v : Nat) : State :=
  let (sent, vs) := raiseVector s.plat.msixEnable s.plat.msixMask s.plat.vectors v
  let s1 := { s with plat := { s.plat with vectors := vs } }
  if sent then { s1 with irqs := s1.irqs ++ [(0, v)] } else s1

/-- HNOTE (R118): waits for the strand's earlier stores and messages, raises the vector, writes MSTAT. -/
def execHnote (a : Fin 32) (s : State) : Outcome State Fault Refusal :=
  finish s (
    if s.me.stores = 0 ∧ s.me.msgs = 0 then
      let (sent, s1) := s.raiseVf s.myCtx (bits (s.me.readX a).toNat 5 0)
      .ok (s1.retire (s1.me.status (if sent then 0 else 4) 40) 4)
    else stall .operations)

end Sys2Proof.Machine
end

