-- ==== Sys2Proof/Machine/Pool.lean ====
section
/-! DEFINITION. Continuation records, pools and run lists (R12 to R19), suspension (R148), and the completion of operations
in flight, counted for the work that issued them (R15, R20, R44). -/

namespace Sys2Proof.Machine

open Sys2Proof

/-! ## Words of a record (R12) -/

def recPlytag (w : Word) : BitVec 16 := w.setWidth 16
def recPrio (w : Word) : Nat := bits w.toNat 17 16
def recSteal (w : Word) : Bool := w.getLsbD 18
def recGmem (w : Word) : Bool := w.getLsbD 19
def recHome (w : Word) : Nat := bits w.toNat 39 32
def recGid (w : Word) : Nat := bits w.toNat 63 40
/-- Word 1 as the cube builds it: bits [31:20] are zero (R13). -/
def mkWord1 (ply : BitVec 16) (prio : Nat) (steal gmem : Bool) (home gid : Nat) : Word :=
  BitVec.ofNat 64 (ply.toNat + prio % 4 * 2 ^ 16 + (if steal then 2 ^ 18 else 0) + (if gmem then 2 ^ 19 else 0) + home % 256 * 2 ^ 32 + gid % 2 ^ 24 * 2 ^ 40)
/-- A record may be taken by other cores (R12: GMEM = 1 makes STEAL count as 0). -/
def stealable (w : Word) : Bool := recSteal w && !recGmem w

/-! ## Pool slots -/

/-- The k-th number, from 0, that no key of a rising table equals. -/
def kthFree {α : Type} (k : Nat) : List (Nat × α) → Nat
  | [] => k
  | (j, _) :: t => if j ≤ k then kthFree (k + 1) t else k

/-- A free slot of a core's pool, where there is one; which one is not stated (R14, R19; Config.pick). -/
def State.allocSlot (s : State) (core : Nat) : Option Nat :=
  let k := s.core core
  let free := k.poolSize - k.slots.length
  if k.slots.length < k.poolSize then some (kthFree (Config.pick s.fresh free % free) k.slots) else none

def State.record (s : State) (core slot : Nat) : List Word := leWords (s.bytes (scratchKey core (recordOff (s.core core) slot)) 64)
def State.counterWord (s : State) (core slot : Nat) : Word := s.word64 (scratchKey core (counterOff (s.core core) slot))
def counterCount (w : Word) : Nat := bits w.toNat 47 0
def counterGen (w : Word) : Nat := bits w.toNat 55 48

/-- Write a record into an allocated slot; its counter holds `count` and the next generation (R21). -/
def State.writeRecord (s : State) (core slot : Nat) (ws : List Word) (count : Nat) : State :=
  let gen := (counterGen (s.counterWord core slot) + 1) % 256
  let s1 := s.putBase (scratchKey core (recordOff (s.core core) slot)) (bytesOfWords (ws.take 8))
  s1.putBase (scratchKey core (counterOff (s.core core) slot)) (leBytes 8 (count % 2 ^ 48 + gen * 2 ^ 48))

/-- The dependence handle of a slot's counter (R21): its scratch-window address with GEN in bits [27:20]. -/
def State.handle (s : State) (core slot : Nat) : Word :=
  BitVec.ofNat 64 (15 * 2 ^ 60 + s.cubeNum * 2 ^ 36 + core * 2 ^ 28 + counterGen (s.counterWord core slot) * 2 ^ 20 + counterOff (s.core core) slot)

def State.setSlot (s : State) (core slot : Nat) (e : Option Slot) : State :=
  let k := s.core core
  s.setCore core { k with slots := Tab.write none k.slots slot e }

/-- The counter word of a slot in an overflow chain holds a link; its generation stays (R16). -/
def State.linkSlot (s : State) (core slot : Nat) : State :=
  let gen := counterGen (s.counterWord core slot)
  { s.putBase (scratchKey core (counterOff (s.core core) slot)) (leBytes 8 ((Config.chainLink s.fresh).toNat + gen * 2 ^ 48)) with fresh := s.fresh + 1 }

/-- Put a runnable record at the end of the run list of a priority; past the list's 256 entries it stands in the overflow chain, and the
last of the chain is linked to it (R16). -/
def State.enqueueAt (s : State) (core slot prio : Nat) : State :=
  let k := s.core core
  let w1 := wordAt (s.record core slot) 1
  let list := Tab.read [] k.runq prio
  let s1 := s.setCore core { k with runq := Tab.write [] k.runq prio (list ++ [⟨slot, w1, s.cycle, false, none⟩]) }
  if list.length < runListRoom then s1
  else ((list.drop runListRoom).getLast?.toList.foldl (fun (t : State) e => t.linkSlot core e.slot) s1).linkSlot core slot

def State.enqueue (s : State) (core slot : Nat) : State := s.enqueueAt core slot (recPrio (wordAt (s.record core slot) 1))

/-- A parked record becomes runnable (R19). -/
def State.wakeSlot (s : State) (core slot : Nat) : State :=
  match Tab.read none (s.core core).slots slot with
  | some e => (s.setSlot core slot (some { e with park := .runnable })).enqueue core slot
  | none => s

/-- Make a record at a core; the caller has a free slot. -/
def State.makeRecord (s : State) (core slot : Nat) (ws : List Word) (count : Nat) (park : Park) : State :=
  let s1 := s.writeRecord core slot ws count
  let s2 := s1.setSlot core slot (some { park := park, seq := s.fresh, worker := none, held := none, recfree := false, heldSid := 0, heldSince := 0 })
  let s3 := { s2 with fresh := s2.fresh + 1 }
  if park = .runnable then s3.enqueue core slot else s3

/-! ## Suspension (R15, R19, R148) -/

/-- A strand without work: its outstanding loads are discarded, its operations detach (R15). -/
def Strand.vacate (u : Strand) : Strand :=
  { u with st := .idle, pend := [], awaits := [], loads := 0, hold := none, wait := none, remote := none, blocks := [], wid := 0, held := none,
           recfree := false, worker := none, wwait := none, haltWait := none, event := none, posted := false }

/-- The suspension record of the executing strand (R148). -/
def State.suspensionRecord (s : State) (len : Nat) : List Word :=
  let u := s.me
  [u.pc + BitVec.ofNat 64 len,
   mkWord1 u.ply (recPrio u.word1) (recSteal u.word1) (recGmem u.word1) (coreOf s.cur) (recGid u.word1),
   u.readX 9, u.readX 10, u.readX 11, u.readX 12, u.readX 13, u.readX 14]

/-- Suspend into an allocated slot (R148): the record is written, parked as said, the strand is IDLE. -/
def State.suspend (s : State) (slot : Nat) (park : Park) (len : Nat) : State :=
  let core := coreOf s.cur
  let u := s.me
  let s1 := s.writeRecord core slot (s.suspensionRecord len) 0
  let s2 := s1.setSlot core slot (some { park := park, seq := s.fresh, worker := u.worker, held := u.held, recfree := u.recfree,
                                         heldSid := u.heldSid, heldSince := u.heldSince })
  let s3 := { s2 with fresh := s2.fresh + 1 }
  let s4 := if park = .runnable then s3.enqueue core slot else s3
  s4.setMe s4.me.vacate

/-! ## Works and their counters -/


/-- An operation of a work completes (R15, R20): the counter of the strand it stands on, or of its spill slot, falls; its
strand's pts rises to the floor (R220); `f` is what else happens to the strand while the work runs. -/
def State.settleWork (s : State) (ctx party wid : Nat) (c : Ctr) (f : Strand → Strand) : State :=
  if s.isOut ctx then s.settleSaved ctx party wid c f
  else match workUnit s.unit party wid with
  | some key =>
    let u := s.unit key
    s.setUnit key (f { u.lowerCtr c with pts := max u.pts s.floor })
  | none =>
    match workSpill (s.core (coreOf party)).spills wid with
    | some slot =>
      if c = .none then s
      else
        let key := scratchKey (coreOf party) (spillOff (s.core (coreOf party)) slot + c.spillOff)
        s.putBase key (leBytes 8 (leVal (s.bytes key 8) - 1))
    | none => s

/-- Operation `n` completes and leaves the list. -/
def State.endOp (s : State) (n : Nat) (o : Op) (f : Strand → Strand) : State :=
  { s with ops := s.ops.eraseIdx n }.settleWork o.ctx o.party o.wid o.ctr f

/-- An engine error shows in MSTAT while the work runs (R49). -/
def Strand.engineError (u : Strand) : Strand := { u with engerr := true }

/-- R146: an item or record that a unit of this cube takes at issue follows the strand's earlier PLYRETs. -/
def State.plyretsDone (s : State) : Res Unit :=
  if s.plyretsOf (coreOf s.cur) s.me.wid s.fresh then stall .operations else .ok ()

end Sys2Proof.Machine
end

