-- ==== Sys2Proof/Machine/Walk.lean ====
section
/-! DEFINITION. Page-table entries (R241, R242), the hashed page-table walk (R247), and the accesses of die management and the
service cores through a context's page table (R24, R27, R246). -/

namespace Sys2Proof.Machine

open Sys2Proof

/-- An entry's two words read as R241 lays them out. -/
def pteOf (w0 w1 : Word) : Pte :=
  { v := w0.getLsbD 0, sz := (w0 >>> 1).setWidth 2, ro := w0.getLsbD 3, nx := w0.getLsbD 4, plied := w0.getLsbD 5,
    conf := w0.getLsbD 6, pcl := w0.getLsbD 7, bank := w0.getLsbD 8, rdc := w0.getLsbD 9, hmode := w0.getLsbD 10,
    hval := (w0 >>> 11).setWidth 6, ctx := (w0 >>> 20).setWidth 4, vpn := (w0 >>> 24).setWidth 40, pfn := w1.setWidth 44 }

/-- R242. -/
def malformedPte (w0 w1 : Word) : Bool :=
  let p := pteOf w0 w1
  decide (p.sz = 3) || decide (bits w0.toNat 19 17 ≠ 0) || decide (bits w1.toNat 63 43 ≠ 0)
    || (decide (p.sz = 1) && (decide (p.vpn.toNat % 2 ^ 5 ≠ 0) || decide (p.pfn.toNat % 2 ^ 5 ≠ 0)))
    || (decide (p.sz = 2) && (decide (p.vpn.toNat % 2 ^ 14 ≠ 0) || decide (p.pfn.toNat % 2 ^ 14 ≠ 0)))
    || (p.pcl && decide (p.sz ≠ 1)) || (p.plied && (p.bank || p.pcl))

/-- A global physical address in either form names memory of another cube (R232, R249). -/
def State.isFar (s : State) (gpa : Nat) : Bool :=
  if 2 ^ 59 ≤ gpa then decide (bits gpa 55 36 ≠ s.cubeNum) else match s.resolveDram gpa with
    | some (cube, _) => decide (cube ≠ s.cubeNum)
    | none => false

/-- A byte that another cube holds, where firmware, die management or the host reads it: what the step's input says that the cube answers, else
open (Config.remoteByte; DESIGN CHOICE, log entry 15). -/
def State.farByte (s : State) (gpa : Nat) : Byte := match s.inp.answers.find? fun e => decide (e.1 = gpa) with
  | some e => e.2
  | none => Config.remoteByte s.fresh gpa

/-- Bytes at a global physical address; another cube's are what it answers, and what lies nowhere reads zero. -/
def State.physBytes (s : State) (gpa n : Nat) : List Byte :=
  match s.localOf gpa with
  | some key => s.bytes key n
  | none => if s.isFar gpa then (List.range n).map fun i => s.farByte (gpa + i) else List.replicate n 0

/-- R247: the first bucket for a page size. -/
def bucketOf (va z b : Nat) : Nat :=
  let sh := if z = 0 then 16 else if z = 1 then 21 else 30
  let k := bits va 55 sh * 4 + z
  (k * 0xC2B2AE3D27D4EB4F) % 2 ^ 64 / 2 ^ (64 - b)

/-- One table entry as the walk looks at it. -/
def State.walkEntry (s : State) (ctx va z gpa : Nat) : Option Pte :=
  let ws := leWords (s.physBytes gpa 16)
  let w0 := wordAt ws 0
  let w1 := wordAt ws 1
  if malformedPte w0 w1 || decide ((pteOf w0 w1).sz.toNat ≠ z) then none
  else if (pteOf w0 w1).hits ctx va then some (pteOf w0 w1) else none

/-- The cluster whose service core's shard holds the bucket that a walk looks at first (R247). -/
def Ctx.shard (k : Ctx) (va : Word) : Nat := bucketOf va.toNat 0 k.ptlog.toNat % 32

/-- The entries a walk looks at, in its order (R247): page sizes 0, 1, 2; eight buckets; four entries each. -/
def walkPlaces (base b va : Nat) : List (Nat × Nat) :=
  (List.range 3).flatMap fun z => (List.range 8).flatMap fun j => (List.range 4).map fun e =>
    (z, base + (bucketOf va z b + j) % 2 ^ b * 64 + e * 16)

/-- R247: the walk of a context's page table; a table whose B is out of range is not there (R313). -/
def State.walk (s : State) (ctx : Nat) (va : Word) : Option Pte :=
  let k := s.ctx ctx
  let b := k.ptlog.toNat
  if va.toNat / 2 ^ 56 ≠ 0 ∨ b < 10 ∨ 30 < b then none
  else (walkPlaces k.ptbase.toNat b va.toNat).findSome? fun p => s.walkEntry ctx va.toNat p.1 p.2

/-- A place that die management reaches: a local address, or a global physical address of another cube with its page's homing and CONF. -/
inductive Reach where
  | here (key : Nat)
  | far (cube gpa homing : Nat) (conf : Bool)
  deriving DecidableEq, Repr

/-- The place die management reaches through a context's page table, or by a scratch-window address of the context's partition (R24, R27), with
the checks that any access meets on this cube: no write into a reserved region (R234), the page's homing (R235, R240).
R24 and R27 name the scratch window for DONE; the model takes it for a launch record, a table image, a skein list and a cube list too
(DESIGN CHOICE, log entry 83). -/
def State.mgmtPlace (s : State) (ctx : Nat) (va : Word) (write : Bool) : Option Reach :=
  let v := va.toNat
  if isScratchVa va then
    if bits v 59 56 = 0 ∧ bits v 27 20 = 0 ∧ bits v 55 36 = s.cubeNum ∧ s.inPartition ctx (bits v 35 28)
        ∧ !(write && s.reservedOff (bits v 35 28) (bits v 19 0)) then
      some (.here (scratchKey (bits v 35 28) (bits v 19 0))) else none
  else match s.walk ctx va with
    | some p => if write && p.ro then none else match s.resolveDram (p.map v) with
      | some (cube, a) =>
        if cube = s.cubeNum then (if dramExists a && s.homingServes ctx p.homing a then some (.here a) else none)
        else if s.isRemoved cube then none
        else some (.far cube (p.map v) p.homing p.conf)
      | none => none
    | none => none

/-- The place where it lies on this cube. -/
def State.mgmtLocal (s : State) (ctx : Nat) (va : Word) (write : Bool) : Option Nat := match s.mgmtPlace ctx va write with
  | some (.here key) => some key
  | _ => none

/-- n words from an address die management reads; none where a line is not readable. Another cube's words are what it answers. -/
def State.mgmtWords (s : State) (ctx : Nat) (va : Word) : Nat → Option (List Word)
  | 0 => some []
  | n + 1 => match s.mgmtPlace ctx va false, s.mgmtWords ctx (va + 8) n with
    | some (.here a), some t => if s.uncorrectable a then none else some (s.word64 a :: t)
    | some (.far _ gpa _ _), some t => some (BitVec.ofNat 64 (leVal ((List.range 8).map fun i => s.farByte (gpa + i))) :: t)
    | _, _ => none

/-- An address of a context lies in a range that is being re-striped, where new accesses are held (R308). -/
def State.mgmtHeld (s : State) (ctx : Nat) (va : Word) : Bool :=
  (s.amap.any fun e => (e.2.map AmapEntry.fwd).getD false) && !isScratchVa va && (match s.walk ctx va with
    | some p => s.rangeHeld (p.map va.toNat)
    | none => false)

/-- The same of any of n words. -/
def State.blockHeld (s : State) (ctx : Nat) (va : Word) (n : Nat) : Bool := (List.range n).any fun i => s.mgmtHeld ctx (va + BitVec.ofNat 64 (8 * i))

/-- A record's page is CONF (R305). -/
def State.confAt (s : State) (ctx : Nat) (va : Word) : Bool := !isScratchVa va && ((s.walk ctx va).map (·.conf)).getD false

/-! ## Submissions (R24, R27) -/

/-- Die management of die 0 (R295). -/
def dieManagement : Nat := 0x204

/-- A store of a word by die management at a place of another cube (R121). -/
def State.farStore (s : State) (ctx cube gpa homing : Nat) (conf : Bool) (w : Word) : State :=
  s.post { s.packet .builtin dieManagement ctx cube (unitNumber (unitKey (s.farHome ctx gpa homing) 0)) 1 0 2 [BitVec.ofNat 64 gpa, BitVec.ofNat 64 homing, w, 0] 0 with
    aux := accessAux 8 0, conf := conf }

/-- Write a launch's completion object: STATUS and LTAG at DONE, where DONE can be written (R27). -/
def State.writeDone (s : State) (ctx : Nat) (rec : List Word) (status : Nat) : State :=
  let w := BitVec.ofNat 64 (status % 256 + (wordAt rec 3).toNat % 2 ^ 56 * 256)
  if (wordAt rec 2).toNat % 8 ≠ 0 then s
  else match s.mgmtPlace ctx (wordAt rec 2) true with
    | some (.here a) => s.completionWrite a w
    | some (.far cube gpa homing conf) => s.farStore ctx cube gpa homing conf w
    | none => s

/-- What became of a submission. -/
inductive Submitted where
  | accepted | refused | ignored
  deriving DecidableEq, Repr

/-- A submission waits: its record, or the DONE that a full queue's refusal is written to, lies in a range that is being re-striped (R308). -/
def State.submitHeld (s : State) (ctx : Nat) (va : Word) : Bool := s.blockHeld ctx va 32 || (match s.mgmtWords ctx va 3 with
  | some ws => s.mgmtHeld ctx (wordAt ws 2)
  | none => false)

/-- A submission of a launch record (R24, R27): ignored while the context is free; refused where the record cannot be read;
at the end of a full queue it completes at once with status 5. There the queue is looked at before DONE, and a DONE that cannot be written is neither
written nor counted: R27 does not say which check comes first (DESIGN CHOICE, log entry 106). -/
def State.submit (s : State) (ctx : Nat) (va : Word) (wid : Nat) : Submitted × State :=
  let k := s.ctx ctx
  if k.state = .free then (.ignored, s)
  else if va.toNat % 64 ≠ 0 then (.refused, s.count ctx .refusedSubmission)
  else match s.mgmtWords ctx va 32 with
    | none => (.refused, s.count ctx .refusedSubmission)
    | some ws =>
      if k.submissions.length < (if k.launch.isSome then 8 else 9) then
        (.accepted, s.setCtx ctx { k with submissions := k.submissions ++ [⟨ws, wid, s.confAt ctx va⟩] })
      else (.accepted, s.writeDone ctx ws 5)

end Sys2Proof.Machine
end

