-- ==== Sys2Proof/Machine/Message.lean ====
section
/-! DEFINITION. Messages (R144 to R151), hardware queues (R152, R153) and engine commands (R152, R154). -/

namespace Sys2Proof.Machine

open Sys2Proof Host

/-! ## Operand blocks in memory (R145) -/

/-- A part of an operand block that one access reads: address, bytes (at most a line), and what an event calls its lane. -/
abbrev Piece := Word × Nat × Nat

/-- Check the addresses of the pieces in ascending order, under the strand's PLY. -/
def State.checkPieces (s : State) : List Piece → Res (List (Loc × Nat × Nat))
  | [] => .ok []
  | (va, n, lane) :: t => do
    let l ← s.check va 1 .read s.myTag false lane
    let ls ← s.checkPieces t
    .ok ((l, n, lane) :: ls)

/-- What a strand has received from another cube for an address. -/
def Strand.blockAt (u : Strand) (va : Word) : Option (List Byte) := (u.blocks.find? fun b => decide (b.1 = va)).map (·.2)

/-- Read a piece on this cube. -/
def State.takePiece (s : State) (e : Loc × Nat × Nat) : State :=
  let s1 := s.loadAt e.1 s.myTag
  s1.setMe { s1.me with hold := none, blocks := s1.me.blocks ++ [(e.1.va, s.view s.myCtx e.1 e.2.1 s.myTag)] }

/-- Read an operand block at issue, one access for each piece (R145). Pieces on another cube are remote loads (R121): the instruction waits
until every one has come, and then issues with them. Other parties' accesses may fall between two pieces. -/
def State.readBlocks (s : State) (ps : List Piece) : Res (State × List Byte) := do
  let ls ← s.checkPieces ps
  let rest := ls.filter fun e => (s.me.blockAt e.1.va).isNone
  let here := rest.filter fun e => s.isLocal e.1
  let far := rest.filter fun e => !s.isLocal e.1
  match here.find? fun e => s.uncorrectable e.1.key with
  | some e => raiseAt .eccu e.1.va e.2.2
  | none =>
    if far ≠ [] then do
      let t ← s.remoteAwait (far.map fun e => (s.lineRequest e.1 (maskAt (e.1.gpa % 64) e.2.1) 0 [], [⟨0, 0, e.2.1, e.1.va, e.2.2⟩])) (some .block) 0 false 0 0
      .error (.await t)
    else match s.single, here with
      | true, e :: _ :: _ => .error (.await (s.takePiece e))
      | _, _ =>
        let s1 := here.foldl State.takePiece s
        .ok (s1, ls.flatMap fun e => (s1.me.blockAt e.1.va).getD [])

/-- What an instruction's address checks report before what a read of one of its operand blocks does: uncorrectable data, an unreachable cube, an
access that is made (R87, R89: steps 10, 12 and 13). An event of the block's own address comes first. -/
def beforeAccess {α β : Type} (read : Res α) (checks : Res β) : Res α := match read with
  | .ok a => .ok a
  | .error (.event c a l x) => if c = .eccu ∨ c = .unreach then checks.bind fun _ => .error (.event c a l x) else .error (.event c a l x)
  | .error e => checks.bind fun _ => .error e

/-- Some piece lies in a CONF page (R241): its data crosses links in CONF packets only (R305). -/
def State.confPieces (s : State) (ps : List Piece) : Bool := ps.any fun e => match s.locate (coreOf s.cur) s.myCtx e.1 .read s.myTag with
  | .ok l => l.conf
  | .error _ => false

/-- One access to an aligned block of n bytes, at most a line. -/
def State.readBlock (s : State) (va : Word) (n lane : Nat) : Res (State × List Byte) :=
  if va.toNat % n ≠ 0 then raiseAt .align va lane else s.readBlocks [(va, n, lane)]

/-- n flits from a line's first flit on. -/
def linePieces (va : Word) (lane : Nat) : Nat → List Piece
  | 0 => []
  | 1 => [(va, 32, lane)]
  | n + 2 => (va, 64, lane) :: linePieces (va + 64) (lane + 2) n

/-- n flits from a 32-byte-aligned address on: one access for each 64-byte line (R150). -/
def flitPieces (va : Word) (n : Nat) : List Piece :=
  if va.toNat % 64 = 0 ∨ n = 0 then linePieces va 0 n else (va, 32, 0) :: linePieces (va + 32) 1 (n - 1)

/-- The payload of SENDV (R150). -/
def State.readFlits (s : State) (va : Word) (n : Nat) : Res (State × List Byte) := do
  need (decide (n = 0) || decide (va.toNat % 32 = 0)) .align va
  s.readBlocks (flitPieces va n)

/-! ## Engagements (R35) -/

/-- A message that engages another cube: the sender's live launch waits for it to be settled. -/
def State.engage (s : State) (ctx cube : Nat) : State :=
  if cube = s.cubeNum then s
  else
    let k := s.ctx ctx
    match k.launch with
    | some l => s.setCtx ctx { k with launch := some { l with sent := l.sent ++ [⟨cube, false⟩] } }
    | none => s

/-- The lowest nonzero status (R35). -/
def lowStatus (a b : Nat) : Nat := if a = 0 then b else if b = 0 then a else min a b

/-- A failure of this cube's part of a context's launch (R35). -/
def State.noteStatus (s : State) (ctx status : Nat) : State :=
  let k := s.ctx ctx
  s.setCtx ctx { k with launch := k.launch.map fun l => { l with status := lowStatus l.status status } }

/-- A control packet of die management in class 4. -/
def State.controlPacket (s : State) (kind : PktKind) (ctx cube : Nat) (aux : BitVec 16) (payload : List Word) : Packet :=
  { s.packet kind dieManagement ctx cube dieManagement 0 4 0 payload 0 with aux := aux }

/-- An engagement acknowledgement to a cube, of n engaging messages: PLEN 0 where its status is 0 (R341), else word 0 of its payload is the status;
AUX [3:0] is the control code, AUX [15:4] is n - 1 (DESIGN CHOICE, log entry 18). -/
def State.ackEngagement (s : State) (ctx cube status n : Nat) : State :=
  if s.sendState cube dieManagement 4 = .unreach then s
  else (List.range ((n + 4095) / 4096)).foldl (fun (t : State) i =>
    t.post (t.controlPacket .engagementAck ctx cube (BitVec.ofNat 16 (2 + (min 4096 (n - 4096 * i) - 1) * 16))
      (if status % 256 = 0 then [] else flitWords [BitVec.ofNat 64 (status % 256)]))) s

/-- Every engaging message of these cubes is acknowledged (R35), one packet for each cube. -/
def State.ackEngagers (s : State) (ctx : Nat) (cubes : List Nat) (status : Nat) : State :=
  cubes.eraseDups.foldl (fun (t : State) c => t.ackEngagement ctx c status (cubes.count c)) s

/-- An engaging message that came while the cube was engaged has been handled (R35): the acknowledgement carries the cube's lowest nonzero status
so far. Of a cube whose engagement of this one is not acknowledged yet, that acknowledgement covers it too: of a spawn the packet's own
acknowledgement is all that the cube sends at once (R341; DESIGN CHOICE, log entry 18). -/
def State.ackLater (s : State) (ctx cube : Nat) : State :=
  let k := s.ctx ctx
  if k.engagers.contains cube then s.setCtx ctx { k with engagers := k.engagers ++ [cube] }
  else s.ackEngagement ctx cube (match k.launch with
    | some l => l.status
    | none => 0) 1

/-! ## SEND and SENDV (R149, R150) -/

def descCube (d : Nat) : Nat := bits d 19 0
def descUnit (d : Nat) : Nat := bits d 31 20
def descHcls (d : Nat) : Nat := bits d 37 32
/-- OC: 0 class 0; 1 class 2; 2 class 5; 3 class 1. -/
def descClass (d : Nat) : Nat := if bits d 39 38 = 0 then 0 else if bits d 39 38 = 1 then 2 else if bits d 39 38 = 2 then 5 else 1
def descPri (d : Nat) : Nat := bits d 41 40
def descPlen (d : Nat) : Nat := bits d 51 44

/-- A task core or a gateway core (R149, R295). -/
def isMessageUnit (u : Nat) : Bool := (coreOfUnit u).isSome || (decide (u / 512 % 2 = 1) && decide (8 ≤ u % 512) && decide (u % 512 < 12))

/-- R149: a descriptor that breaks no rule. -/
def descOk (d : Nat) (vector : Bool) : Bool :=
  decide (16 ≤ descHcls d) && isMessageUnit (descUnit d) && decide (descPlen d ≤ 128) && (vector || decide (descPlen d = 0)) && decide (bits d 63 52 = 0)

/-- R150: the reply address, translated and checked as a write; its global physical address. -/
def State.replyAddress (s : State) (r : Word) : Res (BitVec 60) :=
  if r = 0 then .ok 0
  else do
    let l ← s.check r 16 .write s.myTag false 0
    .ok (BitVec.ofNat 60 l.gpa)

/-- Send a user message whose payload has been read (R150); `conf`: it is data of a CONF page. -/
def State.sendMessage (s : State) (d : Nat) (reply : BitVec 60) (conf : Bool) (payload : List Word) : Res State :=
  let p := { s.myPacket .user (descCube d) (descUnit d) (descHcls d) (descClass d) (descPri d) payload with
    conf := conf || d.testBit 42, ply := if d.testBit 43 then s.me.ply else 0, reply := reply }
  match s.sendState p.dcube p.sunit p.ocls with
  | .unreach => .ok ((s.noteStatus s.myCtx 6).retire (s.me.status 1 32) 4)
  | .window => stall .window
  | .ready =>
    let s1 := s.post p
    .ok ((if p.engages then s1.engage s.myCtx p.dcube else s1).retire (s.me.raiseCtr .msgs) 4)

/-- SEND (R149, R150): one flit x[rb], x[rc], 0, 0. -/
def execSend (r a b c : Fin 32) (s : State) : Outcome State Fault Refusal :=
  finish s (do
    let d := s.me.readX a
    roomIn s.me.msgs
    need (descOk d.toNat false) .perm d
    let reply ← s.replyAddress (s.me.readX r)
    s.sendMessage d.toNat reply false [s.me.readX b, s.me.readX c, 0, 0])

/-- SENDV (R149, R150): PLEN flits from x[rb]. -/
def execSendv (r a b : Fin 32) (s : State) : Outcome State Fault Refusal :=
  finish s (do
    let d := s.me.readX a
    roomIn s.me.msgs
    need (descOk d.toNat true) .perm d
    let (s1, bs) ← beforeAccess (s.readFlits (s.me.readX b) (descPlen d.toNat)) (s.replyAddress (s.me.readX r))
    let reply ← s.replyAddress (s.me.readX r)
    s1.sendMessage d.toNat reply (s.confPieces (flitPieces (s.me.readX b) (descPlen d.toNat))) (leWords bs))

/-! ## MRET (R151) -/

/-- The cube and unit that deliver into a reply address (R151, R232): the core of a scratch address, else the answering
core's number on the cube that holds the DRAM address (DEDUCED, log entry 16). -/
def State.replyOwner (s : State) (core gpa : Nat) : Option (Nat × Nat) :=
  if 2 ^ 59 ≤ gpa then some (bits gpa 55 36, unitNumber (unitKey (bits gpa 35 28) 0))
  else (s.resolveDram gpa).map fun r => (r.1, unitNumber (unitKey core 0))

/-- A response of HCLS 5 in class 1 to a reply address (R151), sent by a core's strand 0. -/
def State.respond (s : State) (core ctx : Nat) (reply : BitVec 60) (pri : Nat) (conf : Bool) (status : Nat) (w0 w1 : Word) : State :=
  match s.replyOwner core reply.toNat with
  | some (cube, unit) =>
    s.post { s.packet .response (unitNumber (unitKey core 0)) ctx cube unit 5 1 pri [w0, w1, 0, 0] 0 with
      reply := reply, conf := conf, aux := BitVec.ofNat 16 status }
  | none => s

/-- Words 1 to 3 of a delay-table entry are sums in ns; word 0 is the sender and the count (R322). -/
def delayAdd (t : Tab (List Word)) (sender : Nat) (fresh : Bool) (sums : List Nat) : Tab (List Word) :=
  let key (e : Nat × List Word) : Bool := decide ((wordAt e.2 0).toNat % 2 ^ 32 = sender)
  let slot := match t.find? key with
    | some e => e.1
    | none => if firstFree 0 t < 63 then firstFree 0 t else 63
  let old := Tab.read [] t slot
  let w0 := if old = [] then BitVec.ofNat 64 (if slot = 63 then 0 else sender) else wordAt old 0
  Tab.write [] t slot ((if fresh then w0 + 0x100000000 else w0)
    :: (List.range 3).map fun i => wordAt old (i + 1) + BitVec.ofNat 64 (sums.getD i 0))

/-- A packet's sender as a delay entry names it (R322). -/
def Packet.sender (p : Packet) : Nat := p.scube % 2 ^ 20 + p.sunit % 2 ^ 12 * 2 ^ 20

/-- The handler ends: strand 0 is free, the message's inbox space with it, its run time is added, and what its message owes is paid (R35, R151,
R322). -/
def State.endHandler (s : State) : State :=
  let u := s.me
  let core := coreOf s.cur
  let k := s.core core
  let s1 := s.setMe { u with st := .idle, inMsg := none, hold := none, wait := none, awaits := [] }
  match u.inMsg with
  | some m =>
    let s2 := s1.setCore core { k with delay := delayAdd k.delay m.pkt.sender false [0, 0, (u.ranBefore + (s.cycle - u.handlerSince)) * 5 / 9] }
    if m.owes then s2.ackLater m.pkt.ctx m.pkt.scube else s2
  | none => s1

/-- MRET with an instruction length: UNDEF on a task strand; a nonzero ra field sends the response. -/
def State.mret (s : State) (a b : Fin 32) : Res State :=
  if !isMsgStrand s.cur then raise .undef 0
  else if a.val = 0 then .ok s.endHandler
  else if s.me.msgrpl = 0 then .ok (s.setMe (s.me.status 4 32)).endHandler
  else
    let pri := match s.me.inMsg with
      | some m => m.pkt.pri
      | none => 0
    let conf := match s.me.inMsg with
      | some m => m.pkt.conf
      | none => false
    .ok (s.respond (coreOf s.cur) s.myCtx s.me.msgrpl pri conf 0 (s.me.readX a) (s.me.readX b)).endHandler

/-- MRET (R151). -/
def execMret (a b : Fin 32) (s : State) : Outcome State Fault Refusal := finish s (s.mret a b)

/-! ## Hardware queues (R28, R152, R153) -/

/-- The context's live launch has claimed the queue (R28). -/
def Ctx.claims (k : Ctx) (q : Nat) : Bool := match k.launch with
  | some l => l.queues.getLsbD q
  | none => false

/-- Parked records of a kind on the cores of a context: core, slot, and when they parked. -/
def State.parked (s : State) (ctx : Nat) (p : Park → Bool) : List (Nat × Nat × Nat) :=
  s.cores.flatMap fun c => if s.inPartition ctx c.1 then c.2.slots.filterMap fun e => match e.2 with
    | some x => if p x.park then some (c.1, e.1, x.seq) else none
    | none => none else []

/-- The one that parked first. -/
def firstParked (l : List (Nat × Nat × Nat)) : Option (Nat × Nat) :=
  (l.foldl (fun (m : Option (Nat × Nat × Nat)) e => match m with
    | some b => if e.2.2 < b.2.2 then some e else some b
    | none => some e) none).map fun e => (e.1, e.2.1)

/-- A queue's capacity in items (R28, R313). -/
def HwQueue.capacity (q : HwQueue) : Nat := 2 ^ q.log2.toNat

/-- Offer an item to a queue of a context (R28, R153): the DEQ that parked first receives it, else it waits; false where the
queue is full. -/
def State.offerItem (s : State) (ctx q : Nat) (item : Line) : Bool × State :=
  match firstParked (s.parked ctx fun p => match p with
    | .queue q' _ => decide (q' = q)
    | _ => false) with
  | some (core, slot) =>
    let dest := match Tab.read none (s.core core).slots slot with
      | some e => (match e.park with
        | .queue _ d => d
        | _ => 0)
      | none => 0
    (true, (s.cubeWrite dest (lineBytes item)).wakeSlot core slot)
  | none =>
    let k := s.ctx ctx
    match Tab.read none k.queues q with
    | some h => if h.items.length < h.capacity then
        (true, s.setCtx ctx { k with queues := Tab.write none k.queues q (some { h with items := h.items ++ [item] }) })
      else (false, s)
    | none => (false, s)

/-- A refused item of a posted write or message is counted in the queue's overflow count (R28). -/
def State.overflowItem (s : State) (ctx q : Nat) : State :=
  let k := s.ctx ctx
  match Tab.read none k.queues q with
  | some h => s.setCtx ctx { k with queues := Tab.write none k.queues q (some { h with overflow := h.overflow + 1 }) }
  | none => s

/-- Take the oldest item (R28). -/
def State.takeItem (s : State) (ctx q : Nat) : Option (Line × State) :=
  let k := s.ctx ctx
  match Tab.read none k.queues q with
  | some h => match h.items with
    | i :: t => some (i, s.setCtx ctx { k with queues := Tab.write none k.queues q (some { h with items := t }) })
    | [] => none
  | none => none

/-- ENQ (R152, R153): reads the item and offers it; a queue on another cube answers later. -/
def execEnq (d a b : Fin 32) (s : State) : Outcome State Fault Refusal :=
  finish s (do
    let w := s.me.readX a
    let q := bits w.toNat 5 0
    let cube := bits w.toNat 27 8
    roomIn s.me.msgs
    need (decide (bits w.toNat 7 6 = 0) && decide (bits w.toNat 63 28 = 0)) .perm w
    need (decide (cube ≠ s.cubeNum) || (s.ctx s.myCtx).claims q) .perm w
    let (s1, bs) ← s.readBlock (s.me.readX b) 64 0
    if cube = s.cubeNum then
      s.plyretsDone
      let (ok, s2) := s1.offerItem s.myCtx q (ofLineBytes bs)
      let u := s2.me
      .ok (s2.retire ((if ok then u else u.status 3 32).setX d (boolWord ok)) 4)
    else
      let p := { s1.myPacket .builtin cube (unitNumber (unitKey (coreOf s.cur) 0)) 6 0 2 (flitWords (leWords bs ++ [BitVec.ofNat 64 q])) with
        conf := s.confPieces [(s.me.readX b, 64, 0)] }
      match s1.sendState cube p.sunit 0 with
      | .unreach => .ok (s1.retire ((s1.me.status 1 32).setX d 0) 4)
      | .window => stall .window
      | .ready =>
        let s2 := s1.post p
        let u := s2.me.raiseCtr .msgs
        .ok (s2.retire (if d.val = 0 then u else { u with awaits := u.awaits ++ [(d, s1.fresh)] }) 4))

/-- The destination of a DEQ (R152): 64-aligned, in this cube's scratch window. -/
def State.deqDest (s : State) (q : Nat) (w va : Word) : Res Loc := do
  need ((s.ctx s.myCtx).claims q) .perm w
  let l ← s.check va 64 .write 0 false 0
  need (l.scratch && s.isLocal l) .perm va
  .ok l

/-- DEQ (R152, R153): an item at once, or suspension at the queue; no free slot blocks (R19). -/
def execDeq (a b : Fin 32) (s : State) : Outcome State Fault Refusal :=
  finish s (do
    s.noHandler
    let q := bits (s.me.readX a).toNat 5 0
    let l ← s.deqDest q (s.me.readX a) (s.me.readX b)
    match s.takeItem s.myCtx q with
    | some (item, s1) =>
      let s2 ← s1.storeAt l (lineBytes item) 0
      .ok (s2.retire s2.me 4)
    | none => match s.allocSlot (coreOf s.cur) with
      | some slot => .ok (s.suspend slot (.queue q l.key) 4)
      | none => blockOn .poolQueue (s.me.readX a))

/-- DEQ.NB (R152): 1 with an item, 0 without. -/
def execDeqNb (d a b : Fin 32) (s : State) : Outcome State Fault Refusal :=
  finish s (do
    let q := bits (s.me.readX a).toNat 5 0
    let l ← s.deqDest q (s.me.readX a) (s.me.readX b)
    match s.takeItem s.myCtx q with
    | some (item, s1) =>
      let s2 ← s1.storeAt l (lineBytes item) 0
      .ok (s2.retire (s2.me.setX d 1) 4)
    | none => .ok (s.writeX d 0 4))

/-! ## ESEND (R152, R154) -/

/-- The units ESEND may name (R154, R295). -/
def isEngineUnit (u : Nat) : Bool :=
  if u / 512 % 2 = 0 then (decide (40 ≤ u % 64) && decide (u % 64 < 48)) || decide (u % 64 = 33)
  else
    let d := u % 512
    d = 0 || d = 1 || d = 2 || d = 4 || (decide (64 ≤ d) && decide (d < 128))

/-- A bank-engine controller or the reduction engine: neither writes a plied page (R272). -/
def isNearBank (u : Nat) : Bool := decide (u / 512 % 2 = 1) && (decide (u % 512 = 2) || decide (64 ≤ u % 512))

/-- The engine command as the engine receives it. -/
def State.engCmd (s : State) (addr : Word) : EngCmd :=
  { addr := addr, core := coreOf s.cur, party := s.cur, ctx := s.myCtx, gen := (s.ctx s.myCtx).gen, wid := s.me.wid, pts := s.me.pts }

/-- Hand a command to its unit (R154): a launch record to die management, a controller's or a reduction engine's inbox, or an
engine whose block format the spec does not give, which holds it until it would start. A launch record may go to die management of any die: R24 names
die 0's, R154 permits the others and says no more (DESIGN CHOICE, log entry 108). -/
def State.sendCommand (s : State) (unit : Nat) (addr : Word) : State :=
  let die := unit / 1024
  let d := unit % 512
  if unit / 512 % 2 = 1 ∧ 64 ≤ d then
    let k := s.bank (die * 64 + (d - 64))
    (s.setBank (die * 64 + (d - 64)) { k with inbox := k.inbox ++ [s.engCmd addr] }).retire (s.me.raiseCtr .copies) 4
  else if unit / 512 % 2 = 1 ∧ d = 2 then
    let k := s.die die
    (s.setDie die { k with redInbox := k.redInbox ++ [s.engCmd addr] }).retire (s.me.raiseCtr .copies) 4
  else if unit / 512 % 2 = 1 ∧ d = 4 then
    match s.submit s.myCtx addr s.me.wid with
    | (.refused, s1) => s1.retire s1.me.engineError 4
    | (_, s1) => s1.retire s1.me 4
  else (s.addOp (s.newOp (.engine unit addr) .copies)).retire (s.me.raiseCtr .copies) 4

/-- ESEND (R152, R154). -/
def execEsend (a b : Fin 32) (s : State) : Outcome State Fault Refusal :=
  finish s (do
    let w := s.me.readX a
    let unit := bits w.toNat 11 0
    roomIn s.me.copies
    need (decide (bits w.toNat 31 12 = s.cubeNum) && decide (bits w.toNat 63 32 = 0) && isEngineUnit unit) .perm w
    need (decide ((s.me.readX b).toNat % 64 = 0)) .align (s.me.readX b)
    need (!(s.me.recfree && isNearBank unit)) .sidefx (s.me.readX b)
    if unit / 512 % 2 = 1 ∧ unit % 512 = 4 ∧ s.submitHeld s.myCtx (s.me.readX b) then stall .operations
    .ok (s.sendCommand unit (s.me.readX b)))

end Sys2Proof.Machine
end

