-- ==== Sys2Proof/Machine/Skein.lean ====
section
/-! DEFINITION. Skeins: selectors and records (R161), routing tables and draws (R255 to R260), BOBENQ, BOBDEQ, RECDONE and
RECQRY (R162 to R166), workers (R261). -/

namespace Sys2Proof.Machine

open Sys2Proof Host

/-! ## Records and stages -/

/-- Word 1 of a skein record (R161). -/
def SkRec.word1 (r : SkRec) : Word :=
  BitVec.ofNat 64 (r.ply.toNat + r.done.toNat * 2 ^ 16 + r.visits.toNat * 2 ^ 32 + r.stage.toNat * 2 ^ 40)
/-- Word 2 (R161). -/
def SkRec.word2 (r : SkRec) : Word := BitVec.ofNat 64 (r.origCore.toNat + r.origCube.toNat * 2 ^ 8)

def Skein.nstg (k : Skein) : Nat := k.stages.length
def noStage : Stage := ⟨0, 0, 0, 0, [], none, [], false⟩
/-- A stage; number 16 is the exit bobbin. -/
def Skein.stage (k : Skein) (i : Nat) : Stage := if i = 16 then k.exit else k.stages.getD i noStage
def Skein.setStage (k : Skein) (i : Nat) (t : Stage) : Skein := if i = 16 then { k with exit := t } else { k with stages := k.stages.set i t }
def Skein.commuting (k : Skein) (i : Nat) : Bool := k.comm.getLsbD i

/-- The first stage of the ordered set that holds stage i (R255). -/
def Skein.setStart (k : Skein) : Nat → Nat
  | 0 => 0
  | i + 1 => if k.sstart.getLsbD (i + 1) then i + 1 else k.setStart i
/-- The first stage after the ordered set that holds stage i. -/
def Skein.setEnd (k : Skein) (i : Nat) : Nat :=
  ((List.range k.nstg).find? fun j => decide (i < j) && k.sstart.getLsbD j).getD k.nstg
/-- The stages of the set that holds stage i, ascending. -/
def Skein.setOf (k : Skein) (i : Nat) : List Nat := (List.range k.nstg).filter fun j => decide (k.setStart i ≤ j) && decide (j < k.setEnd i)

def Stage.full (t : Stage) : Bool := decide (t.depth ≤ t.bobbin.length)

/-- Put a record into a bobbin; above HIGH the watermark effects begin (R260). -/
def Stage.push (t : Stage) (r : SkRec) : Stage :=
  { t with bobbin := t.bobbin ++ [r], raised := t.raised || decide (t.high < t.bobbin.length + 1) }
/-- Take the oldest record; below LOW the watermark effects end (R260). -/
def Stage.pop (t : Stage) : Stage := { t with bobbin := t.bobbin.tail, raised := t.raised && decide (t.low ≤ t.bobbin.length - 1) }

/-- The router delivers nothing to this stage's workers: the following set or the exit bobbin is over its watermark, or the
stage's hold slot is occupied (R257, R260). -/
def Skein.blocked (k : Skein) (i : Nat) : Bool :=
  (k.stage i).hold.isSome
    || (if k.setEnd i < k.nstg then (k.setOf (k.setEnd i)).any fun j => (k.stage j).raised else k.exit.raised)

/-! ## Draws (R259) -/

/-- The Galois LFSR's step. -/
def lfsrStep (x : BitVec 32) : BitVec 32 := if x.getLsbD 0 then (x >>> 1) ^^^ 0x80200003 else x >>> 1

/-- A stage's ticket count. -/
def Stage.tickets (t : Stage) : Nat :=
  let n := t.window.length
  let p := (t.window.filter (·.1)).length
  let c := (t.window.map (·.2)).sum
  let base := ((256 - p + 1) * 65536) / (c / max n 1 + 1)
  base * (t.depth - t.bobbin.length + 1) / t.depth

/-- The candidate that a number below the ticket sum falls on. -/
def pickTicket (k : Skein) : List Nat → Nat → Option Nat
  | [], _ => none
  | i :: t, r => if r < (k.stage i).tickets then some i else pickTicket k t (r - (k.stage i).tickets)

/-- A draw among candidates in ascending order: the chosen one, and the skein with its LFSR stepped; FIXED takes the lowest
and steps nothing. -/
def Skein.draw (k : Skein) (cs : List Nat) : Nat × Skein :=
  let lowest := cs.headD 0
  if k.fixed then (lowest, k)
  else
    let l := lfsrStep k.lfsr
    let total := (cs.map fun i => (k.stage i).tickets).sum
    let k' := { k with lfsr := l }
    if total = 0 then (lowest, k') else ((pickTicket k cs (l.toNat % total)).getD lowest, k')

/-- Where a record goes: a list of candidate stages of one set, by draw in a commuting set; 16 is the exit bobbin. None where
every candidate is full (R257). -/
def Skein.place (k : Skein) (cs : List Nat) : Option (Nat × Skein) :=
  let open_ := cs.filter fun i => !(k.stage i).full
  match open_ with
  | [] => none
  | i :: _ => if decide (i = 16) || !k.commuting i then some (i, k) else some (k.draw open_)

/-- The candidates after a pass from stage i (R257). -/
def Skein.candidates (k : Skein) (i : Nat) (done : BitVec 16) : List Nat :=
  let left := if k.commuting i then (k.setOf i).filter fun j => !done.getLsbD j else []
  if left ≠ [] then left
  else if k.setEnd i < k.nstg then k.setOf (k.setEnd i) else [16]

/-- Put a record into the bobbin of a stage; its current stage is that one. -/
def Skein.insert (k : Skein) (i : Nat) (r : SkRec) : Skein :=
  k.setStage i ((k.stage i).push (if i = 16 then r else { r with stage := BitVec.ofNat 4 i }))

/-- Held records leave their hold slots as soon as there is room (R257), before any other record takes it. -/
def Skein.flush (k : Skein) : Skein :=
  (List.range k.nstg).foldl (fun (q : Skein) i => match (q.stage i).hold with
    | some r => match q.place (q.candidates i r.done) with
      | some (j, q1) => (q1.setStage i { q1.stage i with hold := none }).insert j r
      | none => q
    | none => q) k

/-! ## Selectors -/

def selSid (w : Word) : Nat := bits w.toNat 23 0
def selStage (w : Word) : Nat := bits w.toNat 27 24
def selExit (w : Word) : Bool := w.getLsbD 28

def State.skein (s : State) (ctx sid : Nat) : Option Skein := Tab.read none (s.ctx ctx).skeins sid
def State.setSkein (s : State) (ctx sid : Nat) (k : Skein) : State :=
  let c := s.ctx ctx
  s.setCtx ctx { c with skeins := Tab.write none c.skeins sid (some k) }

/-- R161: the skein a selector names, else PERM with ADDR the operand word. -/
def State.selectorIn (s : State) (sel w : Word) : Res Skein :=
  match s.skein s.myCtx (selSid sel) with
  | some k => if bits sel.toNat 63 29 = 0 ∧ selStage sel < k.nstg then .ok k else raise .perm w
  | none => raise .perm w
def State.selector (s : State) (w : Word) : Res Skein := s.selectorIn w w

/-! ## Discarding a ply (R163, R258) -/

/-- As PLYRET.D would: a live tag becomes retiring and its cells are freed on their own. -/
def State.discardPly (s : State) (ctx : Nat) (tag : BitVec 16) : State :=
  if tag = 0 ∨ !s.tagLive ctx tag then s
  else
    let s1 := s.setCtx ctx ((s.ctx ctx).retireTag tag)
    s1.addOp { s1.newOp (.plyret tag.toNat false) .none with ctx := ctx, wid := 0 }

/-! ## BOBENQ and BOBDEQ (R162) -/

/-- BOBENQ (R162): accepted into the first ordered set, or refused when every stage of it is full. -/
def execBobenq (d a b c : Fin 32) (s : State) : Outcome State Fault Refusal :=
  finish s (do
    let w := s.me.readX a
    roomIn s.me.msgs
    let k ← s.selector w
    need (decide (selStage w = 0) && !selExit w) .perm w
    let tag : BitVec 16 := (s.me.readX c).setWidth 16
    need (s.tagLive s.myCtx tag) .perm (s.me.readX c)
    s.plyretsDone
    let r : SkRec := ⟨s.me.readX b, tag, 0, 0, 0, BitVec.ofNat 8 (coreOf s.cur), BitVec.ofNat 20 s.cubeNum⟩
    match k.flush.place (k.setOf 0) with
    | some (i, k') => .ok ((s.setSkein s.myCtx k.sid (k'.insert i r)).writeX d 1 4)
    | none => .ok (s.retire ((s.me.status 3 34).setX d 0) 4))

/-- A record as the worker receives it: one visit more (R162). -/
def SkRec.visited (r : SkRec) : SkRec := { r with visits := if r.visits = 255 then 255 else r.visits + 1 }

/-- The stage a BOBDEQ is served from (R261): the worker's assigned one, or the one it names; 16 for the exit bobbin. -/
def Strand.bobbinFor (u : Strand) (w : Word) : Nat :=
  if selExit w then 16
  else match u.worker with
    | some k => if k.sid = selSid w then k.stage else selStage w
    | none => selStage w

/-- Whether a bobbin gives a record to a worker now. -/
def Skein.ready (k : Skein) (i : Nat) : Bool := !(k.stage i).bobbin.isEmpty && (decide (i = 16) || !k.blocked i)

/-- The strand takes a record from stage i at issue (R162, R263). -/
def State.takeRecord (s : State) (k : Skein) (i : Nat) (r : SkRec) : State :=
  let r := r.visited
  let s1 := s.setSkein s.myCtx k.sid (k.setStage i (k.stage i).pop)
  let u := (s1.me.setX 10 r.payload).setX 11 r.word1
  if i = 16 then s1.retire { u with ply := r.ply, worker := none } 4
  else
    let u' := { u with ply := r.ply, held := some r, recfree := k.commuting i, heldSid := k.sid, heldSince := s.cycle, worker := some ⟨k.sid, i⟩ }
    if (k.stage i).entry = 0 then s1.retire u' 4 else s1.retireTo u' (k.stage i).entry

/-- BOBDEQ (R162, R261): a record at once, or suspension at the bobbin; UNDEF while a record is held. -/
def execBobdeq (a : Fin 32) (s : State) : Outcome State Fault Refusal :=
  finish s (do
    let w := s.me.readX a
    need (s.me.held.isNone || isMsgStrand s.cur) .undef 0
    s.noHandler
    let k ← s.selector w
    let i := s.me.bobbinFor w
    match (if k.ready i then (k.stage i).bobbin.head? else none) with
    | some r => .ok (s.takeRecord k i r)
    | none => match s.allocSlot (coreOf s.cur) with
      | some slot =>
        let s1 := s.setMe { s.me with worker := if i = 16 then none else some ⟨k.sid, i⟩ }
        .ok (s1.suspend slot (.bobbin k.sid i) 4)
      | none => blockOn .poolBobbin w)

/-! ## RECDONE (R163) -/

/-- Hand a held record to its router: passed or rejected (R163, R258). -/
def State.release (s : State) (ctx : Nat) (u : Strand) (pass : Bool) : State :=
  match u.held, s.skein ctx u.heldSid with
  | some r, some k =>
    let s1 := s.setSkein ctx u.heldSid { k with releases := k.releases ++ [⟨r, pass, u.heldSince, u.wid, s.fresh, none⟩] }
    { s1 with fresh := s1.fresh + 1 }
  | _, _ => s

/-- Workers of a skein on a core's strands and parked in its pool: how many are assigned to stage i (R261). -/
def State.workersOf (s : State) (ctx sid i : Nat) : Nat :=
  let at_ (w : Option Worker) : Bool := decide (w = some ⟨sid, i⟩)
  (s.units.filter fun e => decide (s.ctxOf e.1 = ctx) && at_ e.2.worker).length
    + (s.cores.filter fun c => s.inPartition ctx c.1).foldl (fun n c => n
        + (c.2.slots.filter fun e => match e.2 with
            | some x => at_ x.worker
            | none => false).length
        + (c.2.spills.filter fun e => match e.2 with
            | some x => at_ x.worker
            | none => false).length) 0

/-- R262 step 6: a worker that has released its record moves when its stage is over its allotment. -/
def State.moveWorker (s : State) (ctx : Nat) (w : Worker) : Worker :=
  match s.skein ctx w.sid with
  | some k =>
    if k.allot = [] ∨ s.workersOf ctx w.sid w.stage ≤ k.allot.getD w.stage 0 then w
    else match (List.range k.nstg).find? fun j => decide (s.workersOf ctx w.sid j < k.allot.getD j 0) with
      | some j => ⟨w.sid, j⟩
      | none => w
  | none => w

/-- A packet of the work was sent before a release and is not yet performed. -/
def Packet.before (p : Packet) (here wid ord : Nat) : Bool := decide (p.scube = here) && decide (p.wid = wid) && decide (p.ord < ord)

/-- An earlier store, atomic, PLYRET or message of the releasing work has not been performed (R163). -/
def State.releaseWaits (s : State) (r : Release) : Bool :=
  let b (p : Packet) : Bool := p.before s.cubeNum r.wid r.ord
  s.ops.any (fun o => decide (o.wid = r.wid) && decide (o.ord < r.ord) && (match o.kind with
      | .store => true
      | .plyret _ _ => true
      | _ => decide (o.ctr = .msgs)))
    || s.inner.any b || s.net.any b || s.outbox.any b
    || s.srcKeys.any (fun e => match e.2 with
        | some k => k.unacked.any fun u => b u.pkt
        | none => false)
    || s.cores.any (fun c => c.2.spawns.any b || c.2.inbox.any fun e => e.2.any fun m => decide (m.pkt.kind = .builtin) && b m.pkt)

/-- RECDONE: the strand's side at once, the release to the router (R163). One that has waited for its stage's hold slot goes on once the router can
take the record (R257). -/
def State.recdone (s : State) (pass : Bool) : Res State :=
  match s.me.held with
  | none => raise .undef 0
  | some r =>
    if isMsgStrand s.cur then raise .undef 0
    else
      let slotFree := match s.skein s.myCtx s.me.heldSid with
        | some k => (k.stage r.stage.toNat).hold.isNone
        | none => true
      if pass && (!slotFree || (s.me.hold.isSome && s.releaseWaits ⟨r, pass, 0, s.me.wid, s.fresh, none⟩)) then stall .operations
      else
        let s1 := s.release s.myCtx s.me pass
        let u := s1.me
        .ok (s1.retire { u with recfree := false, held := none, ply := 0, worker := u.worker.map (s.moveWorker s.myCtx) } 4)

/-- RECDONE.P (R163). -/
def execRecdoneP (s : State) : Outcome State Fault Refusal := finish s (s.recdone true)

/-- RECDONE.J (R163). -/
def execRecdoneJ (s : State) : Outcome State Fault Refusal := finish s (s.recdone false)

/-- RECQRY (R165): the held record, or a bobbin. -/
def execRecqry (d a : Fin 32) (s : State) : Outcome State Fault Refusal :=
  finish s (do
    let w := s.me.readX a
    if w.getLsbD 63 then
      let k ← s.selectorIn (w &&& 0x1FFFFFFF) w
      let t := k.stage (if selExit w then 16 else selStage w)
      .ok (s.writeX d (BitVec.ofNat 64 (t.bobbin.length % 2 ^ 16 + t.depth % 2 ^ 16 * 2 ^ 16 + t.high % 2 ^ 16 * 2 ^ 32 + t.low % 2 ^ 16 * 2 ^ 48)) 4)
    else .ok (s.writeX d (match s.me.held with
      | some r => r.word1
      | none => 0) 4))

end Sys2Proof.Machine
end

