-- ==== Sys2Proof/Machine/Save.lean ====
section
/-! DEFINITION. The image of a strand's state in memory: the spill slot of R20 and the save record of R270, which share one
layout; writing it, and reading it back. -/

namespace Sys2Proof.Machine

open Sys2Proof Host

/-- A skein record's eight words (R161). -/
def SkRec.words (r : SkRec) : List Word := [r.payload, r.word1, r.word2, 0, 0, 0, 0, 0]

/-- A skein record from its words (R161). -/
def skRecOf (ws : List Word) : SkRec :=
  let w1 := wordAt ws 1
  let w2 := wordAt ws 2
  { payload := wordAt ws 0, ply := w1.setWidth 16, done := (w1 >>> 16).setWidth 16, visits := (w1 >>> 32).setWidth 8,
    stage := (w1 >>> 40).setWidth 4, origCore := w2.setWidth 8, origCube := (w2 >>> 8).setWidth 20 }

/-- The words of a 512-bit register, lowest first. -/
def lineWords (v : Line) : List Word := (List.range 8).map fun i => (v >>> (64 * i)).setWidth 64

/-- The five counters (R20). -/
def Strand.counterWords (u : Strand) : List Word :=
  [u.loads, u.stores, u.copies, u.tiles, u.msgs].map (BitVec.ofNat 64)

/-- The m0 slot (R20): VL, FPCTL mode, FPFLG, RNGST. -/
def Strand.m0Slot (u : Strand) : Word :=
  BitVec.ofNat 64 (u.vl.toNat + u.fpctl.toNat * 2 ^ 8 + u.fpflg.toNat * 2 ^ 11 + u.rngst.toNat * 2 ^ 32)

/-- The wait descriptor (R20): the kind's code, the address in 16-byte units; a halt's is that of the wait it has withdrawn (R270). -/
def Strand.waitWord (u : Strand) : Word := match u.wait.or u.haltWait with
  | some w => BitVec.ofNat 64 (w.addr.toNat / 16 * 16 + (Config.waitCode w.kind).toNat)
  | none => 0

/-- The states as a save record codes them (R270). -/
def RunState.code : RunState → Nat
  | .idle => 0
  | .run => 1
  | .blocked => 2
  | .stopped => 3
  | .reserved => 4

/-- The registers, words 0 to 391 (R20): x with PC in the x0 slot, f, v, m with the packed m0 slot, tm. -/
def Strand.registerWords (u : Strand) : List Word :=
  (u.pc :: (List.range 31).map fun i => Tab.read 0 u.x (i + 1)) ++ (List.range 32).map (Tab.read 0 u.f)
    ++ (List.range 32).flatMap (fun i => lineWords (Tab.read 0 u.v i)) ++ (u.m0Slot :: (List.range 7).map fun i => Tab.read 0 u.m (i + 1))
    ++ (List.range 16).flatMap (fun i => (lineWords ((Tab.read 0 u.tm i).setWidth 512)).take 4)

/-- Word 1 of the running record with PLYTAG replaced by PLY (R20). -/
def Strand.liveWord1 (u : Strand) : Word := (u.word1 >>> 16 <<< 16) ||| u.ply.setWidth 64

/-- [16] record held, [17] RECFREE (R20). -/
def Strand.heldBits (u : Strand) : Nat := (if u.held.isSome then 2 ^ 16 else 0) + (if u.recfree then 2 ^ 17 else 0)

def Strand.heldWords (u : Strand) : List Word := match u.held with
  | some r => r.words
  | none => List.replicate 8 0

/-- The image of a strand at a spill (R20). -/
def Strand.spillWords (u : Strand) : List Word :=
  u.registerWords ++ u.counterWords ++ [u.liveWord1, u.waitWord, BitVec.ofNat 64 u.heldBits, 0, u.plyq.setWidth 64]
    ++ (List.range 8).map (Tab.read 0 u.lvl) ++ u.heldWords ++ List.replicate 94 0

/-- A strand's save record (R270): `budget` is the handler budget that is left, `msg` whether it is strand 0. -/
def Strand.saveWords (u : Strand) (budget : Nat) (msg : Bool) : List Word :=
  u.registerWords ++ u.counterWords
    ++ [u.liveWord1, if u.st = .blocked then u.waitWord else 0,
        BitVec.ofNat 64 (u.st.code + (match u.event with
          | some e => if u.st = .stopped then e.code.num * 2 ^ 8 else 0
          | none => 0) + u.heldBits + (if msg then budget % 2 ^ 32 * 2 ^ 32 else 0)),
        u.mstat, u.plyq.setWidth 64]
    ++ (List.range 8).map (Tab.read 0 u.lvl) ++ u.heldWords
    ++ (if msg then [u.msgcls.setWidth 64, u.msgsrc.setWidth 64, u.msgts.setWidth 64, u.msgrpl.setWidth 64] else [0, 0, 0, 0])
    ++ List.replicate 90 0

/-- A table of n registers from consecutive words, from register `k`. -/
def tabOfWords (k : Nat) (ws : List Word) : Tab Word :=
  (ws.mapIdx fun i w => (i + k, w)).filter fun e => e.2 != 0

/-- A table of registers of `w` words each. -/
def wideTab (n w width : Nat) (ws : List Word) : Tab (BitVec width) :=
  (List.range n).filterMap fun i =>
    let v := BitVec.ofNat width (leVal (bytesOfWords ((ws.drop (i * w)).take w)))
    if v = 0 then none else some (i, v)

/-- The registers of an image loaded into a strand; RNGST is not (R20). -/
def Strand.loadRegisters (u : Strand) (ws : List Word) : Strand :=
  let m0 := (wordAt ws 320).toNat
  { u with
    pc := wordAt ws 0
    x := tabOfWords 1 ((ws.drop 1).take 31)
    f := tabOfWords 0 ((ws.drop 32).take 32)
    v := wideTab 32 8 512 (ws.drop 64)
    m := tabOfWords 1 ((ws.drop 321).take 7)
    tm := wideTab 16 4 256 (ws.drop 328)
    vl := BitVec.ofNat 7 (bits m0 6 0)
    fpctl := BitVec.ofNat 3 (bits m0 10 8)
    fpflg := BitVec.ofNat 5 (bits m0 15 11)
    loads := (wordAt ws 392).toNat
    stores := (wordAt ws 393).toNat
    copies := (wordAt ws 394).toNat
    tiles := (wordAt ws 395).toNat
    msgs := (wordAt ws 396).toNat
    word1 := wordAt ws 397
    ply := (wordAt ws 397).setWidth 16
    recfree := (wordAt ws 399).getLsbD 17
    plyq := (wordAt ws 401).setWidth 3
    held := if (wordAt ws 399).getLsbD 16 then some (skRecOf ((ws.drop 410).take 8)) else none }

/-- A state code of a save record (R270). -/
def runStateOf (n : Nat) : RunState := if n = 1 then .run else if n = 2 then .blocked else if n = 3 then .stopped else if n = 4 then .reserved else .idle

/-- A save record loaded into a strand (R270): also RNGST, MSTAT, LVL, the message registers and the state. -/
def Strand.loadSave (u : Strand) (ws : List Word) : Strand :=
  let s0 := (wordAt ws 399).toNat
  let ms := wordAt ws 400
  { u.loadRegisters ws with
    rngst := (wordAt ws 320 >>> 32).setWidth 32
    st := runStateOf (bits s0 2 0)
    last := ms.setWidth 8
    major := (ms >>> 8).setWidth 6
    err := ms.getLsbD 16
    engerr := ms.getLsbD 17
    lvl := tabOfWords 0 ((ws.drop 402).take 8)
    msgcls := (wordAt ws 418).setWidth 6
    msgsrc := (wordAt ws 419).setWidth 32
    msgts := (wordAt ws 420).setWidth 32
    msgrpl := (wordAt ws 421).setWidth 60 }

/-- Words at a local address. -/
def State.wordsAt (s : State) (key n : Nat) : List Word := leWords (s.bytes key (8 * n))

/-- Copy n bytes of base memory, the entries that are listed (an unlisted byte is zero). -/
def copyMem (m : List Host.Cell) (src dst n : Nat) : List Host.Cell :=
  let moved := (m.filter fun e => decide (src ≤ e.1) && decide (e.1 < src + n)).map fun e => (e.1 - src + dst, e.2)
  moved.foldl (fun t e => Tab.write (0 : Byte) t e.1 e.2) (m.filter fun e => !(decide (dst ≤ e.1) && decide (e.1 < dst + n)))

/-- n bytes zero. -/
def clearMem (m : List Host.Cell) (dst n : Nat) : List Host.Cell := m.filter fun e => !(decide (dst ≤ e.1) && decide (e.1 < dst + n))

/-! ## Withdrawing a blocked instruction's request (R20, R133, R139) -/

/-- The 1 that a withdrawn WLK added to WWAIT is subtracted in a separate atomic access (R133), unless the tag it went by is retired (R141). -/
def State.withdrawWaiter (s : State) (key : Nat) : State :=
  let u := s.unit key
  let s0 := s.setUnit key { u with wwait := none }
  match u.wwait with
  | none => s0
  | some (cube, addr, tag) =>
    if cube = s.cubeNum then
      let l : Loc := ⟨cube, addr, addr, decide (tag ≠ 0), false, isScratchKey addr, 0, 0⟩
      let w := leVal (s0.view (s0.ctxOf key) l 8 tag)
      if bits w 61 32 = 0 || !s0.tagLive (s0.ctxOf key) tag then s0
      else match s0.put (s0.ctxOf key) l (leBytes 8 (w - 2 ^ 32)) tag with
        | some s1 => (s1.stampWrite (s0.makesCell (s0.ctxOf key) l tag) u.pts (s1.ctxOf key) l tag).2
        | none => s0
    else
      let p := s0.packet .builtin (unitNumber key) (s0.ctxOf key) cube (unitNumber (unitKey (if 2 ^ 59 ≤ addr then bits addr 35 28 else coreOf key) 0))
        2 0 2 [BitVec.ofNat 64 addr, 0, 0, 0] 0
      if s0.sendState cube p.sunit 0 = .unreach then s0 else s0.post { p with aux := accessAux 8 withdrawCode }

/-- The request of a blocked strand is withdrawn: the lease request, the place in the PLYNEW queue, the WWAIT of a WLK. -/
def State.withdraw (s : State) (key : Nat) : State :=
  let s1 := s.withdrawWaiter key
  let u := s1.unit key
  let s2 := s1.setUnit key { u with wait := none }
  let k := s2.cluster (clusterOf key)
  let others := (List.range 10).any fun j => match (s2.unit (unitKey (coreOf key) j)).wait with
    | some w => decide (w.kind = .lease) || decide (w.kind = .tileLease)
    | none => false
  match u.wait with
  | some w => if (decide (w.kind = .lease) || decide (w.kind = .tileLease)) && !others then
      s2.setCluster (clusterOf key) { k with waiting := k.waiting.filter fun x => x != coreOf key % 8 } else s2
  | none => s2

end Sys2Proof.Machine
end

