-- ==== Sys2Proof/Machine/PacketBits.lean ====
section
/-! DEFINITION. Packets as bits (R293, R294): header, envelope and payload, and back; the CRC of a flit (R291). The three control
codes and the place of an acknowledgement's status are the model's own (DESIGN CHOICE, log entry 18). -/

namespace Sys2Proof.Machine

open Sys2Proof

/-- TYPE of a packet (R294). -/
def PktKind.type : PktKind → Nat
  | .user => 1
  | .builtin => 2
  | .response => 3
  | .ack => 4
  | .engineData => 5
  | .reduce => 6
  | .multicast => 7
  | .launchStart => 8
  | .engagementAck => 8
  | .resync => 8
  | .drain => 9
  | .management => 10

/-- Control codes in AUX of TYPE 0x08 (DESIGN CHOICE, log entry 18). -/
def PktKind.control : PktKind → Nat
  | .launchStart => 1
  | .engagementAck => 2
  | .resync => 3
  | _ => 0

/-- The kind of a packet by TYPE and AUX; none for a reserved TYPE. -/
def kindOf (type aux : Nat) : Option PktKind :=
  match type with
  | 1 => some .user
  | 2 => some .builtin
  | 3 => some .response
  | 4 => some .ack
  | 5 => some .engineData
  | 6 => some .reduce
  | 7 => some .multicast
  | 8 => if aux % 16 = 1 then some .launchStart else if aux % 16 = 2 then some .engagementAck else if aux % 16 = 3 then some .resync else none
  | 9 => some .drain
  | 10 => some .management
  | _ => none

/-- Payload flits (R293). -/
def Packet.plen (p : Packet) : Nat := (p.payload.length + 3) / 4

/-- The header as a 128-bit value (R293). -/
def Packet.header (p : Packet) : Nat :=
  p.aux.toNat + p.kind.type * 2 ^ 16 + (if p.mcast then 2 ^ 23 else 0) + (if p.conf then 2 ^ 24 else 0) + p.pri % 4 * 2 ^ 25 + p.ctx % 16 * 2 ^ 27
    + p.seq % 2 ^ 16 * 2 ^ 31 + p.plen % 256 * 2 ^ 47 + p.ocls % 8 * 2 ^ 55 + p.hcls % 64 * 2 ^ 58 + p.sunit % 2 ^ 12 * 2 ^ 64
    + p.scube % 2 ^ 20 * 2 ^ 76 + p.dunit % 2 ^ 12 * 2 ^ 96 + p.dcube % 2 ^ 20 * 2 ^ 108

/-- The envelope as a 128-bit value (R293). -/
def Packet.envelope (p : Packet) : Nat :=
  p.tspec.toNat + p.gen.toNat * 2 ^ 12 + p.ply.toNat * 2 ^ 20 + p.reply.toNat * 2 ^ 36 + p.ts.toNat * 2 ^ 96

/-- The packet's bytes: head flit, then the payload flits. -/
def Packet.bytes (p : Packet) : List Byte := leBytes 16 p.header ++ leBytes 16 p.envelope ++ bytesOfWords (flitWords p.payload)

/-- A packet from its header, envelope and payload words; none for a reserved TYPE. -/
def packetOf (h e : Nat) (payload : List Word) : Option Packet :=
  (kindOf (bits h 22 16) (bits h 15 0)).map fun k =>
    { kind := k, dcube := bits h 127 108, dunit := bits h 107 96, scube := bits h 95 76, sunit := bits h 75 64, hcls := bits h 63 58,
      ocls := bits h 57 55, seq := bits h 46 31, ctx := bits h 30 27, pri := bits h 26 25, conf := h.testBit 24, mcast := h.testBit 23,
      aux := BitVec.ofNat 16 h, ts := BitVec.ofNat 32 (bits e 127 96), reply := BitVec.ofNat 60 (bits e 95 36),
      ply := BitVec.ofNat 16 (bits e 35 20), gen := BitVec.ofNat 8 (bits e 19 12), tspec := BitVec.ofNat 12 e, payload := payload,
      wid := 0, ord := 0, req := 0 }

/-! ## CRC-32, generator 0x04C1_1DB7 (R291) -/

/-- One bit of the remainder: the message's bits enter from the top. -/
def crcBit (c : BitVec 32) (b : Bool) : BitVec 32 := if c.getLsbD 31 != b then (c <<< 1) ^^^ 0x04C11DB7 else c <<< 1

/-- A byte, bit 7 first. -/
def crcByte (c : BitVec 32) (b : Byte) : BitVec 32 :=
  [7, 6, 5, 4, 3, 2, 1, 0].foldl (fun (r : BitVec 32) i => crcBit r (b.getLsbD i)) c

/-- Over a list of bytes; the spec gives the generator alone: initial value and final complement are zero (DESIGN CHOICE, log entry 19). -/
def crc32 (bs : List Byte) : BitVec 32 := bs.foldl crcByte 0

/-- Side-band bits [15:0] (R291). -/
def Flit.band (f : Flit) : Nat := f.lsn.toNat + (if f.epoch then 2 ^ 12 else 0) + (if f.head then 2 ^ 13 else 0)

/-- The CRC a flit must carry (R291). -/
def Flit.crcOf (f : Flit) : BitVec 32 := crc32 (leBytes 32 f.data.toNat ++ leBytes 2 f.band)

end Sys2Proof.Machine
end

