-- ==== Sys2Proof/Machine/Lease.lean ====
section
/-! DEFINITION. The lease of a cluster's matrix array (R190, R191, R264, R265): LEASE, LEASE.T, LREL, and the gate through
which every tile command passes. -/

namespace Sys2Proof.Machine

open Sys2Proof Host

/-- A core's number within its cluster. -/
def inCluster (core : Nat) : Nat := core % 8

/-- Both limits of a lease (R191). -/
def leaseCommands : Nat := 64
def leaseCycles : Nat := 16384

/-- The lease is given to core `c` of the cluster; `kept` where the holder keeps it for a further grant (R264, R265). -/
def Cluster.grant (k : Cluster) (c now : Nat) (kept : Bool) : Cluster :=
  { k with holder := some c, waiting := k.waiting.filter fun x => x != c, cmds := 0, leaseSince := now,
           grants := if kept then k.grants + 1 else 1, lastHolder := some c }

/-- A core's place in the rotation after a last holder (R265). -/
def rotation (last : Option Nat) (c : Nat) : Nat := match last with
  | some h => (c + 7 - h) % 8
  | none => c

/-- Of several requests in one cc, a free lease goes to the first in rotation (R264): a request that would have come before that of the core which was
granted it in this cc is none of them, and issues in a later cc. -/
def Cluster.tooLate (k : Cluster) (c now : Nat) : Bool := match k.granted, k.holder with
  | some (t, last), some h => decide (t = now) && decide (h ≠ c) && decide (rotation last c < rotation last h)
  | _, _ => false

/-- The first waiting core in rotation (R265). -/
def Cluster.next (k : Cluster) : Option Nat :=
  ((List.range 8).map fun i => match k.lastHolder with
    | some h => (h + 1 + i) % 8
    | none => i).find? k.waiting.contains

/-- The lease passes: to the next waiting core, or it is free (R264). -/
def Cluster.passOn (k : Cluster) (now : Nat) : Cluster :=
  match k.next with
  | some c => k.grant c now false
  | none => { k with holder := none }

/-- A core requests the lease (R264): granted at once where it is free, else the core waits. -/
def Cluster.request (k : Cluster) (c now : Nat) : Cluster :=
  match k.holder with
  | none => if k.waiting = [] then { k.grant c now false with granted := some (now, k.lastHolder) } else { k with waiting := k.waiting.filter (fun x => x != c) ++ [c] }.passOn now
  | some h => if h = c then k else { k with waiting := k.waiting.filter (fun x => x != c) ++ [c] }

/-- A limit of the lease is reached while another core waits (R191). -/
def Cluster.spent (k : Cluster) (now : Nat) : Bool :=
  (decide (leaseCommands ≤ k.cmds) || decide (leaseCycles ≤ now - k.leaseSince)) && k.waiting != []

/-- A core's lease share (R265, R313). -/
def leaseShare (ctx : Ctx) (core : Nat) : Nat := min (Tab.read 0 ctx.lshare core).toNat 7 + 1

/-- The executing unit's cluster. -/
def State.myCluster (s : State) : Cluster := s.cluster (clusterOf s.cur)
def State.setMyCluster (s : State) (k : Cluster) : State := s.setCluster (clusterOf s.cur) k
def State.myIndex (s : State) : Nat := inCluster (coreOf s.cur)
def State.holdsLease (s : State) : Bool := decide (s.myCluster.holder = some s.myIndex)

/-- HBLOCK of a tile command in a handler whose core does not hold the lease (R31, R191). -/
def State.tileHandler (s : State) : Res Unit := need (!(isMsgStrand s.cur && !s.holdsLease)) .hblock 0

/-- The cluster after a tile command of core `c` has asked to issue (R191, R264, R265); strand 0 never makes the lease pass. -/
def Cluster.tileRequest (k : Cluster) (c now share : Nat) (handler : Bool) : Cluster :=
  if k.holder = some c then
    if !handler && k.spent now then
      if k.grants < share then k.grant c now true else (k.passOn now).request c now
    else k
  else k.request c now

/-- A tile command at the gate: under the lease it issues and is counted in CMDS; while it waits at issue for tile states (R196) the grant that it has
asked for stands (R264, R265). Without the lease the core's request stands and the strand blocks residently (a spindle core waits at issue). -/
def State.tileGate (s : State) (issue : State → Res State) : Res State :=
  let c := s.myIndex
  if s.myCluster.tooLate c s.cycle then stall .tile
  else
  let k := s.myCluster.tileRequest c s.cycle (leaseShare (s.ctx s.myCtx) (coreOf s.cur)) (isMsgStrand s.cur)
  if k.holder = some c then
    match issue (s.setMyCluster k) with
    | .ok t => .ok (t.setMyCluster { t.myCluster with cmds := min leaseCommands (t.myCluster.cmds + 1) })
    | .error (.hold kind until_) => .error (.await ((s.setMyCluster k).holdAt kind until_))
    | .error e => .error e
  else
    let s1 := s.setMyCluster k
    .ok (if isSpindle s.cur then s1.waitLease else s1.blockAt .tileLease 0)

/-- LEASE (R190): goes on under the lease, else requests it and blocks. -/
def execLease (s : State) : Outcome State Fault Refusal :=
  finish s (do
    s.noHandler
    if s.myCluster.tooLate s.myIndex s.cycle then stall .operations
    let k := s.myCluster.request s.myIndex s.cycle
    let s1 := s.setMyCluster k
    .ok (if k.holder = some s.myIndex then s1.retire s1.me 4 else s1.blockAt .lease 0))

/-- LEASE.T (R190). -/
def execLeaseT (d : Fin 32) (s : State) : Outcome State Fault Refusal :=
  let k := s.myCluster
  let c := s.myIndex
  finish s (do
    if k.tooLate c s.cycle then stall .operations
    .ok (if k.holder = some c then s.writeX d 1 4
      else if k.holder = none ∧ k.waiting = [] then (s.setMyCluster { k.grant c s.cycle false with granted := some (s.cycle, k.lastHolder) }).writeX d 1 4
      else s.writeX d 0 4))

/-- LREL (R190). -/
def execLrel (s : State) : Outcome State Fault Refusal :=
  let s1 := if s.holdsLease then s.setMyCluster (s.myCluster.passOn s.cycle) else s
  .next (s1.retire s1.me 4)

end Sys2Proof.Machine
end

