-- ==== Sys2Proof/Machine/Tile.lean ====
section
/-! DEFINITION. Tile configuration and state (R52, R53, R192, R193), TZERO (R194), ASTAT (R195), and the checks and waits
that every tile command makes (R89, R196). -/

namespace Sys2Proof.Machine

open Sys2Proof Host

/-! ## TCFG words (R52) -/

def tcFmt (w : Word) : Nat := bits w.toNat 3 0
def tcRows (w : Word) : Nat := bits w.toNat 11 4 + 1
def tcCols (w : Word) : Nat := bits w.toNat 19 12 + 1
/-- Group size; code 3 is reserved. -/
def gszOf (code : Nat) : Nat := 32 * 2 ^ code
def tcGsz (w : Word) : Nat := gszOf (bits w.toNat 21 20)
def tcOwner (w : Word) : Nat := bits w.toNat 26 24
def tcValid (w : Word) : Bool := w.getLsbD 27
def tcSeed (w : Word) : BitVec 32 := (w >>> 32).setWidth 32
/-- The bits of a TCFG word that lie in a field of R52; the others read as zero and writes to them are ignored (R6). -/
def tcFields : Word := 0xFFFFFFFF0F3FFFFF

/-- Q8 and Q4 (R60). -/
def isQ (fmt : Nat) : Bool := fmt = 5 || fmt = 6
/-- Bits of an element of a tile or map format (R52, R85). -/
def elemBitsOf (fmt : Nat) : Nat :=
  match fmt with
  | 1 => 16
  | 2 => 16
  | 3 => 32
  | 4 => 64
  | 5 => 8
  | 6 => 4
  | 7 => 8
  | 8 => 16
  | 9 => 32
  | 10 => 64
  | _ => 8
/-- Bytes of a group header (R60). -/
def headerBytes (fmt : Nat) : Nat := if fmt = 5 then 4 else 2
/-- The floating format of a format code (R52). -/
def fmtOfTile (fmt : Nat) : Fmt := if fmt = 1 then bf16 else if fmt = 2 then fp16 else if fmt = 3 then fp32 else fp64

/-- Bytes of the element plane and of the header plane (R52, R61). -/
def elementPlane (w : Word) : Nat := tcRows w * tcCols w * elemBitsOf (tcFmt w) / 8
def headerPlane (w : Word) : Nat := if isQ (tcFmt w) then tcRows w * (tcCols w / tcGsz w) * headerBytes (tcFmt w) else 0

/-- A shape that TCFG refuses (R52). GSZ = 3 is refused for every format: R52 raises TSHAPE for a reserved GSZ, and ignores GSZ for other formats
than Q8 and Q4 (DESIGN CHOICE, log entry 91). -/
def tcBad (w : Word) : Bool :=
  decide (tcFmt w = 0) || decide (7 ≤ tcFmt w) || decide (bits w.toNat 21 20 = 3)
    || (isQ (tcFmt w) && decide (tcCols w % tcGsz w ≠ 0)) || decide (65536 < elementPlane w + headerPlane w)

/-! ## Tiles of the executing unit's array -/

def Cluster.tcfgOf (k : Cluster) (t : Fin 32) : Word := Tab.read 0 k.tcfg t.val
def Cluster.stateOf (k : Cluster) (t : Fin 32) : TileState := Tab.read .empty k.tstate t.val
def Cluster.setState (k : Cluster) (t : Fin 32) (x : TileState) : Cluster := { k with tstate := Tab.write .empty k.tstate t.val x }
/-- [0] MODE, [3:1] OWNER, [4] VALID (R52). -/
def Cluster.accOf (k : Cluster) (a : Fin 4) : BitVec 5 := Tab.read 0 k.accCfg a.val
def accFp64 (c : BitVec 5) : Bool := c.getLsbD 0
def accOwner (c : BitVec 5) : Nat := bits c.toNat 3 1
def accValid (c : BitVec 5) : Bool := c.getLsbD 4

/-- A tile is VALID and owned by another core (R192, R197). -/
def State.foreignTile (s : State) (t : Fin 32) : Bool :=
  tcValid (s.myCluster.tcfgOf t) && decide (tcOwner (s.myCluster.tcfgOf t) ≠ s.myIndex)
def State.foreignAcc (s : State) (a : Fin 4) : Bool :=
  accValid (s.myCluster.accOf a) && decide (accOwner (s.myCluster.accOf a) ≠ s.myIndex)

/-- Bytes of a tile's planes, from tile × 65,536. -/
def Cluster.tileBytes (k : Cluster) (t off : Nat) : Nat → List Byte
  | 0 => []
  | n + 1 => Tab.read 0 k.tiles (t * 65536 + off) :: k.tileBytes t (off + 1) n
def Cluster.putTile (k : Cluster) (t off : Nat) (bs : List Byte) : Cluster := { k with tiles := putBytes k.tiles (t * 65536 + off) bs }
/-- Every byte of a tile's planes zero. -/
def Cluster.clearTile (k : Cluster) (t : Nat) : Cluster := { k with tiles := k.tiles.filter fun e => !decide (e.1 / 65536 = t) }

/-! ## Commands that are under way (R196) -/

/-- The tiles an array command names, and the accumulators. -/
def ArrayCmd.tiles : ArrayCmd → List (Fin 32)
  | .mma _ _ _ a b _ => [a, b]
  | .mms _ _ _ _ a b _ => [a, b]
  | .acvt t _ _ _ _ _ _ => [t]
  | .azero _ => []
  | .tzero t => [t]
def ArrayCmd.accs : ArrayCmd → List (Fin 4)
  | .mma _ _ c _ _ _ => [c]
  | .mms _ _ _ c _ _ _ => [c]
  | .acvt _ c _ _ _ _ _ => [c]
  | .azero c => [c]
  | .tzero _ => []

/-- Array commands a core has issued that are not complete. -/
def State.arrayCmds (s : State) (core : Nat) : List ArrayCmd := s.ops.filterMap fun o => match o.kind with
  | .array c => if coreOf o.party = core then some c else none
  | _ => none

/-- An earlier array command of the issuing core names the tile (R192, R196). -/
def State.tileBusy (s : State) (t : Fin 32) : Bool := (s.arrayCmds (coreOf s.cur)).any fun c => c.tiles.contains t

/-- A wait for tile states is no resident block (R196). -/
def tileWait (ok : Bool) : Res Unit := if ok then .ok () else stall .tile

def TileState.isSettled : TileState → Bool
  | .empty => true
  | .ready => true
  | _ => false

/-- An operation on the array, counted in the tile-operations counter (R44, R189). -/
def State.issueArray (s : State) (c : ArrayCmd) : Res State :=
  .ok ((s.addOp (s.newOp (.array c) .tiles)).retire (s.me.raiseCtr .tiles) 4)

/-! ## Configuration and state -/

/-- TCFG (R192). The bits outside R52's fields are ignored (R6). DEDUCED, unsafe (log 71). -/
def execTcfg (t a : Fin 32) (s : State) : Outcome State Fault Refusal :=
  finish s (do
    let w := s.me.readX a
    need (!(tcValid w && tcBad w)) .tshape 0
    need (!s.foreignTile t) .tileown 0
    tileWait ((s.myCluster.stateOf t).isSettled && !s.tileBusy t)
    let k := s.myCluster.setState t .empty
    .ok ((s.setMyCluster { k with tcfg := Tab.write 0 k.tcfg t.val (if tcValid w then w &&& tcFields else 0) }).retire s.me 4))

/-- TCFGR (R193): a tile's word, or an accumulator's configuration. -/
def execTcfgr (d t : Fin 32) (e : Bool) (s : State) : Outcome State Fault Refusal :=
  .next (s.writeX d (if e then (Tab.read 0 s.myCluster.accCfg t.val).setWidth 64 else s.myCluster.tcfgOf t) 4)

/-- The code of a tile state (R193). -/
def TileState.code : TileState → Nat
  | .empty => 0
  | .filling => 1
  | .ready => 2
  | .draining => 3

/-- TSTATE (R193). -/
def execTstate (d t : Fin 32) (s : State) : Outcome State Fault Refusal :=
  let w := s.myCluster.tcfgOf t
  .next (s.writeX d (BitVec.ofNat 64 ((s.myCluster.stateOf t).code + (if tcValid w then 4 else 0) + tcOwner w * 8)) 4)

/-- TZERO (R194, R196). -/
def execTzero (t : Fin 32) (s : State) : Outcome State Fault Refusal :=
  finish s (do
    roomIn s.me.tiles
    s.tileHandler
    need (!s.foreignTile t) .tileown 0
    need (tcValid (s.myCluster.tcfgOf t)) .fmtmis 0
    tileWait (s.myCluster.stateOf t).isSettled
    s.tileGate fun s1 => s1.issueArray (.tzero t))

/-- ASTAT (R195): after every array command of this core, the word is read and flags are cleared in one step. -/
def execAstat (d a : Fin 32) (s : State) : Outcome State Fault Refusal :=
  finish s (do
    if s.arrayCmds (coreOf s.cur) ≠ [] then stall .operations
    let k := s.myCluster
    let clear : BitVec 9 := (s.me.readX a).setWidth 9 &&& 0xF
    .ok ((s.setMyCluster { k with astat := k.astat &&& ~~~clear ||| k.justSet s.cycle }).writeX d (k.astat.setWidth 64) 4))

end Sys2Proof.Machine
end

