-- ==== Sys2Proof/Machine/Fp.lean ====
section
/-! DEFINITION. The scalar floating-point forms (R103 to R109): operands read under R39, one rounding under FPCTL, flags
into FPFLG, narrow results written with zero upper bits. -/

namespace Sys2Proof.Machine

open Sys2Proof Host

/-- Write f[rd] and add flags (R103). -/
def State.writeF (s : State) (d : Fin 32) (r : Nat × Flags) : State :=
  s.retire ((s.me.setF d (BitVec.ofNat 64 r.1)).addFlags r.2) 4

/-- A form of two operands in precision p. -/
def State.fp2 (s : State) (d a b : Fin 32) (p : Fin 4) (f : Fmt → Round → Opnd → Opnd → Nat × Flags) : State :=
  s.writeF d (f (fmtOf p) s.me.rounding (s.me.readFp p a) (s.me.readFp p b))

/-- FADD (R104). -/
def execFadd (d a b : Fin 32) (p : Fin 4) (s : State) : Outcome State Fault Refusal :=
  .next (s.fp2 d a b p fadd)

/-- FSUB (R104). -/
def execFsub (d a b : Fin 32) (p : Fin 4) (s : State) : Outcome State Fault Refusal :=
  .next (s.fp2 d a b p fsub)

/-- FMUL (R104). -/
def execFmul (d a b : Fin 32) (p : Fin 4) (s : State) : Outcome State Fault Refusal :=
  .next (s.fp2 d a b p fmul)

/-- FDIV (R104). -/
def execFdiv (d a b : Fin 32) (p : Fin 4) (s : State) : Outcome State Fault Refusal :=
  .next (s.fp2 d a b p fdiv)

/-- FMIN (R106). -/
def execFmin (d a b : Fin 32) (p : Fin 4) (s : State) : Outcome State Fault Refusal :=
  .next (s.fp2 d a b p (fun f _ => fminmax f false))

/-- FMAX (R106). -/
def execFmax (d a b : Fin 32) (p : Fin 4) (s : State) : Outcome State Fault Refusal :=
  .next (s.fp2 d a b p (fun f _ => fminmax f true))

/-- FSQRT (R104). -/
def execFsqrt (d a : Fin 32) (p : Fin 4) (s : State) : Outcome State Fault Refusal :=
  .next (s.writeF d (fsqrt (fmtOf p) s.me.rounding (s.me.readFp p a)))

/-- FCMP (R107): 1 or 0 to x[rd]. -/
def execFcmp (d a b : Fin 32) (p k : Fin 4) (s : State) : Outcome State Fault Refusal :=
  let r := fcompare k (s.me.readFp p a) (s.me.readFp p b)
  .next (s.retire ((s.me.setX d (boolWord r.1)).addFlags r.2) 4)

/-- The magnitude of a with the sign that `sgn` gives of both signs (R108). -/
def State.signOp (s : State) (d a b : Fin 32) (p : Fin 4) (sgn : Bool → Bool → Bool) : State :=
  let f := fmtOf p
  let x := (s.me.readFp p a).bits
  let y := (s.me.readFp p b).bits
  let top := 2 ^ (f.eb + f.mb)
  s.writeF d (x % top + (if sgn (x / top % 2 == 1) (y / top % 2 == 1) then top else 0), 0)

/-- FSGN (R108): the sign of b. -/
def execFsgn (d a b : Fin 32) (p : Fin 4) (s : State) : Outcome State Fault Refusal :=
  .next (s.signOp d a b p (fun _ y => y))

/-- FSGN.N (R108): the inverted sign of b. -/
def execFsgnN (d a b : Fin 32) (p : Fin 4) (s : State) : Outcome State Fault Refusal :=
  .next (s.signOp d a b p (fun _ y => !y))

/-- FSGN.X (R108): the exclusive OR of both signs. -/
def execFsgnX (d a b : Fin 32) (p : Fin 4) (s : State) : Outcome State Fault Refusal :=
  .next (s.signOp d a b p (fun x y => x != y))

/-- FCLASS (R108): one class bit to x[rd]. -/
def execFclass (d a : Fin 32) (p : Fin 4) (s : State) : Outcome State Fault Refusal :=
  .next (s.writeX d (BitVec.ofNat 64 (fclass (fmtOf p) (s.me.readFp p a))) 4)

/-- FMV (R108): f to f, all 64 bits. -/
def execFmv (d a : Fin 32) (s : State) : Outcome State Fault Refusal :=
  .next (s.retire (s.me.setF d (s.me.readF a)) 4)

/-- FMV.X (R108): f to x. -/
def execFmvX (d a : Fin 32) (s : State) : Outcome State Fault Refusal :=
  .next (s.writeX d (s.me.readF a) 4)

/-- FMV.F (R108): x to f. -/
def execFmvF (d a : Fin 32) (s : State) : Outcome State Fault Refusal :=
  .next (s.retire (s.me.setF d (s.me.readX a)) 4)

/-- A fused form: the product negated, c negated (R105). -/
def State.fused (s : State) (d a b c : Fin 32) (p : Fin 4) (np nc : Bool) : State :=
  s.writeF d (fmadd (fmtOf p) s.me.rounding np nc (s.me.readFp p a) (s.me.readFp p b) (s.me.readFp p c))

/-- FMA (R105): a × b + c. -/
def execFma (d a b c : Fin 32) (p : Fin 4) (s : State) : Outcome State Fault Refusal :=
  .next (s.fused d a b c p false false)

/-- FMS (R105): a × b − c. -/
def execFms (d a b c : Fin 32) (p : Fin 4) (s : State) : Outcome State Fault Refusal :=
  .next (s.fused d a b c p false true)

/-- FNMA (R105): −(a × b) + c. -/
def execFnma (d a b c : Fin 32) (p : Fin 4) (s : State) : Outcome State Fault Refusal :=
  .next (s.fused d a b c p true false)

/-- FNMS (R105): −(a × b) − c. -/
def execFnms (d a b c : Fin 32) (p : Fin 4) (s : State) : Outcome State Fault Refusal :=
  .next (s.fused d a b c p true true)

/-! ## Conversions (R109, R83) -/

/-- The floating type of a code of R83. -/
def fmtOfCode (t : Nat) : Fmt := if t = 0 then fp64 else if t = 1 then fp32 else if t = 2 then fp16 else bf16
/-- Width and signedness of the integer type of a code of R83. -/
def intBits (t : Nat) : Nat := if t < 10 then 8 else if t < 12 then 16 else if t < 14 then 32 else if t < 16 then 64 else 4
def intSigned (t : Nat) : Bool := t % 2 == 0

/-- Whether a conversion to type `t` takes an RNGST step (R109). -/
def Strand.stepsFor (u : Strand) (t : Nat) : Bool := u.stochastic && decide (t < 4) && stochasticFmt (fmtOfCode t)

/-- FCVT (R109): source type `sz`, destination type `t`, both codes of R83. -/
def execFcvt (d a : Fin 32) (t sz : Fin 32) (s : State) : Outcome State Fault Refusal :=
  let u := s.me
  let steps := u.stepsFor t.val
  let rnd := if steps then some (rndBits u.rngst) else none
  let u' := if steps then { u with rngst := rngStep u.rngst } else u
  if t.val < 4 then
    let r := if sz.val < 4 then cvtFloat (fmtOfCode sz.val) (fmtOfCode t.val) u.rounding rnd ((fmtOfCode sz.val).readReg (u.readF a))
      else cvtOfInt (fmtOfCode t.val) u.rounding rnd (intOf (intSigned sz.val) (intBits sz.val) (u.readX a).toNat)
    .next (s.retire ((u'.setF d (BitVec.ofNat 64 r.1)).addFlags r.2) 4)
  else
    let r := cvtToInt u.rounding (intSigned t.val) (intBits t.val) ((fmtOfCode sz.val).readReg (u.readF a))
    .next (s.retire ((u'.setX d (BitVec.ofInt 64 r.1)).addFlags r.2) 4)

end Sys2Proof.Machine
end

