-- ==== Sys2Proof/Machine/Vector.lean ====
section
/-! DEFINITION. Vector arithmetic, comparison, permutation, reduction and conversion (R170 to R179, R183 to R185, R76). Every
source is read before the destination is written; lanes that take no part keep their value; flags are the union over the
lanes that take part. -/

namespace Sys2Proof.Machine

open Sys2Proof Host

/-! ## Lanes -/

/-- Bits of a width code (R170). -/
def laneBits (w : Fin 4) : Nat := 8 * 2 ^ w.val
/-- The floating format of a format code of majors 27 to 30 (R170): BF16, FP16, FP32, FP64. -/
def vecFmt (w : Fin 4) : Fmt := if w.val = 0 then bf16 else if w.val = 1 then fp16 else if w.val = 2 then fp32 else fp64

/-- The destination after every lane that takes part has received its result (R172). -/
def Strand.lanesTo (u : Strand) (d : Fin 32) (n : Nat) (on : Nat → Bool) (f : Nat → Nat) : Strand :=
  u.setV d (ofLanes n ((List.range (laneCount n)).map fun i => if on i then f i else lane (u.readV d) n i))

/-- The union of the flags of the lanes that take part (R174). -/
def Strand.laneFlags (u : Strand) (n : Nat) (m : Fin 8) (f : Nat → Flags) : Flags :=
  (List.range (laneCount n)).foldl (fun a i => if u.laneOn m i then a ||| f i else a) 0

/-- A form that gives each lane a result and flags. -/
def State.vecOp (s : State) (d : Fin 32) (n : Nat) (m : Fin 8) (f : Nat → Nat × Flags) : State :=
  let u := s.me
  s.retire ((u.lanesTo d n (u.laneOn m) fun i => (f i).1).addFlags (u.laneFlags n m fun i => (f i).2)) 4

/-- An integer form of two registers (R175): wraps, no flag. -/
def State.vecInt (s : State) (d a b : Fin 32) (w : Fin 4) (m : Fin 8) (f : Nat → Nat → Nat → Nat) : State :=
  let n := laneBits w
  let x := s.me.readV a
  let y := s.me.readV b
  let u := s.me
  s.retire (u.lanesTo d n (u.laneOn m) fun i => f n (lane x n i) (lane y n i) % 2 ^ n) 4

/-- A floating form of two registers (R174, R176). -/
def State.vecFp (s : State) (d a b : Fin 32) (w : Fin 4) (m : Fin 8) (f : Fmt → Round → Opnd → Opnd → Nat × Flags) : State :=
  let g := vecFmt w
  let n := g.width
  let x := s.me.readV a
  let y := s.me.readV b
  s.vecOp d n m fun i => f g s.me.rounding (g.opnd (lane x n i)) (g.opnd (lane y n i))

/-- A comparison of n-bit lanes into a mask, written in full (R172, R177). -/
def State.vecCmp (s : State) (d : Fin 8) (n : Nat) (m : Fin 8) (f : Nat → Bool × Flags) : State :=
  let u := s.me
  let bitsOf := (List.range (laneCount n)).foldl (fun a i => if u.laneOn m i && (f i).1 then a + 2 ^ i else a) 0
  s.retire ((u.setM d (BitVec.ofNat 64 bitsOf)).addFlags (u.laneFlags n m fun i => (f i).2)) 4

/-! ## Integer forms -/

/-- VADD (R175). -/
def execVaddI (d a b : Fin 32) (w : Fin 4) (m : Fin 8) (s : State) : Outcome State Fault Refusal :=
  .next (s.vecInt d a b w m fun _ x y => x + y)

/-- VSUB (R175). -/
def execVsubI (d a b : Fin 32) (w : Fin 4) (m : Fin 8) (s : State) : Outcome State Fault Refusal :=
  .next (s.vecInt d a b w m fun n x y => x + 2 ^ n - y)

/-- VMUL (R175): the low w bits. -/
def execVmulI (d a b : Fin 32) (w : Fin 4) (m : Fin 8) (s : State) : Outcome State Fault Refusal :=
  .next (s.vecInt d a b w m fun _ x y => x * y)

/-- VMIN (R175): signed. -/
def execVminI (d a b : Fin 32) (w : Fin 4) (m : Fin 8) (s : State) : Outcome State Fault Refusal :=
  .next (s.vecInt d a b w m fun n x y => if intOf true n x < intOf true n y then x else y)

/-- VMAX (R175): signed. -/
def execVmaxI (d a b : Fin 32) (w : Fin 4) (m : Fin 8) (s : State) : Outcome State Fault Refusal :=
  .next (s.vecInt d a b w m fun n x y => if intOf true n x < intOf true n y then y else x)

/-- VMIN.UI (R175). -/
def execVminUi (d a b : Fin 32) (w : Fin 4) (m : Fin 8) (s : State) : Outcome State Fault Refusal :=
  .next (s.vecInt d a b w m fun _ x y => min x y)

/-- VMAX.UI (R175). -/
def execVmaxUi (d a b : Fin 32) (w : Fin 4) (m : Fin 8) (s : State) : Outcome State Fault Refusal :=
  .next (s.vecInt d a b w m fun _ x y => max x y)

/-- VAND (R175). -/
def execVand (d a b : Fin 32) (w : Fin 4) (m : Fin 8) (s : State) : Outcome State Fault Refusal :=
  .next (s.vecInt d a b w m fun _ x y => Nat.land x y)

/-- VOR (R175). -/
def execVor (d a b : Fin 32) (w : Fin 4) (m : Fin 8) (s : State) : Outcome State Fault Refusal :=
  .next (s.vecInt d a b w m fun _ x y => Nat.lor x y)

/-- VXOR (R175). -/
def execVxor (d a b : Fin 32) (w : Fin 4) (m : Fin 8) (s : State) : Outcome State Fault Refusal :=
  .next (s.vecInt d a b w m fun _ x y => Nat.xor x y)

/-- VSHL (R175): by the low log2(w) bits of b. -/
def execVshl (d a b : Fin 32) (w : Fin 4) (m : Fin 8) (s : State) : Outcome State Fault Refusal :=
  .next (s.vecInt d a b w m fun n x y => x * 2 ^ (y % n))

/-- VSHR (R175): zero fill. -/
def execVshr (d a b : Fin 32) (w : Fin 4) (m : Fin 8) (s : State) : Outcome State Fault Refusal :=
  .next (s.vecInt d a b w m fun n x y => x / 2 ^ (y % n))

/-- VSHA (R175): sign fill. -/
def execVsha (d a b : Fin 32) (w : Fin 4) (m : Fin 8) (s : State) : Outcome State Fault Refusal :=
  .next (s.vecInt d a b w m fun n x y => ofIntBits n (intOf true n x / 2 ^ (y % n)))

/-- The integer condition `k` (R177): EQ, NE, LT, GE. -/
def intCond (k : Fin 4) (x y : Int) : Bool :=
  match k.val with
  | 0 => decide (x = y)
  | 1 => decide (x ≠ y)
  | 2 => decide (x < y)
  | _ => decide (y ≤ x)

/-- VCMP, signed (R177). -/
def execVcmpI (n : Fin 8) (k : Fin 4) (a b : Fin 32) (w : Fin 4) (m : Fin 8) (s : State) : Outcome State Fault Refusal :=
  let x := s.me.readV a
  let y := s.me.readV b
  let l := laneBits w
  .next (s.vecCmp n l m fun i => (intCond k (intOf true l (lane x l i)) (intOf true l (lane y l i)), 0))

/-- VCMP, unsigned (R177). -/
def execVcmpUi (n : Fin 8) (k : Fin 4) (a b : Fin 32) (w : Fin 4) (m : Fin 8) (s : State) : Outcome State Fault Refusal :=
  let x := s.me.readV a
  let y := s.me.readV b
  let l := laneBits w
  .next (s.vecCmp n l m fun i => (intCond k (lane x l i) (lane y l i), 0))

/-- VSEL (R177): every active lane receives a where its mask bit is 1, else b. -/
def execVsel (d a b : Fin 32) (w : Fin 4) (m : Fin 8) (s : State) : Outcome State Fault Refusal :=
  let n := laneBits w
  let u := s.me
  .next (s.retire (u.lanesTo d n (fun i => decide (i < u.vl.toNat)) fun i =>
    if (u.readM m).getLsbD i then lane (u.readV a) n i else lane (u.readV b) n i) 4)

/-! ## Floating forms -/

/-- VADD (R176). -/
def execVaddF (d a b : Fin 32) (w : Fin 4) (m : Fin 8) (s : State) : Outcome State Fault Refusal :=
  .next (s.vecFp d a b w m fadd)

/-- VSUB (R176). -/
def execVsubF (d a b : Fin 32) (w : Fin 4) (m : Fin 8) (s : State) : Outcome State Fault Refusal :=
  .next (s.vecFp d a b w m fsub)

/-- VMUL (R176). -/
def execVmulF (d a b : Fin 32) (w : Fin 4) (m : Fin 8) (s : State) : Outcome State Fault Refusal :=
  .next (s.vecFp d a b w m fmul)

/-- VDIV (R176): DZ as FDIV. -/
def execVdiv (d a b : Fin 32) (w : Fin 4) (m : Fin 8) (s : State) : Outcome State Fault Refusal :=
  .next (s.vecFp d a b w m fdiv)

/-- VSQRT (R176). -/
def execVsqrt (d a : Fin 32) (w : Fin 4) (m : Fin 8) (s : State) : Outcome State Fault Refusal :=
  .next (s.vecFp d a a w m fun g r x _ => fsqrt g r x)

/-- VMIN (R176, R106). -/
def execVminF (d a b : Fin 32) (w : Fin 4) (m : Fin 8) (s : State) : Outcome State Fault Refusal :=
  .next (s.vecFp d a b w m fun g _ => fminmax g false)

/-- VMAX (R176, R106). -/
def execVmaxF (d a b : Fin 32) (w : Fin 4) (m : Fin 8) (s : State) : Outcome State Fault Refusal :=
  .next (s.vecFp d a b w m fun g _ => fminmax g true)

/-- The floating condition `k` and its flags (R177): EQ and NE set NV for a signalling NaN, LT and GE for any NaN. -/
def fpCond (k : Fin 4) (a b : Opnd) : Bool × Flags :=
  match k.val with
  | 0 => fcompare 0 a b
  | 1 => (!(fcompare 0 a b).1, (fcompare 0 a b).2)
  | 2 => fcompare 1 a b
  | _ => fcompare 2 b a

/-- VCMP, floating (R177). -/
def execVcmpF (n : Fin 8) (k : Fin 4) (a b : Fin 32) (w : Fin 4) (m : Fin 8) (s : State) : Outcome State Fault Refusal :=
  let x := s.me.readV a
  let y := s.me.readV b
  let g := vecFmt w
  .next (s.vecCmp n g.width m fun i => fpCond k (g.opnd (lane x g.width i)) (g.opnd (lane y g.width i)))

/-- A fused lane form (R178): a × b + d, or a × b − d. -/
def State.vecFused (s : State) (d a b : Fin 32) (w : Fin 4) (m : Fin 8) (neg : Bool) : State :=
  let g := vecFmt w
  let n := g.width
  let x := s.me.readV a
  let y := s.me.readV b
  let z := s.me.readV d
  s.vecOp d n m fun i => fmadd g s.me.rounding false neg (g.opnd (lane x n i)) (g.opnd (lane y n i)) (g.opnd (lane z n i))

/-- VFMA (R178). -/
def execVfma (d a b : Fin 32) (w : Fin 4) (m : Fin 8) (s : State) : Outcome State Fault Refusal :=
  .next (s.vecFused d a b w m false)

/-- VFMS (R178). -/
def execVfms (d a b : Fin 32) (w : Fin 4) (m : Fin 8) (s : State) : Outcome State Fault Refusal :=
  .next (s.vecFused d a b w m true)

/-! ## Dot products (R179) -/

/-- The exact product of two source elements as a leaf of a sum in format `g`: an exact value, or a NaN already in `g`. -/
def dotLeaf (f g : Fmt) (x y : Nat) : Opnd × Flags :=
  let a := f.opnd x
  let b := f.opnd y
  if anyNan [a, b] then (⟨pickNan f g [a, b], .nan false, true⟩, flagIf (anySignalling [a, b]) flagNV)
  else match a.num.mul b.num with
    | some p => (⟨0, p, true⟩, 0)
    | none => (⟨g.qnan, .nan false, true⟩, flagNV)

/-- A dot-product lane of floating elements: two exact products, their rounded sum, then the old lane, rounded again. -/
def dotLane (f g : Fmt) (r : Round) (x y : Line) (old : Nat) (j : Nat) : Nat × Flags :=
  let e (v : Line) (k : Nat) : Nat := lane v f.width (2 * j + k)
  let (p, fp) := dotLeaf f g (e x 0) (e y 0)
  let (q, fq) := dotLeaf f g (e x 1) (e y 1)
  let (t, ft) := g.compute r [p, q] (p.num.add r q.num)
  let (z, fz) := fadd g r (g.opnd t) (g.opnd old)
  (z, fp ||| fq ||| ft ||| fz)

/-- A floating dot product. -/
def State.vecDot (s : State) (d a b : Fin 32) (m : Fin 8) (f g : Fmt) : State :=
  let x := s.me.readV a
  let y := s.me.readV b
  let z := s.me.readV d
  s.vecOp d g.width m fun j => dotLane f g s.me.rounding x y (lane z g.width j) j

/-- An integer dot product of groups of four bytes: exact, the final sum wrapped. -/
def State.vecDotInt (s : State) (d a b : Fin 32) (m : Fin 8) (sgn : Bool) : State :=
  let x := s.me.readV a
  let y := s.me.readV b
  let z := s.me.readV d
  s.vecOp d 32 m fun j =>
    let p (k : Nat) : Int := intOf sgn 8 (lane x 8 (4 * j + k)) * intOf sgn 8 (lane y 8 (4 * j + k))
    (ofIntBits 32 (p 0 + p 1 + (p 2 + p 3) + intOf sgn 32 (lane z 32 j)), 0)

/-- VDOT.BF16 (R179). -/
def execVdotBf16 (d a b : Fin 32) (m : Fin 8) (s : State) : Outcome State Fault Refusal := .next (s.vecDot d a b m bf16 fp32)

/-- VDOT.F16 (R179). -/
def execVdotF16 (d a b : Fin 32) (m : Fin 8) (s : State) : Outcome State Fault Refusal := .next (s.vecDot d a b m fp16 fp32)

/-- VDOT.I8 (R179). -/
def execVdotI8 (d a b : Fin 32) (m : Fin 8) (s : State) : Outcome State Fault Refusal := .next (s.vecDotInt d a b m true)

/-- VDOT.UI8 (R179). -/
def execVdotUi8 (d a b : Fin 32) (m : Fin 8) (s : State) : Outcome State Fault Refusal := .next (s.vecDotInt d a b m false)

/-- VDOT.F32 (R179). -/
def execVdotF32 (d a b : Fin 32) (m : Fin 8) (s : State) : Outcome State Fault Refusal := .next (s.vecDot d a b m fp32 fp64)

/-! ## Permutation and lanes (R184) -/

/-- VPERM (R184). -/
def execVperm (d a b : Fin 32) (w : Fin 4) (m : Fin 8) (s : State) : Outcome State Fault Refusal :=
  let n := laneBits w
  let x := s.me.readV a
  let y := s.me.readV b
  .next (s.vecOp d n m fun i => (lane x n (lane y n i % laneCount n), 0))

/-- VBCAST from an x register (R184). -/
def execVbcastX (d a : Fin 32) (w : Fin 4) (m : Fin 8) (s : State) : Outcome State Fault Refusal :=
  let x := s.me.readX a
  .next (s.vecOp d (laneBits w) m fun _ => (x.toNat, 0))

/-- VBCAST from an f register, moved without inspection (R184). -/
def execVbcastF (d a : Fin 32) (w : Fin 4) (m : Fin 8) (s : State) : Outcome State Fault Refusal :=
  let x := s.me.readF a
  .next (s.vecOp d (laneBits w) m fun _ => (x.toNat, 0))

/-- VEXT (R184): VL and mask ignored. -/
def execVext (d a b : Fin 32) (w : Fin 4) (s : State) : Outcome State Fault Refusal :=
  let n := laneBits w
  .next (s.writeX d (BitVec.ofNat 64 (lane (s.me.readV a) n ((s.me.readX b).toNat % laneCount n))) 4)

/-- VINS (R184): VL and mask ignored. -/
def execVins (d a b : Fin 32) (w : Fin 4) (s : State) : Outcome State Fault Refusal :=
  let n := laneBits w
  let k := (s.me.readX b).toNat % laneCount n
  .next (s.retire (s.me.lanesTo d n (fun i => decide (i = k)) fun _ => (s.me.readX a).toNat) 4)

/-! ## Reduction (R76, R183) -/

/-- One level of the tree: an absent child passes the other on. -/
def treeLevel (f : Nat → Nat → Nat × Flags) : List (Option Nat) → List (Option Nat) × Flags
  | a :: b :: t =>
    let (l, fl) := treeLevel f t
    match a, b with
    | some x, some y => let (v, g) := f x y; (some v :: l, g ||| fl)
    | some x, none => (some x :: l, fl)
    | none, y => (y :: l, fl)
  | l => (l, 0)

/-- The tree over 2^n leaves: the root and the flags of every node. -/
def treeSum (f : Nat → Nat → Nat × Flags) : Nat → List (Option Nat) → Option Nat × Flags
  | 0, l => (l.headD none, 0)
  | n + 1, l =>
    let (l', g) := treeLevel f l
    let (v, g') := treeSum f n l'
    (v, g ||| g')

/-- An integer node (R183). -/
def redInt (o n : Nat) (x y : Nat) : Nat :=
  match o with
  | 0 => (x + y) % 2 ^ n
  | 1 => if intOf true n x < intOf true n y then x else y
  | 2 => if intOf true n x < intOf true n y then y else x
  | 3 => min x y
  | 4 => max x y
  | 5 => Nat.land x y
  | 6 => Nat.lor x y
  | _ => Nat.xor x y

/-- The result of an empty integer reduction (R183). -/
def redEmpty (o n : Nat) : Nat :=
  match o with
  | 1 => 2 ^ (n - 1) - 1
  | 2 => 2 ^ (n - 1)
  | 3 => 2 ^ n - 1
  | 5 => 2 ^ n - 1
  | _ => 0

/-- The leaves of a reduction: the lanes that take part. -/
def Strand.leaves (u : Strand) (a : Fin 32) (n : Nat) (m : Fin 8) : List (Option Nat) :=
  (List.range (laneCount n)).map fun i => if u.laneOn m i then some (lane (u.readV a) n i) else none

/-- VRED (R183): operations 0 to 7 to x[rd], 8 to 10 to f[rd]. -/
def execVred (d a : Fin 32) (o : Fin 32) (w : Fin 4) (m : Fin 8) (s : State) : Outcome State Fault Refusal :=
  let u := s.me
  if o.val < 8 then
    let n := laneBits w
    let v := ((treeSum (fun x y => (redInt o.val n x y, 0)) (9 - Nat.log2 n) (u.leaves a n m)).1).getD (redEmpty o.val n)
    .next (s.writeX d (if o.val < 3 then sext v n else BitVec.ofNat 64 v) 4)
  else
    let g := vecFmt w
    let node (x y : Nat) : Nat × Flags :=
      if o.val = 8 then fadd g u.rounding (g.opnd x) (g.opnd y) else fminmax g (decide (o.val = 10)) (g.opnd x) (g.opnd y)
    let (v, fl) := treeSum node (9 - Nat.log2 g.width) (u.leaves a g.width m)
    .next (s.writeF d (v.getD (if o.val = 8 then 0 else g.infBits (decide (o.val = 10))), fl))

/-! ## Conversion (R185) -/

/-- Width of a type code of R83. -/
def typeBits (t : Nat) : Nat := if t < 4 then (fmtOfCode t).width else intBits t

/-- One element converted from type `src` to type `dst` (R69). -/
def convertElement (src dst : Nat) (r : Round) (rnd : Option Nat) (x : Nat) : Nat × Flags :=
  if dst < 4 then
    if src < 4 then cvtFloat (fmtOfCode src) (fmtOfCode dst) r rnd ((fmtOfCode src).opnd x)
    else cvtOfInt (fmtOfCode dst) r rnd (intOf (intSigned src) (intBits src) x)
  else if src < 4 then
    let (v, fl) := cvtToInt r (intSigned dst) (intBits dst) ((fmtOfCode src).opnd x)
    (ofIntBits (intBits dst) v, fl)
  else (ofIntBits (intBits dst) (clampInt (intSigned dst) (intBits dst) (intOf (intSigned src) (intBits src) x)), 0)

/-- Convert the elements of a list of lanes in ascending order; a lane that rounds stochastically steps RNGST first (R67). -/
def convertLanes (src dst : Nat) (r : Round) (steps : Bool) (x : Line) : List Nat → BitVec 32 → Line → Flags → BitVec 32 × Line × Flags
  | [], g, z, fl => (g, z, fl)
  | i :: t, g, z, fl =>
    let (v, f) := convertElement src dst r (if steps then some (rndBits g) else none) (lane x (typeBits src) i)
    convertLanes src dst r steps x t (if steps then rngStep g else g)
      (BitVec.ofNat 512 (setBits z.toNat (typeBits dst * (i + 1) - 1) (typeBits dst * i) v)) (fl ||| f)

/-- VCVT (R185): source type `sz`, destination type `t`, both codes of R83. -/
def execVcvt (d a : Fin 32) (t sz : Fin 32) (m : Fin 8) (s : State) : Outcome State Fault Refusal :=
  let u := s.me
  let lanes := (List.range (512 / max (typeBits sz.val) (typeBits t.val))).filter (u.laneOn m)
  let (g, z, fl) := convertLanes sz.val t.val u.rounding (u.stepsFor t.val) (u.readV a) lanes u.rngst (u.readV d) 0
  .next (s.retire (({ u with rngst := g }.setV d z).addFlags fl) 4)

end Sys2Proof.Machine
end

