-- ==== Sys2Proof/Machine/VectorMem.lean ====
section
/-! DEFINITION. The vector memory forms (R180 to R182): every address is checked before any access; VLD, VST and VLDX make
one access for each 64-byte line, the others one for each lane, in the order of R181. -/

namespace Sys2Proof.Machine

open Sys2Proof Host

/-- Check the addresses of the lanes that take part, in ascending order (R182). -/
def State.checkLanes (s : State) (n : Nat) (acc : Access) (tag : BitVec 16) (sideEffect : Bool) (addr : Nat → Word) : List Nat → Res (List Elem)
  | [] => .ok []
  | i :: t => do
    let l ← s.check (addr i) n acc tag sideEffect i
    let es ← s.checkLanes n acc tag sideEffect addr t
    .ok (⟨i, addr i, l⟩ :: es)

/-- The elements grouped into accesses (R181): by 64-byte line, or each by itself. -/
def groupElems (perLine : Bool) : List Elem → List (List Elem)
  | [] => []
  | e :: t => match groupElems perLine t with
    | (f :: g) :: r => if perLine && decide (e.va.toNat / 64 = f.va.toNat / 64) then (e :: f :: g) :: r else [e] :: (f :: g) :: r
    | r => [e] :: r

/-- The bytes of a line that a group covers (R181). -/
def groupMask (n : Nat) (g : List Elem) : BitVec 64 := g.foldl (fun m e => m ||| maskAt (e.loc.gpa % 64) n) 0


def isRemoteGroup (s : State) (g : List Elem) : Bool := match g with
  | e :: _ => !s.isLocal e.loc
  | [] => false

/-- No lane's data is uncorrectable; none lies on a removed cube, or one whose key awaits its RESYNC (R89, R298, R307). -/
def State.checkData (s : State) (es : List Elem) : Res Unit :=
  match es.find? fun e => s.isLocal e.loc && s.uncorrectable e.loc.key with
  | some e => raiseAt .eccu e.va e.lane
  | none => match es.find? fun e => !s.isLocal e.loc && decide (s.sendState e.loc.cube (unitNumber s.cur) 0 = .unreach) with
    | some e => raiseAt .unreach e.va e.lane
    | none => .ok ()

/-! ## The accesses of an instruction, one after the other (R181) -/

/-- The bytes of a lane. -/
def VecWork.data (w : VecWork) (lane : Nat) : List Byte := leBytes w.n (Machine.lane w.value (8 * w.n) lane)

/-- One lane's bytes put into what is loaded. -/
def VecWork.load (w : VecWork) (lane : Nat) (bs : List Byte) : VecWork :=
  { w with value := BitVec.ofNat 512 (setBits w.value.toNat (8 * w.n * (lane + 1) - 1) (8 * w.n * lane) (leVal bs)) }

/-- Write the elements of one access on this cube, with the pool lines taken at issue. -/
def State.putElems (s : State) (w : VecWork) : List Elem → State
  | [] => s
  | e :: t => match s.putTaken s.myCtx e.loc (w.data e.lane) w.tag s.me.taken with
    | some (s1, taken) => (s1.setMe { s1.me with taken := taken }).putElems w t
    | none => s.putElems w t

/-- One access on this cube: its elements loaded, or stored, its stamp taken once. -/
def State.vecAccess (s : State) (w : VecWork) (g : List Elem) : State × VecWork :=
  match g with
  | [] => (s, w)
  | e :: _ =>
    if w.store then
      let s1 := s.putElems w g
      let (t, s2) := s1.stampWrite (s.makesCell s.myCtx e.loc w.tag) s1.me.pts s1.myCtx e.loc w.tag
      (s2.setPts s2.cur t, w)
    else
      (if w.merge then s.loadMerged e.loc w.tag else s.loadAt e.loc w.tag, g.foldl (fun (q : VecWork) x =>
        q.load x.lane (if w.merge then s.merged s.myCtx x.loc w.n w.tag else s.view s.myCtx x.loc w.n w.tag)) w)

/-- Send the remote accesses of a store in order; their packets name the operation that counts them. A key that awaits its RESYNC ends its
part with LAST 1 (R298). -/
def State.postGroups (s : State) (ord : Nat) (w : VecWork) : List (List Elem) → State
  | [] => s
  | g :: t => match g with
    | [] => s.postGroups ord w t
    | e :: _ =>
      let p := s.lineRequest e.loc (groupMask w.n g) 1 (g.flatMap fun x => w.data x.lane)
      (match s.sendState p.dcube p.sunit p.ocls with
        | .unreach => s.setMe (s.me.status 1 29)
        | _ => s.post { p with req := ord, awaited := true }).postGroups ord w t

/-- The accesses on this cube are made: those on others follow, and the instruction is done. -/
def State.vecEnd (s : State) (w : VecWork) : Res State :=
  let s1 := s.returnLines s.myCtx s.me.taken
  let s2 := s1.setMe { s1.me with taken := [], vec := none }
  if w.store then
    let s3 := (s2.addOp (s2.newOp .store .stores)).postGroups s2.fresh w w.there
    .ok (s3.retire (s3.me.raiseCtr .stores) 4)
  else if w.there = [] then .ok (s2.retire (s2.me.loadTo (.v w.reg) w.value) 4)
  else
    s2.remoteAwait (w.there.filterMap fun g => g.head?.map fun e =>
      (s2.lineRequest e.loc (groupMask w.n g) 0 [], g.map fun x => (⟨0, x.lane * w.n, w.n, x.va, x.lane⟩ : RemotePart))) (some (.v w.reg)) 64 false w.value 4

/-- The accesses that are left, in order. -/
def State.vecAll (s : State) (w : VecWork) : List (List Elem) → State × VecWork
  | [] => (s, { w with here := [] })
  | g :: t =>
    let (s1, w1) := s.vecAccess w g
    s1.vecAll w1 t

/-- Go on with a vector memory instruction: every access that is left, or the next one only. A tag that a PLYRET has retired meanwhile is PERM
(R141, R230). -/
def State.vecStep (s : State) (w : VecWork) : Res State :=
  match w.here.flatten.find? fun e => e.loc.plied && !s.tagLive s.myCtx w.tag with
  | some e => raiseAt .perm e.va e.lane
  | none => match w.here with
  | g :: h :: t =>
    if s.single then
      let (s1, w1) := s.vecAccess w g
      .ok (s1.setMe { s1.me with hold := none, vec := some { w1 with here := h :: t } })
    else
      let (s1, w1) := s.vecAll w w.here
      s1.vecEnd w1
  | _ =>
    let (s1, w1) := s.vecAll w w.here
    s1.vecEnd w1

/-- A vector load of n-byte elements. -/
def State.vecLoad (s : State) (d : Fin 32) (n : Nat) (m : Fin 8) (perLine : Bool) (tag : BitVec 16) (merge : Bool) (addr : Nat → Word) : Res State :=
  let u := s.me
  let lanes := (List.range (laneCount (8 * n))).filter (u.laneOn m)
  if lanes = [] then .ok (s.retire u 4)
  else do
    roomIn u.loads
    let es ← s.checkLanes n .read tag false addr lanes
    s.checkData es
    let groups := groupElems perLine es
    if (groups.any (isRemoteGroup s) && u.remote.isSome) then stall .remote
    s.vecStep ⟨false, n, tag, merge, d, u.readV d, groups.filter (fun g => !isRemoteGroup s g), groups.filter (isRemoteGroup s)⟩

/-- A vector store of n-byte elements; without a lane that takes part, a zero-length write at x[ra] (R120, R180). -/
def State.vecStore (s : State) (v : Fin 32) (n : Nat) (m : Fin 8) (perLine : Bool) (base : Word) (addr : Nat → Word) : Res State := do
  let u := s.me
  let tag := s.myTag
  let lanes := (List.range (laneCount (8 * n))).filter (u.laneOn m)
  roomIn u.stores
  if lanes = [] then
    let l ← s.check base n .write tag true 0
    if s.isLocal l then
      let (t, s1) := s.stampStore u.pts (s.stampKey s.myCtx l tag)
      let s2 := s1.setPts s1.cur t
      .ok ((s2.addOp (s2.newOp .store .stores)).retire (s2.me.raiseCtr .stores) 4)
    else s.remotePost l (s.lineRequest l 0 1 []) u 29 4
  else
    let es ← s.checkLanes n .write tag true addr lanes
    let groups := groupElems perLine es
    let here := groups.filter fun g => !isRemoteGroup s g
    s.withLines tag (here.flatten.map fun e => (e.loc, e.lane)) fun s1 =>
      s1.vecStep ⟨true, n, tag, false, v, u.readV v, here, groups.filter (isRemoteGroup s)⟩

/-- Bytes of an element width code (R170). -/
def elemBytes (w : Fin 4) : Nat := 2 ^ w.val
/-- Bytes of the element width of VGATH and VSCAT: 32 or 64 bits (R180). -/
def indexBytes (w : Bool) : Nat := if w then 8 else 4

/-- Element addresses (R180): unit stride, a signed stride, a signed index lane. -/
def State.unitAddr (s : State) (a : Fin 32) (n i : Nat) : Word := s.me.readX a + BitVec.ofNat 64 (i * n)
def State.strideAddr (s : State) (a b : Fin 32) (i : Nat) : Word := s.me.readX a + BitVec.ofNat 64 i * s.me.readX b
def State.indexAddr (s : State) (a b : Fin 32) (n i : Nat) : Word := s.me.readX a + sext (lane (s.me.readV b) (8 * n) i) (8 * n)

/-- VLD (R180). -/
def execVld (d a : Fin 32) (w : Fin 4) (m : Fin 8) (s : State) : Outcome State Fault Refusal :=
  finish s (s.vecLoad d (elemBytes w) m true s.myTag false (s.unitAddr a (elemBytes w)))

/-- VST (R180). -/
def execVst (d a : Fin 32) (w : Fin 4) (m : Fin 8) (s : State) : Outcome State Fault Refusal :=
  finish s (s.vecStore d (elemBytes w) m true (s.me.readX a) (s.unitAddr a (elemBytes w)))

/-- VLDS (R180). -/
def execVlds (d a b : Fin 32) (w : Fin 4) (m : Fin 8) (s : State) : Outcome State Fault Refusal :=
  finish s (s.vecLoad d (elemBytes w) m false s.myTag false (s.strideAddr a b))

/-- VSTS (R180). -/
def execVsts (d a b : Fin 32) (w : Fin 4) (m : Fin 8) (s : State) : Outcome State Fault Refusal :=
  finish s (s.vecStore d (elemBytes w) m false (s.me.readX a) (s.strideAddr a b))

/-- VGATH (R180). -/
def execVgath (d a b : Fin 32) (w : Bool) (m : Fin 8) (s : State) : Outcome State Fault Refusal :=
  finish s (s.vecLoad d (indexBytes w) m false s.myTag false (s.indexAddr a b (indexBytes w)))

/-- VSCAT (R180). -/
def execVscat (d a b : Fin 32) (w : Bool) (m : Fin 8) (s : State) : Outcome State Fault Refusal :=
  finish s (s.vecStore d (indexBytes w) m false (s.me.readX a) (s.indexAddr a b (indexBytes w)))

/-- VLDX (R180): read merged under the tag of x[rb] (R123). -/
def execVldx (d a b : Fin 32) (w : Fin 4) (m : Fin 8) (s : State) : Outcome State Fault Refusal :=
  finish s (s.vecLoad d (elemBytes w) m true (s.explicitTag b) true (s.unitAddr a (elemBytes w)))

end Sys2Proof.Machine
end

