-- ==== Sys2Proof/Machine/Halt.lean ====
section
/-! DEFINITION. The gang stop and its resumption (R266), which the thermal stop (R320) and the debugger halt (R323) share, and the
places that privileged firmware names by physical address. -/

namespace Sys2Proof.Machine

open Sys2Proof Host

/-- The cores of a context's partition (R312), ascending. -/
def State.coresOf (s : State) (ctx : Nat) : List Nat := (List.range 256).filter (s.inPartition ctx)
/-- The clusters of a context's partition, ascending. -/
def State.clustersOf (s : State) (ctx : Nat) : List Nat := (List.range 32).filter fun k => decide ((s.cluster k).ctx = some ctx)
/-- The strands and spindle cores of a core. -/
def unitsOfCore (core : Nat) : List Nat := (List.range 10).map (unitKey core)

/-- Every load that has been performed returns into its register (R266). -/
def Strand.returnLoads (u : Strand) : Strand := { u.deliverAll with loads := if u.remote.isSome then u.loads - u.pend.length else 0, pend := [] }

/-- The accesses that are left of a unit's vector memory instruction are made: a stop falls between instructions. -/
def State.endVec (s : State) (key : Nat) : State := match (s.unit key).vec with
  | none => s
  | some w =>
    let s0 := { s with cur := key, single := false }
    let s1 := match finish s0 (s0.vecStep w) with
      | .next t => t
      | _ => s0
    let u := s1.unit key
    { s1.setUnit key { u with vec := none } with cur := s.cur, single := s.single }

/-- Pool lines that a waiting instruction has taken go back. -/
def State.dropTaken (s : State) (key : Nat) : State :=
  let s1 := s.returnLines (s.ctxOf key) (s.unit key).taken
  s1.setUnit key { s1.unit key with taken := [] }

/-- A party halts (R266): its loads return; an instruction waiting at issue has not issued, unless a result from another cube
is on its way; a blocked strand's request is withdrawn and it re-executes; a reservation is withdrawn. -/
def State.haltUnit (s : State) (key : Nat) : State :=
  let u0 := s.unit key
  if u0.halted then s
  else
    let s0 := (s.endVec key).dropTaken key
    let s1 := if (s0.unit key).wait.isSome then s0.withdraw key else s0
    let u := (s1.unit key).returnLoads
    s1.setUnit key { u with
      halted := true, haltedAt := s.cycle, haltWait := if u.st = .blocked then u0.wait else u.haltWait
      st := if u.st = .reserved then .idle else u.st
      hold := match u.hold with
        | some h => if h.kind = .remote then some h else none
        | none => none }

/-- A party resumes (R266, R271): its timers go on where they were paused; a blocked strand re-executes its instruction. -/
def State.resumeUnit (s : State) (key : Nat) : State :=
  let u := s.unit key
  if !u.halted then s
  else
    let d := s.cycle - u.haltedAt
    s.setUnit key { u with halted := false, haltedAt := 0, st := if u.st = .blocked then .run else u.st, handlerSince := u.handlerSince + d,
                           wait := none, haltWait := u.haltWait.map fun w => { w with since := w.since + d } }

/-- The timers of a core's spill slots and waiting records go on (R253, R266). -/
def Core.shiftTimers (k : Core) (d : Nat) : Core :=
  { k with spills := k.spills.map fun e => (e.1, e.2.map fun p => { p with since := p.since + d, readyAt := p.readyAt + d, behind := p.behind.map (· + d) })
           runq := k.runq.map fun e => (e.1, e.2.map fun r => { r with since := r.since + d, behind := r.behind.map (· + d) }) }

/-- Requests in the order in which they were submitted. -/
def insertGang (g : Nat × Gang) : List (Nat × Gang) → List (Nat × Gang)
  | [] => [g]
  | h :: t => if g.2.seq < h.2.seq then g :: h :: t else h :: insertGang g t
def inOrder (gs : List (Nat × Gang)) : List (Nat × Gang) := gs.foldr insertGang []

/-- The 64 bytes that a withdrawn request takes in the save area (R269): its descriptor; a launch's gang has none, and stands there as R159 would
describe its members (DESIGN CHOICE, log entry 86). -/
def Gang.descriptor (g : Gang) : List Word :=
  if g.words ≠ [] then g.words.take 8
  else
    let cores := g.todo.map (·.1)
    let first := cores.foldl min 255
    let last := cores.foldl max 0
    let a := (g.todo.head?.map (·.2)).getD []
    let b := ((g.todo.drop 1).head?.map (·.2)).getD a
    BitVec.ofNat 64 (first + (last + 1 - first) * 2 ^ 8 + g.todo.length / (last + 1 - first) * 2 ^ 16 + recPrio (wordAt a 1) * 2 ^ 20)
      :: wordAt a 0 :: wordAt a 2 :: (wordAt b 2 - wordAt a 2) :: (List.range 4).map fun i => wordAt a (3 + i)

/-- Gang requests of a context leave die management, which keeps their descriptors in order (R266). -/
def State.withdrawGangs (s : State) (ctx : Nat) (which : Gang → Bool) : State :=
  (List.range 4).foldl (fun (t : State) d =>
    let k := t.die d
    let c := t.ctx ctx
    let go (g : Gang) : Bool := g.ctx == ctx && which g
    (t.setDie d { k with gangs := k.gangs.filter fun g => !go g }).setCtx ctx
      { c with withdrawn := inOrder (c.withdrawn ++ (k.gangs.filter go).map fun g => (d, { g with todo := (g.reserved.map fun r => (coreOf r.1, r.2)) ++ g.todo, reserved := [] })) }) s

/-- Withdrawn gang requests are resubmitted in order (R271). -/
def State.resubmitGangs (s : State) (ctx : Nat) (which : Gang → Bool) : State :=
  let c := s.ctx ctx
  (c.withdrawn.filter fun g => which g.2).foldl (fun (t : State) g =>
    let k := t.die g.1
    t.setDie g.1 { k with gangs := k.gangs ++ [g.2] }) (s.setCtx ctx { c with withdrawn := c.withdrawn.filter fun g => !which g.2 })

/-- Halt the units of some cores. -/
def State.haltCores (s : State) (cores : List Nat) : State := (cores.flatMap unitsOfCore).foldl State.haltUnit s

/-- Resume the units of some cores and their timers. -/
def State.resumeCores (s : State) (cores : List Nat) : State :=
  cores.foldl (fun (t : State) c =>
    let d := t.cycle - (t.unit (unitKey c 0)).haltedAt
    let halted := (t.unit (unitKey c 0)).halted
    let t1 := (unitsOfCore c).foldl State.resumeUnit t
    if halted then t1.setCore c ((t1.core c).shiftTimers d) else t1) s

/-- A cluster is powered and its 100 µs begin anew (R325). -/
def State.ungate (s : State) (c : Nat) : State := s.setCluster c { s.cluster c with gated := false, idleSince := s.cycle }

/-- Every gated cluster of a context ungates (R325). -/
def State.ungateCtx (s : State) (ctx : Nat) : State := ((s.clustersOf ctx).filter fun c => (s.cluster c).gated).foldl State.ungate s

/-- A core that a debugger halt holds (R323). -/
def Ctx.dhalted (k : Ctx) (core : Nat) : Bool := k.dhalt && k.dcores.getLsbD core

/-- The lease of a cluster is released (R264, R266). -/
def State.freeLease (s : State) (k : Nat) : State := s.setCluster k { s.cluster k with holder := none, waiting := [], cmds := 0 }

/-- The gang stop of a context begins (R266). -/
def State.stopCtx (s : State) (ctx : Nat) : State :=
  let s0 := s.ungateCtx ctx
  let s1 := (s0.haltCores (s0.coresOf ctx)).withdrawGangs ctx fun _ => true
  let s2 := s1.setCtx ctx { s1.ctx ctx with stopped := true }
  (s2.clustersOf ctx).foldl State.freeLease s2

/-- Resumption (R266), but for the cores that a debugger halt holds (R323). -/
def State.resumeCtx (s : State) (ctx : Nat) : State :=
  let s0 := s.ungateCtx ctx
  let s1 := s0.resumeCores ((s0.coresOf ctx).filter fun c => !(s0.ctx ctx).dhalted c)
  (s1.setCtx ctx { s1.ctx ctx with stopped := false, thermal := 0 }).resubmitGangs ctx fun _ => true

/-- The lease of a core passes on (R266). -/
def State.leaveLease (s : State) (core : Nat) : State :=
  let k := s.cluster (core / 8)
  if k.holder = some (core % 8) then s.setCluster (core / 8) (k.passOn s.cycle) else s

/-- A gang has a member on one of some cores. -/
def Gang.touches (g : Gang) (cores : List Nat) : Bool := (g.todo.map (·.1) ++ g.reserved.map fun r => coreOf r.1).any cores.contains

/-- What DHALT and DCORES say comes about (R323): the selected cores are halted as at a gang stop, with the gangs that have members on them; a core that
only the debugger held resumes. -/
def State.applyDhalt (s : State) (ctx : Nat) : State :=
  let k := s.ctx ctx
  let held := (s.coresOf ctx).filter k.dhalted
  let s0 := if held = [] then s else s.ungateCtx ctx
  let s1 := held.foldl State.leaveLease ((s0.haltCores held).withdrawGangs ctx (·.touches held))
  if k.stopped ∨ k.state = .out then s1
  else
    (s1.resumeCores ((s1.coresOf ctx).filter fun c => !k.dhalted c)).resubmitGangs ctx fun g => !g.touches held

/-- No result from another cube is on its way to a unit of these cores, and their tile commands and transfers are complete. -/
def State.quietCores (s : State) (cores : List Nat) : Bool :=
  cores.all fun c =>
    ((unitsOfCore c).all fun k => (s.unit k).remote.isNone)
      && (s.ops.all fun o => !(decide (coreOf o.party = c) && (match o.kind with
        | .array _ => true
        | .tld _ => true
        | .tst _ _ => true
        | _ => false)))

/-- The gang stop of a context is complete (R266). -/
def State.quietCtx (s : State) (ctx : Nat) : Bool := s.quietCores (s.coresOf ctx)

/-! ## Places named by firmware -/

/-- An address operand of firmware: a scratch-window address, or a global physical address (DEDUCED, log entry 20). -/
def State.firmwarePlace (s : State) (w : Word) : Option Nat :=
  if isScratchVa w then s.localOf (w.toNat % 2 ^ 59 + 2 ^ 59) else if w.toNat < 2 ^ 60 then s.localOf w.toNat else none

/-- The event an event code numbers (R88). -/
def evCodeOf (n : Nat) : Option EvCode :=
  [EvCode.undef, .priv, .align, .xmiss, .perm, .nopage, .plypool, .plyremote, .sidefx, .tileown, .fmtmis, .hoverrun, .hblock, .bkpt, .svc,
   .unreach, .e2elost, .liststale, .eccu, .colltmo, .tshape, .ctxgone, .trap].find? fun c => decide (c.num = n)

/-- Handler budget that is left on strand 0 (R270). -/
def State.budgetLeft (s : State) (key : Nat) : Nat :=
  let u := s.unit key
  let now := if u.halted then u.haltedAt else s.cycle
  (s.core (coreOf key)).hbudget - (now - u.handlerSince)

/-- A strand's save record (R270). -/
def State.saveRecord (s : State) (key : Nat) : List Word := (s.unit key).saveWords (s.budgetLeft key) (isMsgStrand key)

/-- Load a save record into a strand (R270): a stopped strand keeps the event that its record names; a blocked one will
re-execute its instruction. -/
def State.loadRecord (s : State) (key : Nat) (ws : List Word) : State :=
  let u := (s.unit key).loadSave ws
  let left := bits (wordAt ws 399).toNat 63 32
  let now := if u.halted then u.haltedAt else s.cycle
  let code := bits (wordAt ws 399).toNat 15 8
  let u1 := { u with
    handlerSince := if isMsgStrand key then now - ((s.core (coreOf key)).hbudget - left) else u.handlerSince
    st := if u.st = .reserved then .idle else u.st
    event := if u.st = .stopped then u.event else none
    hold := none, wait := none, pend := [], remote := none }
  let s1 := s.setUnit key u1
  match u1.event, evCodeOf code with
  | some e, some c => if u1.st = .stopped ∧ e.code ≠ c then s1.setUnit key { u1 with event := some { e with code := c } } else s1
  | none, some c => if u1.st = .stopped then s1.setUnit key { u1 with event := some (s1.eventMsg key c 0 0 0), posted := true } else s1
  | _, _ => s1

end Sys2Proof.Machine
end

