-- ==== Sys2Proof/Machine/Bank.lean ====
section
/-! DEFINITION. The bank engines (R272 to R285): the parameter block and its checks, the program, waves, alerts, shootdown and refresh,
status and completion. A step of a wave is an element of every bank of it, or with the second flag one access of one bank. -/

namespace Sys2Proof.Machine

open Sys2Proof Host

/-! ## Blocks and completion addresses -/

/-- An address an engine reaches through the issuing core's TLB with no event raised (R154, R272): a local address of this cube. The spec does not say
whether an engine reads a parameter block of a page that lies on another cube: to the model it is a block that cannot be read (DESIGN CHOICE, log entry
113). -/
def State.engineVa (s : State) (core ctx : Nat) (va : Word) (acc : Access) : Option Nat :=
  match (s.present ctx).resolve core ctx va acc 0 with
  | .ok l => if l.cube = s.cubeNum then some l.key else none
  | .error _ => none

/-- The lines of a parameter block; none where one does not translate or cannot be read (R154). -/
def State.readCommand (s : State) (c : EngCmd) : Nat → Word → Option (List Word)
  | 0, _ => some []
  | n + 1, va => match s.engineVa c.core c.ctx va .read with
    | some key => if s.uncorrectable key then none else (s.readCommand c n (va + 64)).map fun t => leWords (s.bytes (s.redirect c.ctx key) 64) ++ t
    | none => none

/-- FORMAT of a command's block; 0 where it cannot be read. -/
def State.formatOf (s : State) (c : EngCmd) : Nat := match s.engineVa c.core c.ctx c.addr .read with
  | some key => (s.byte (s.redirect c.ctx key)).toNat
  | none => 0

/-- A usable address of a completion word (R272). -/
def State.reportPlace (s : State) (c : EngCmd) (va : Word) (align : Nat) : Option Nat :=
  if va.toNat % align = 0 then s.engineVa c.core c.ctx va .write else none

/-- The usable lines of a status block or result (R272); none where one of them is not. -/
def State.reportLines (s : State) (c : EngCmd) (va : Word) : Nat → Option (List Nat)
  | 0 => some []
  | n + 1 => match s.reportPlace c va 64, s.reportLines c (va + 64) n with
    | some key, some t => some (key :: t)
    | _, _ => none

/-- The bytes from an address on that lie together on one cube under the address map (R249): up to the stripe's end, or a table's granule. -/
def State.piece (s : State) (p : Nat) : Nat := match s.amapOf p with
  | some e => 2 ^ e.glog.toNat - (p - e.base.toNat) % 2 ^ e.glog.toNat
  | none => 4096

/-- Every byte from `p` up to `stop` lies on this cube's stack `die` and exists; with `from_`, contiguously from there (R238, R275, R286). -/
def State.frameOn (s : State) (die : Nat) (from_ : Option Nat) (stop : Nat) : Nat → Nat → Bool
  | 0, _ => true
  | f + 1, p =>
    if stop ≤ p then true
    else
      let n := min (s.piece p) (stop - p)
      match s.resolveDram p with
      | some (cube, a) => decide (cube = s.cubeNum) && decide (a / 2 ^ 37 = die) && decide ((a + n - 1) / 2 ^ 37 = die) && dramExists (a + n - 1)
          && (match from_ with
            | some b => decide (a = b)
            | none => true)
          && s.frameOn die (from_.map (· + n)) stop f (p + n)
      | none => false

/-- An ESEND command ends: the copies count of the issuing work falls, and a failure shows in MSTAT while it runs (R49, R154). -/
def State.joinCommand (s : State) (c : EngCmd) (ok : Bool) : State :=
  s.settleWork c.ctx c.party c.wid .copies fun u => if ok then u else u.engineError

/-- Words written by an engine as one plain store each line (R279, R283). -/
def State.writeWords (s : State) (key : Nat) (ws : List Word) : State := s.cubeWrite key (bytesOfWords ws)

/-! ## The parameter block (R273) -/

def bkNops (b : List Word) : Nat := bits (wordAt b 0).toNat 12 8
def bkBanks (b : List Word) : Nat := bits (wordAt b 0).toNat 31 16
def bkAbm (b : List Word) : Bool := (wordAt b 0).getLsbD 32
def bkAcci (b : List Word) : Bool := (wordAt b 0).getLsbD 33
def bkCont (b : List Word) : Bool := (wordAt b 0).getLsbD 34
def bkRfmt (b : List Word) : Nat := bits (wordAt b 0).toNat 37 36
def bkRowz (b : List Word) : Nat := bits (wordAt b 1).toNat 7 0
def bkRows (b : List Word) : Nat := bits (wordAt b 1).toNat 15 8 + 1
def bkColz (b : List Word) : Nat := bits (wordAt b 1).toNat 20 16
def bkCols (b : List Word) : Nat := bits (wordAt b 1).toNat 28 24 + 1
def bkDone (b : List Word) : Word := wordAt b 2
def bkStat (b : List Word) : Word := wordAt b 3
def bkRes (b : List Word) : Word := wordAt b 4
/-- LSTMO in µs; 0 selects 100. -/
def bkLstmo (b : List Word) : Nat := if bits (wordAt b 5).toNat 31 0 = 0 then 100 else bits (wordAt b 5).toNat 31 0
/-- Word of stream k. -/
def bkStream (b : List Word) (k : Nat) : Nat := (wordAt b (8 + k)).toNat
def stPage (w : Nat) : Nat := bits w 2 0
def stFmt (w : Nat) : Nat := bits w 4 3
def stWrite (w : Nat) : Bool := w.testBit 5
def stValid (w : Nat) : Bool := w.testBit 6
/-- The bank offset of a stream. -/
def stOff (w : Nat) : Nat := bits w 27 16 * 32
/-- Operator i. -/
def bkOp (b : List Word) (i : Nat) : Nat := bits (wordAt b (12 + i / 8)).toNat (i % 8 * 8 + 7) (i % 8 * 8)
def bkOps (b : List Word) : List Nat := (List.range (bkNops b)).map (bkOp b)
def bkPg (b : List Word) (i : Nat) : Word := wordAt b (24 + i)
/-- Elements of every bank (R274). -/
def bkElems (b : List Word) : Nat := bkRows b * bkCols b
def bkBankList (b : List Word) : List Nat := (List.range 16).filter fun i => (bkBanks b).testBit i

/-- Pops and pushes of an operator (R277); none for a reserved code. -/
def opArity (c : Nat) : Option (Nat × Nat) :=
  if (16 ≤ c && c < 20) || (24 ≤ c && c < 32) then some (0, 1)
  else if 32 ≤ c && c ≤ 34 then some (2, 1)
  else if c = 0x23 then some (3, 1)
  else if 36 ≤ c && c ≤ 39 then some (2, 1)
  else if c = 0x28 then some (3, 1)
  else if 41 ≤ c && c ≤ 43 then some (1, 1)
  else if c = 0x2C then some (1, 2)
  else if c = 0x2D then some (1, 0)
  else if c = 0x30 then some (1, 0)
  else if 56 ≤ c && c < 64 then some (1, 0)
  else none

/-- R278: the scan of the program's stack depth. -/
def programOk : List Nat → Nat → Bool
  | [], d => decide (d = 0)
  | c :: t, d => match opArity c with
    | some (p, q) => decide (p ≤ d) && decide (d - p + q ≤ 4) && programOk t (d - p + q)
    | none => false

/-- An operator's stream, where it names one: PUSHC, STC, ST1. -/
def opStream (c : Nat) : Option Nat := if (16 ≤ c && c < 20) || (56 ≤ c && c < 64) then some (c % 4) else none

/-- R274 for one operator: its stream is defined, writable where it stores, its page used, its bytes below 128 KiB. -/
def operatorOk (b : List Word) (c : Nat) : Bool :=
  match opStream c with
  | none => true
  | some k =>
    let w := bkStream b k
    let last := if 60 ≤ c then stOff w + bkElems b * (if stFmt w = 2 then 4 else 2)
      else stOff w + (bkRowz b + bkRows b - 1) * 1024 + (bkColz b + bkCols b - 1) * 32 + 32
    stValid w && (decide (c < 56) || stWrite w) && decide (bkPg b (stPage w) ≠ 0) && decide (last ≤ 131072)

/-- Format and program (R273, R274, R278). -/
def blockOk (b : List Word) : Bool :=
  let w0 := (wordAt b 0).toNat
  let w1 := (wordAt b 1).toNat
  decide (bits w0 7 0 = 1) && decide (1 ≤ bkNops b) && decide (bkNops b ≤ 24) && decide (bits w0 15 13 = 0) && decide (bkBanks b ≠ 0)
    && decide (bits w0 35 35 = 0) && decide (bkRfmt b ≠ 3) && decide (bits w0 63 38 = 0) && decide (bits w1 23 21 = 0) && decide (bits w1 63 29 = 0)
    && decide (bits (wordAt b 5).toNat 63 32 = 0) && decide (wordAt b 6 = 0) && decide (wordAt b 7 = 0)
    && ((List.range 4).all fun k => decide (stFmt (bkStream b k) ≠ 3) && decide (bits (bkStream b k) 15 7 = 0) && decide (bits (bkStream b k) 63 28 = 0))
    && ((List.range 24).all fun i => decide (i < bkNops b) || decide (bkOp b i = 0)) && decide (wordAt b 15 = 0)
    && ((List.range 6).all fun i => decide (wordAt b (18 + i) = 0))
    && decide (bkRowz b + bkRows b ≤ 128) && decide (bkColz b + bkCols b ≤ 32)
    && programOk (bkOps b) 0 && (bkOps b).all (operatorOk b)

/-! ## Pages (R275) -/

/-- A page of a bank command: its frame's local address, or the status. `written`: a writable stream names it. -/
def State.bankPage (s : State) (ctl : Nat) (c : EngCmd) (va : Word) (written : Bool) : Except Nat Nat :=
  match tlbFind (s.core c.core).tlb c.ctx va.toNat with
  | none => .error 2
  | some p =>
    if p.sz ≠ 1 ∨ !p.pcl ∨ !p.bank ∨ p.plied then .error 3
    else if p.ro && written then .error 3
    else match s.resolveDram (p.pfn.toNat * 2 ^ 16) with
      | some (cube, a) =>
        let base := p.pfn.toNat * 2 ^ 16
        let off := a % 2 ^ 37
        let lin := (s.die (ctl / 64)).linbase.toNat
        if cube = s.cubeNum ∧ s.frameOn (ctl / 64) (some a) (base + 2 ^ 21) 512 base ∧ lin ≤ off ∧ (off - lin) % 2 ^ 21 = 0 ∧ (off - lin) / 2 ^ 21 % 64 = ctl % 64 then .ok a else .error 3
      | none => .error 3

/-- The translated list, in ascending page-list index; the first failure decides the status. -/
def State.bankPages (s : State) (ctl : Nat) (c : EngCmd) (b pgs : List Word) : List Nat → Except Nat (Tab (Option Nat))
  | [] => .ok []
  | i :: t =>
    let va := wordAt pgs i
    let written := (List.range 4).any fun k => stValid (bkStream b k) && stWrite (bkStream b k) && decide (stPage (bkStream b k) = i)
    if va = 0 then s.bankPages ctl c b pgs t
    else match s.bankPage ctl c va written with
      | .error e => .error e
      | .ok a => match s.bankPages ctl c b pgs t with
        | .error e => .error e
        | .ok l => .ok (Tab.write none l i (some a))

/-! ## Status block and end (R283, R284) -/

def BankState.code : BankState → Nat
  | .running => 1
  | .paused => 2
  | .stalled => 3
  | .ended => 4

/-- Banks that have run their whole range. -/
def BankRun.fin (r : BankRun) : Nat :=
  (bkBankList r.block).foldl (fun m b => if bkElems r.block ≤ Tab.read 0 r.next b then m + 2 ^ b else m) 0

/-- Engine flags as the status block shows them: NV, OF, UF, NX from bit 0. -/
def bankFlags (f : Flags) : BitVec 4 :=
  (if f.getLsbD 4 then 1 else 0) ||| (if f.getLsbD 2 then 2 else 0) ||| (if f.getLsbD 1 then 4 else 0) ||| (if f.getLsbD 0 then 8 else 0)

/-- The status block's sixteen words (R283). -/
def BankRun.statWords (r : BankRun) (pab : Nat) : List Word :=
  BitVec.ofNat 64 (r.state.code + (if r.state = .ended then r.status % 256 * 2 ^ 8 else 0) + r.resume % 2 ^ 16 * 2 ^ 16 + r.active.toNat * 2 ^ 32 + r.fin * 2 ^ 48)
    :: BitVec.ofNat 64 (r.flags.toNat + min r.waves 255 * 2 ^ 8 + min r.alerts 255 * 2 ^ 16 + pab % 32 * 2 ^ 24)
    :: ((List.range 4).map fun i => BitVec.ofNat 64 (((List.range 4).map fun j => Tab.read 0 r.next (4 * i + j) % 2 ^ 16 * 2 ^ (16 * j)).sum))
    ++ List.replicate 10 0

/-- The status block written whole (R283). -/
def State.writeStat (s : State) (ctl : Nat) (r : BankRun) : State := match r.stat with
  | some keys =>
    let ws := r.statWords (s.bank ctl).pab
    (keys.mapIdx fun i k => (i, k)).foldl (fun (t : State) e => t.writeWords (t.redirect r.cmd.ctx e.2) ((ws.drop (8 * e.1)).take 8)) s
  | none => s

def State.setRun (s : State) (ctl : Nat) (r : Option BankRun) : State := s.setBank ctl { s.bank ctl with run := r }

/-- A bank's accumulator. -/
def BankRun.accOf (r : BankRun) (b : Nat) : List (BitVec 32) := Tab.read (List.replicate 16 0) r.acc b

/-- An accumulator as eight words. -/
def accWords (l : List (BitVec 32)) : List Word := (List.range 8).map fun i => ((l.getD (2 * i) 0).setWidth 64) ||| ((l.getD (2 * i + 1) 0).setWidth 64 <<< 32)

/-- The writes at the end of a command, each one access (R279, R283): RES by banks, the status block, DONE. -/
def BankRun.endWrites (r : BankRun) (ctl : Nat) : List (State → State) :=
  (match r.res with
    | some keys => (bkBankList r.block).map fun b t => t.writeWords (t.redirect r.cmd.ctx (keys.getD b 0)) (accWords (r.accOf b))
    | none => [])
  ++ [fun t => t.writeStat ctl r,
      fun t => match r.done with
        | some key => t.completeAt r.cmd.ctx key (BitVec.ofNat 64 r.status)
        | none => t]

/-- The writes that are left are made, or with `single` the next one; after the last the command is gone, and the join follows. -/
def State.endStep (s : State) (ctl : Nat) (r : BankRun) (single : Bool) : State :=
  let left := (r.endWrites ctl).drop r.ending
  match left with
  | f :: _ :: _ => if single then (f s).setRun ctl (some { r with ending := r.ending + 1 })
    else ((left.foldl (fun t f => f t) s).setRun ctl none).joinCommand r.cmd (decide (r.status = 0))
  | _ => ((left.foldl (fun t f => f t) s).setRun ctl none).joinCommand r.cmd (decide (r.status = 0))

/-- The end of a command (R283, R284): RES, the status block, DONE, then the join; with the second flag the writes are made by BANK_COMMAND_END, one at
a time. Status 6 writes none of them. -/
def State.endBank (s : State) (ctl : Nat) (r : BankRun) (status : Nat) : State :=
  let r := { r with state := .ended, status := status, active := 0, steps := [] }
  if status = 6 then (s.setRun ctl none).joinCommand r.cmd false
  else if s.inp.flag2 then s.setRun ctl (some r)
  else s.endStep ctl r false

/-! ## Waves (R280) -/

/-- Banks that wait for a wave. -/
def BankRun.waiting (r : BankRun) : List Nat :=
  (bkBankList r.block).filter fun b => !r.active.getLsbD b && decide (Tab.read 0 r.next b < bkElems r.block)

/-- The banks of the next wave (R280). -/
def BankRun.wave (r : BankRun) (pab : Nat) : List Nat :=
  let w := r.waiting
  let low := w.foldl (fun m b => min m (Tab.read 0 r.next b)) (bkElems r.block)
  (w.filter fun b => decide (Tab.read 0 r.next b = low)).take (if bkAbm r.block then min pab 16 else 1)

/-- A wave forms where no bank is active and some wait (R280). -/
def BankRun.formWave (r : BankRun) (pab : Nat) : BankRun :=
  if r.active = 0 ∧ r.waiting ≠ [] then { r with active := (r.wave pab).foldl (fun m b => m ||| (1 <<< b)) 0, waves := min 255 (r.waves + 1) } else r

/-! ## Start (R272, R275) -/

/-- Lanes of an accumulator image of eight words. -/
def accOfWords (ws : List Word) : List (BitVec 32) := ws.flatMap fun (w : Word) => [w.setWidth 32, (w >>> 32).setWidth 32]

/-- NEXT of every bank, from a status block (R283). -/
def State.savedNext (s : State) (key : Nat) : Tab Nat :=
  (List.range 16).foldl (fun t i => Tab.write 0 t i (leVal (s.bytes (key + 16 + 2 * i) 2))) []

/-- The accumulator image a bank starts from: RES under CONT, offset 2,304 with ACCI, else +0 (R273, R283). -/
def State.firstAcc (s : State) (b : List Word) (res : Option (List Nat)) (bank : Nat) : List Word :=
  match (if bkCont b then res else none) with
  | some keys => s.wordsAt (keys.getD bank 0) 8
  | none => if bkAcci b then (b.drop (288 + 8 * bank)).take 8 else List.replicate 8 0

/-- NEXT and accumulators at start (R273, R280, R283). -/
def State.bankInit (s : State) (b : List Word) (stat res : Option (List Nat)) : Tab Nat × Tab (List (BitVec 32)) :=
  (match (if bkCont b then stat else none) with
    | some keys => s.savedNext (keys.headD 0)
    | none => [],
   (bkBankList b).foldl (fun t i => Tab.write (List.replicate 16 0) t i (accOfWords (s.firstAcc b res i))) [])

/-- The first command of an inbox that a test accepts, and the rest. -/
def takeCommand (p : EngCmd → Bool) : List EngCmd → Option (EngCmd × List EngCmd)
  | [] => none
  | c :: t => if p c then some (c, t) else (takeCommand p t).map fun r => (r.1, c :: r.2)

/-- BANK_COMMAND_START (R272 to R275): an idle controller takes the first command from its inbox; the status block's first write shows the first wave
(R331). -/
def execBankCommandStart (s : State) : Outcome State Fault Refusal :=
  .next (
    let ctl := s.inp.part
    let k := s.bank ctl
    match k.run, takeCommand (fun c => decide (s.formatOf c ≠ 2)) k.inbox with
    | none, some (c, rest) =>
      let s1 := s.setBank ctl { k with inbox := rest }
      match s1.readCommand c 52 c.addr with
      | none => s1.joinCommand c false
      | some b =>
        let done := s.reportPlace c (bkDone b) 8
        let stat := s.reportLines c (bkStat b) 2
        let res := if bkRes b = 0 then none else s.reportLines c (bkRes b) 16
        let (next, acc) := s.bankInit b (stat.map fun l => l.map (s.redirect c.ctx)) (res.map fun l => l.map (s.redirect c.ctx))
        let r : BankRun := { cmd := c, block := b, pages := [], virt := [], state := .running, status := 0, resume := 0, active := 0, next := next,
                             acc := acc, flags := 0, waves := 0, alerts := 0, alert := false, stallDue := false, resumeDue := false, lstmo := bkLstmo b, stallSince := 0, eccu := false,
                             done := done, stat := stat, res := res }
        if !blockOk b then s1.endBank ctl r 1
        else if done.isNone || stat.isNone || (decide (bkRes b ≠ 0) && res.isNone) then s1.endBank ctl r 1
        else match s.bankPages ctl c b ((b.drop 24).take 8) (List.range 8) with
          | .error e => s1.endBank ctl r e
          | .ok pages =>
            let r := { r with pages := pages, virt := tabOfWords 0 ((b.drop 24).take 8) }.formWave k.pab
            (s1.setRun ctl (some r)).writeStat ctl r
    | _, _ => s)

/-! ## The engine program (R276, R277) -/

/-- A NaN result is the canonical one. -/
def canonNan (n : Nat) : Nat := if (fp32.unpack n).isNan then fp32.qnan else n

/-- Exact widening to FP32 of a column or register element. -/
def widen (f : Fmt) (n : Nat) : Nat :=
  match f.unpack n with
  | .nan _ => fp32.signBit (decide (n / 2 ^ (f.eb + f.mb) % 2 = 1)) + fp32.expMax * 2 ^ 23 + n % 2 ^ f.mb * 2 ^ (23 - f.mb)
  | _ => (cvtFloat f fp32 .nearest none (f.opnd n)).1

/-- Format codes of streams and registers (R273). -/
def bankFmt (c : Nat) : Fmt := if c = 0 then fp16 else if c = 1 then bf16 else fp32

/-- Sixteen lanes from 32 bytes (R276). -/
def readLanes (c : Nat) (bs : List Byte) : List Nat :=
  let f := bankFmt c
  let w := f.width / 8
  (List.range 16).map fun i => if i * w < 32 then widen f (leVal ((bs.drop (i * w)).take w)) else 0

/-- A lane rounded to a stream's format (R276); a NaN is the canonical one (R68). -/
def narrow (c n : Nat) : Nat × Flags :=
  if c = 2 then (canonNan n, 0)
  else
    let f := bankFmt c
    let (v, g) := cvtFloat fp32 f .nearest none (fp32.opnd n)
    (if (f.unpack v).isNan then f.qnan else v, g)

/-- The bank engine's work on an element: the value stack, the accumulator, memory, the flags. -/
structure BankWork where
  stack : List (List Nat)
  acc : List Nat
  st : State
  flags : Flags
  eccu : Bool
  /-- the engine thread's timestamp (R220). -/
  pts : Nat

/-- Lane by lane, with flags collected. -/
def mapLanes (f : Nat → Nat × Flags) (a : List Nat) : List Nat × Flags :=
  (a.map fun x => canonNan (f x).1, a.foldl (fun g x => g ||| (f x).2) 0)

def zipLanes (f : Nat → Nat → Nat × Flags) (a b : List Nat) : List Nat × Flags :=
  mapLanes (fun i => f (a.getD i 0) (b.getD i 0)) (List.range 16)

def one32 : Nat := 0x3F800000

/-- A binary operator of one lane. -/
def bankBinary (c : Nat) (x y : Nat) : Nat × Flags :=
  let a := fp32.opnd x
  let b := fp32.opnd y
  let nan := a.num.isNan || b.num.isNan
  if c = 0x20 then fadd fp32 .nearest a b
  else if c = 0x21 then fsub fp32 .nearest a b
  else if c = 0x22 then fmul fp32 .nearest a b
  else if c = 0x24 then fminmax fp32 false a b
  else if c = 0x25 then fminmax fp32 true a b
  else if c = 0x26 then (if nan then (0, flagNV) else (if (fcompare 1 a b).1 then one32 else 0, 0))
  else (if nan then (0, flagNV) else (if (fcompare 0 a b).1 then one32 else 0, 0))

/-- SEL of one lane. -/
def bankSel (a b c : Nat) : Nat := if (fp32.unpack c).isNan || (fp32.unpack c).isZero then b else a

/-- The local address of stream k's column of a bank at an element; of its ST1 slot with `one`. -/
def BankRun.column (r : BankRun) (bank k e : Nat) (one : Bool) : Nat :=
  let w := bkStream r.block k
  let frame := (Tab.read none r.pages (stPage w)).getD 0
  let off := if one then stOff w + e * (if stFmt w = 2 then 4 else 2)
    else stOff w + (bkRowz r.block + e / bkCols r.block) * 1024 + (bkColz r.block + e % bkCols r.block) * 32
  frame + bank * 131072 + off

/-- A store of a bank engine, at its thread's timestamp (R220); the top of the stack is popped. -/
def BankWork.store (q : BankWork) (key : Nat) (bs : List Byte) (g : Flags) : BankWork :=
  let (pts, st) := (q.st.putBase key bs).stampStore q.pts (stampOf key)
  { q with stack := q.stack.tail, flags := q.flags ||| g, st := st, pts := pts }

/-- One operator of a bank at an element. -/
def BankWork.op (q : BankWork) (r : BankRun) (bank e : Nat) (c : Nat) : BankWork :=
  let k := c % 4
  let w := bkStream r.block k
  let key := r.column bank k e false
  if c < 20 then
    let (pts, st) := q.st.stampLoad q.pts (stampOf key)
    let lanes := if q.st.uncorrectable key then (List.range 16).map fun i => if i * (bankFmt (stFmt w)).width < 256 then fp32.qnan else 0
      else readLanes (stFmt w) (q.st.bytes key 32)
    { q with stack := lanes :: q.stack, st := st, pts := pts, eccu := q.eccu || q.st.uncorrectable key }
  else if c < 28 then { q with stack := readLanes (bkRfmt r.block) (bytesOfWords ((r.block.drop (32 + (4 * bank + k) * 4)).take 4)) :: q.stack }
  else if c < 32 then
    { q with stack := List.replicate 16 (bits (wordAt r.block (16 + k / 2)).toNat (k % 2 * 32 + 31) (k % 2 * 32)) :: q.stack }
  else if 60 ≤ c then
    let (v, g) := narrow (stFmt w) ((q.stack.headD []).getD 0 0)
    q.store (r.column bank k e true) (leBytes ((bankFmt (stFmt w)).width / 8) v) g
  else if 56 ≤ c then
    let f := bankFmt (stFmt w)
    let vs := (((q.stack.headD []).take (256 / f.width)).map (narrow (stFmt w)))
    q.store key (vs.flatMap fun x => leBytes (f.width / 8) x.1) (vs.foldl (fun g x => g ||| x.2) 0)
  else if c = 0x30 then
    let (v, g) := zipLanes (fun x y => fadd fp32 .nearest (fp32.opnd x) (fp32.opnd y)) q.acc (q.stack.headD [])
    { q with acc := v, flags := q.flags ||| g, stack := q.stack.tail }
  else match q.stack with
    | [] => q
    | x :: t =>
      if c = 0x2C then { q with stack := x :: x :: t }
      else if c = 0x2D then { q with stack := t }
      else if c = 0x2B then
        let (v, g) := treeSum (fun a b => fadd fp32 .nearest (fp32.opnd a) (fp32.opnd b)) 4 (x.map some)
        { q with stack := (canonNan (v.getD 0) :: List.replicate 15 0) :: t, flags := q.flags ||| g }
      else if c = 0x29 ∨ c = 0x2A then
        let (v, g) := mapLanes (fun a =>
          let (n, h) := narrow (c - 0x29) a
          (widen (bankFmt (c - 0x29)) n, h)) x
        { q with stack := v :: t, flags := q.flags ||| g }
      else match t with
        | [] => q
        | y :: t2 =>
          if c = 0x23 ∨ c = 0x28 then
            let z := t2.headD []
            let (v, g) := if c = 0x23 then
                mapLanes (fun i => fmadd fp32 .nearest false false (fp32.opnd (z.getD i 0)) (fp32.opnd (y.getD i 0)) (fp32.opnd (x.getD i 0))) (List.range 16)
              else ((List.range 16).map fun i => bankSel (z.getD i 0) (y.getD i 0) (x.getD i 0), 0)
            { q with stack := v :: t2.tail, flags := q.flags ||| g }
          else
            let (v, g) := zipLanes (bankBinary c) y x
            { q with stack := v :: t2, flags := q.flags ||| g }

/-- The banks that are active. -/
def BankRun.activeBanks (r : BankRun) : List Nat := (List.range 16).filter r.active.getLsbD

/-- An operator that accesses memory (R279). -/
def isColumnOp (c : Nat) : Bool := decide (c < 20) || decide (56 ≤ c)

/-- Operators from number n on: all of them, or up to and with the first access. -/
def BankRun.perform (r : BankRun) (bank e : Nat) (single : Bool) : List Nat → Nat → BankWork → BankWork × Nat
  | [], n, q => (q, n)
  | c :: t, n, q =>
    if single && isColumnOp c then (q.op r bank e c, n + 1) else r.perform bank e single t (n + 1) (q.op r bank e c)

/-- One bank performs its next element, or with `single` one access of it. -/
def BankRun.element (r : BankRun) (s : State) (bank : Nat) (single : Bool) : BankRun × State :=
  let e := Tab.read 0 r.next bank
  let p := (Tab.read none r.steps bank).getD ⟨0, [], r.accOf bank, 0, false⟩
  let (q, n) := r.perform bank e single ((bkOps r.block).drop p.op) p.op ⟨p.stack, p.acc.map BitVec.toNat, s, p.flags, p.eccu, r.cmd.pts⟩
  let acc := q.acc.map (BitVec.ofNat 32)
  let r1 := { r with cmd := { r.cmd with pts := q.pts } }
  (if n < bkNops r.block then { r1 with steps := Tab.write none r.steps bank (some ⟨n, q.stack, acc, q.flags, q.eccu⟩) }
    else { r1 with
      steps := Tab.write none r.steps bank none
      next := Tab.write 0 r.next bank (e + 1)
      acc := Tab.write (List.replicate 16 0) r.acc bank acc
      flags := r.flags ||| bankFlags q.flags
      eccu := r.eccu || q.eccu }, q.st)

/-- The element that the wave performs: the least NEXT of its banks. -/
def BankRun.front (r : BankRun) : Nat := r.activeBanks.foldl (fun m b => min m (Tab.read 0 r.next b)) (bkElems r.block)
/-- Some bank of the wave has begun the element, and not all have ended it. -/
def BankRun.midElement (r : BankRun) : Bool := decide (r.steps ≠ []) || r.activeBanks.any fun b => decide (Tab.read 0 r.next b ≠ r.front)

/-- R280, lower limit: active banks beyond the first PAB stop; RESUME records the following element. -/
def BankRun.throttle (r : BankRun) (pab : Nat) : BankRun :=
  let on := r.activeBanks
  if on.length ≤ pab then r
  else { r with active := (on.take pab).foldl (fun m b => m ||| (1 <<< b)) 0, resume := Tab.read 0 r.next (on.headD 0) }

/-- Banks that have finished their range leave the wave. -/
def BankRun.dropDone (r : BankRun) : BankRun :=
  { r with active := (r.activeBanks.filter fun b => decide (Tab.read 0 r.next b < bkElems r.block)).foldl (fun m b => m ||| (1 <<< b)) 0 }

/-- WAVE_FORMATION (R280). -/
def execWaveFormation (s : State) : Outcome State Fault Refusal :=
  .next (
    let ctl := s.inp.part
    match (s.bank ctl).run with
    | some r =>
      if r.state = .running ∧ r.active = 0 ∧ r.waiting ≠ [] then
        s.setRun ctl (some (r.formWave (s.bank ctl).pab))
      else s
    | none => s)

/-- The wave's following index. -/
def BankRun.following (r : BankRun) : Nat := match r.activeBanks with
  | b :: _ => Tab.read 0 r.next b
  | [] => r.resume

/-- An element boundary (R280 to R282, R285): an alert pauses the command first; a TLBI's stall follows; else the lower limit acts. -/
def BankRun.boundary (r : BankRun) (pab now : Nat) : BankRun :=
  let r1 := r.dropDone
  if r.alert then { r1 with state := .paused, resume := r.following }
  else if r.stallDue then { r1 with state := .stalled, resume := r.following, stallDue := false, stallSince := now }
  else r1.throttle pab

/-- BANK_ELEMENT (R276 to R281): every bank of the wave performs its next element, in lockstep; with the second flag, one bank one access. -/
def execBankElement (s : State) : Outcome State Fault Refusal :=
  .next (
    let ctl := s.inp.part
    match (s.bank ctl).run with
    | some r =>
      if r.state = .running ∧ r.active ≠ 0 then
        let todo := r.activeBanks.filter fun b => decide (Tab.read 0 r.next b = r.front)
        let (r1, s1) := if s.inp.flag2 then (if todo.contains s.inp.slot then r.element s s.inp.slot true else (r, s))
          else todo.foldl (fun (q : BankRun × State) b => q.1.element q.2 b false) (r, s)
        if r1.midElement ∨ r1.next = r.next then s1.setRun ctl (some r1)
        else
          let r2 := r1.boundary (s.bank ctl).pab s.gtime
          let s2 := s1.setRun ctl (some r2)
          if r2.state = r.state then s2 else s2.writeStat ctl r2
      else s
    | none => s)

/-- DISTURBANCE_ALERT (R281, R285): the controller backs off at the end of the element; during a stall the alert is noted. -/
def execDisturbanceAlert (s : State) : Outcome State Fault Refusal :=
  .next (
    let ctl := s.inp.part
    match (s.bank ctl).run with
    | some r =>
      if r.alert then s
      else
        let r1 := { r with alert := true, alerts := min 255 (r.alerts + 1) }
        if r.state = .running ∧ !r.midElement then
          let r2 := { r1 with state := .paused, resume := r.following }
          (s.setRun ctl (some r2)).writeStat ctl r2
        else if r.state = .running ∨ r.state = .stalled then s.setRun ctl (some r1) else s
    | none => s)

/-- ALERT_CLEAR (R281, R285): the wave resumes, or the command stalls where a TLBI came in the meantime. -/
def execAlertClear (s : State) : Outcome State Fault Refusal :=
  .next (
    let ctl := s.inp.part
    match (s.bank ctl).run with
    | some r =>
      if !r.alert then s
      else
        let r1 := { r with alert := false }
        if r.state = .paused then
          let r2 := if r.stallDue then { r1 with state := .stalled, stallDue := false, stallSince := s.gtime }
            else { r1 with state := .running }.throttle (s.bank ctl).pab
          (s.setRun ctl (some r2)).writeStat ctl r2
        else if r.state = .stalled then
          if r.resumeDue then
            let r2 := { r1 with state := .running, resumeDue := false }.throttle (s.bank ctl).pab
            (s.setRun ctl (some r2)).writeStat ctl r2
          else s.setRun ctl (some r1)
        else s
    | none => s)

/-! ## Shootdown and refresh (R282) -/

/-- A page of 2^shift bytes at `va` meets the range of 2^n bytes that holds `x`. -/
def overlaps (va shift x n : Nat) : Bool := decide (va / 2 ^ max shift n = x / 2 ^ max shift n)

/-- A command's page list holds a page of a context's range. -/
def BankRun.names (r : BankRun) (ctx x n : Nat) (all : Bool) : Bool :=
  decide (r.cmd.ctx = ctx) && r.pages.any fun e => e.2.isSome && (all || overlaps (Tab.read 0 r.virt e.1).toNat 21 x n)

/-- A TLBI of a context's range reaches a running command that holds a page of it (R282, R285). -/
def BankRun.shootdown (r : BankRun) (ctx x n now : Nat) (all : Bool) : BankRun :=
  if r.names ctx x n all then
    match r.state with
    | .running => if r.midElement then { r with stallDue := true } else { r with state := .stalled, stallSince := now, resume := r.following }
    | .stalled => { r with stallSince := now, resumeDue := false }
    | .paused => { r with stallDue := true }
    | .ended => r
  else r

/-- A command that holds a page of the range has not stalled yet. -/
def State.stallPending (s : State) (ctx x n : Nat) (all : Bool) : Bool :=
  s.banks.any fun e => match e.2.run with
    | some r => r.stallDue && r.names ctx x n all
    | none => false

/-- A TLBI at every controller. -/
def State.stallBanks (s : State) (ctx x n : Nat) (all : Bool) : State :=
  s.banks.foldl (fun (t : State) e => match e.2.run with
    | some r =>
      let r1 := r.shootdown ctx x n s.gtime all
      if r1 = r then t
      else
        let t1 := t.setRun e.1 (some r1)
        if r1.state = r.state then t1 else t1.writeStat e.1 r1
    | none => t) s

/-- REFRESH_BLOCK (R282): the first refresh block in the inbox, at an element boundary of the command that runs. The command is named by the context
and its STAT. -/
def execRefreshBlock (s : State) : Outcome State Fault Refusal :=
  .next (
    let ctl := s.inp.part
    let k := s.bank ctl
    match takeCommand (fun c => decide (s.formatOf c = 2)) k.inbox with
    | none => s
    | some (c, rest) =>
      if (match k.run with
        | some r => r.midElement
        | none => false) then s
      else
      let s1 := s.setBank ctl { k with inbox := rest }
      match s1.readCommand c 2 c.addr with
      | none => s1.joinCommand c false
      | some b =>
        let done := if wordAt b 2 = 0 then none else s.reportPlace c (wordAt b 2) 8
        let report (t : State) (status : Nat) : State :=
          let t1 := match done with
            | some key => t.completeAt c.ctx key (BitVec.ofNat 64 status)
            | none => t
          t1.joinCommand c (decide (status = 0))
        let wellFormed := decide (wordAt b 0 = 2) && ((List.range 5).all fun i => decide (wordAt b (3 + i) = 0)) && (decide (wordAt b 2 = 0) || done.isSome)
        match k.run with
        | some r =>
          if wellFormed ∧ r.cmd.ctx = c.ctx ∧ wordAt b 1 = bkStat r.block ∧ r.state ≠ .ended then
            match s.bankPages ctl c r.block (b.drop 8) (List.range 8) with
            | .error e => report (s1.endBank ctl r e) e
            | .ok pages =>
              let r1 := { r with pages := pages, virt := tabOfWords 0 ((b.drop 8).take 8) }
              if r.state = .stalled then
                if r.alert then report (s1.setRun ctl (some { r1 with resumeDue := true })) 0
                else
                  let r2 := { r1 with state := .running }.throttle k.pab
                  report ((s1.setRun ctl (some r2)).writeStat ctl r2) 0
              else report (s1.setRun ctl (some r1)) 0
          else report s1 1
        | none => report s1 1)

/-- LSTMO_TIMEOUT (R282): no refresh has resumed a stalled command in time. -/
def execLstmoTimeout (s : State) : Outcome State Fault Refusal :=
  .next (
    let ctl := s.inp.part
    match (s.bank ctl).run with
    | some r =>
      if r.state = .stalled ∧ r.lstmo * 1000 ≤ s.gtime - r.stallSince then
        let cluster := r.cmd.core / 8
        (s.endBank ctl r 5).note cluster r.cmd.ctx (ctl / 64 * 1024 + 512 + 64 + ctl % 64) .liststale r.cmd.addr
      else s
    | none => s)

/-- BANK_COMMAND_END (R283, R284): every bank has run its whole range; or the writes of an end that has begun go on. -/
def execBankCommandEnd (s : State) : Outcome State Fault Refusal :=
  .next (
    let ctl := s.inp.part
    match (s.bank ctl).run with
    | some r =>
      if r.state = .ended then s.endStep ctl r s.inp.flag2
      else if r.state = .running ∧ r.active = 0 ∧ r.waiting = [] then s.endBank ctl r (if r.eccu then 4 else 0) else s
    | none => s)

/-- A wave that is in the middle of an element ends it (R284: a reset takes effect at the boundary). -/
def State.endElement (s : State) (ctl : Nat) : State := match (s.bank ctl).run with
  | some r =>
    if r.midElement then
      let (r1, s1) := (r.activeBanks.filter fun b => decide (Tab.read 0 r.next b = r.front)).foldl (fun (q : BankRun × State) b => q.1.element q.2 b false) (r, s)
      s1.setRun ctl (some r1)
    else s
  | none => s

end Sys2Proof.Machine
end

