-- ==== Sys2Proof/Machine/TensorMap.lean ====
section
/-! DEFINITION. Tensor maps (R85, R86): fields, checks, addresses of elements and headers; runs of bytes of a transfer cut at
64-byte lines and checked (R202, R206). -/

namespace Sys2Proof.Machine

open Sys2Proof Host

/-- A tensor map by its fields (R85). -/
structure TMap where
  base : Word
  ext : List Nat
  str : List Int
  fmt : Nat
  ndim : Nat
  plyx : Bool
  plyt : BitVec 16
  zpad : Bool
  trans : Bool
  gsz : Nat
  /-- the bits that must be zero: [7] and [31:28] of the last word. -/
  rsv : Nat
  deriving DecidableEq, Repr

/-- Read tm[N] (R85). -/
def tmapOf (v : BitVec 256) : TMap :=
  let n := v.toNat
  { base := BitVec.ofNat 64 (bits n 63 0)
    ext := [bits n 79 64, bits n 95 80, bits n 111 96, bits n 127 112]
    str := [intOf true 32 (bits n 159 128), intOf true 32 (bits n 191 160), intOf true 32 (bits n 223 192)]
    fmt := bits n 227 224, ndim := bits n 229 228, plyx := n.testBit 230, plyt := BitVec.ofNat 16 (bits n 247 232)
    zpad := n.testBit 248, trans := n.testBit 249, gsz := bits n 251 250, rsv := bits n 231 231 + bits n 255 252 }

def TMap.extRaw (m : TMap) (i : Nat) : Nat := m.ext.getD i 0
/-- The extent of a dimension; 1 above NDIM (R202). -/
def TMap.extent (m : TMap) (i : Nat) : Nat := if i ≤ m.ndim then m.extRaw i else 1
/-- The stride of dimension 1 to 3. -/
def TMap.stride (m : TMap) (i : Nat) : Int := m.str.getD (i - 1) 0
def TMap.group (m : TMap) : Nat := gszOf m.gsz
/-- HOFF of a Q map. -/
def TMap.hoff (m : TMap) : Int := m.stride 3
/-- Bytes of an element for alignment; a Q4 element counts as one (R86). -/
def TMap.bytes (m : TMap) : Nat := (elemBitsOf m.fmt + 7) / 8

/-- R86: the conditions of TSHAPE. -/
def TMap.misshapen (m : TMap) : Bool :=
  let q := isQ m.fmt
  decide (m.fmt = 0) || decide (11 ≤ m.fmt) || decide (m.rsv ≠ 0)
    || ((List.range 4).any fun i => if i ≤ m.ndim then decide (m.extRaw i = 0)
        else decide (m.extRaw i ≠ 0) || (decide (m.stride i ≠ 0) && !(q && decide (i = 3))))
    || (q && (decide (m.ndim = 3) || decide (m.gsz = 3) || decide (m.extRaw 0 % m.group ≠ 0)))
    || (!q && decide (m.gsz ≠ 0))

/-- R86: the conditions of ALIGN. -/
def TMap.misaligned (m : TMap) : Bool :=
  decide (m.base.toNat % m.bytes ≠ 0)
    || ([1, 2, 3].any fun i => decide (i ≤ m.ndim) && decide (m.stride i % m.bytes ≠ 0))
    || (isQ m.fmt && decide (m.hoff % headerBytes m.fmt ≠ 0))

/-- The address of element (i0, i1, i2, i3) (R85); the byte that holds it for Q4. -/
def TMap.addr (m : TMap) (i0 i1 i2 i3 : Nat) : Word :=
  m.base + BitVec.ofInt 64 (((i0 * elemBitsOf m.fmt / 8 : Nat) : Int) + i1 * m.stride 1 + i2 * m.stride 2
    + (if isQ m.fmt then 0 else i3 * m.stride 3))
/-- The address of header g of dimension-0 row (i1, i2) (R85). -/
def TMap.headerAddr (m : TMap) (i1 i2 g : Nat) : Word :=
  m.base + BitVec.ofInt 64 (m.hoff + (((i1 + i2 * m.extent 1) * (m.extent 0 / m.group) + g) * headerBytes m.fmt : Nat))

/-- The tag of a transfer through a map (R203): PLYT, else the strand's PLY, 0 on a spindle core. -/
def State.mapTag (s : State) (m : TMap) : BitVec 16 := if m.plyx then m.plyt else s.myTag

/-! ## Runs of bytes -/

/-- Bytes in a row in memory: where, their index in the operation's buffer, how many, the lane reported on an event. -/
structure Run where
  va : Word
  idx : Nat
  n : Nat
  lane : Nat
  spoil : Spoil
  deriving DecidableEq, Repr

/-- A run cut at the 64-byte lines it crosses. -/
def cutRun : Nat → Run → List Run
  | 0, _ => []
  | f + 1, r =>
    if r.n = 0 then []
    else
      let k := min r.n (64 - r.va.toNat % 64)
      { r with n := k } :: cutRun f { r with va := r.va + BitVec.ofNat 64 k, idx := r.idx + k, n := r.n - k }

def cutRuns (rs : List Run) : List Run := rs.flatMap fun r => cutRun (r.n / 64 + 2) r

/-- A run's place, once it is checked. -/
structure Placed where
  run : Run
  loc : Loc
  deriving DecidableEq, Repr

/-- The checks of R89 step 10 for a run that lies within a line. `ok`: what else the form refuses with PERM; CPY is `exempt` from PLYREMOTE
(R207). -/
def State.checkRun (s : State) (ok : Loc → Bool) (acc : Access) (tag : BitVec 16) (sideEffect exempt : Bool) (r : Run) : Res Loc :=
  match s.locate (coreOf s.cur) s.myCtx r.va acc tag with
  | .error c => raiseAt c r.va r.lane
  | .ok l =>
    if !ok l then raiseAt .perm r.va r.lane
    else if s.farPly l tag && !exempt then raiseAt .plyremote r.va r.lane
    else if sideEffect && s.me.recfree && !l.plied then raiseAt .sidefx r.va r.lane
    else if !l.scratch && s.rangeHeld l.gpa then stall .operations
    else .ok l

/-- Check runs in order. -/
def State.checkRuns (s : State) (ok : Loc → Bool) (acc : Access) (tag : BitVec 16) (sideEffect exempt : Bool) : List Run → Res (List Placed)
  | [] => .ok []
  | r :: t => do
    let l ← s.checkRun ok acc tag sideEffect exempt r
    let ps ← s.checkRuns ok acc tag sideEffect exempt t
    .ok (⟨r, l⟩ :: ps)

/-- A run as a move of an operation in flight. -/
def State.moveOf (s : State) (tag : BitVec 16) (p : Placed) : Move :=
  { place := if s.isLocal p.loc then .mem p.loc.key s.myCtx (if p.loc.plied then tag else 0) else .remote p.loc.cube p.loc.gpa (if p.loc.plied then tag else 0)
    idx := p.run.idx, n := p.run.n, spoil := p.run.spoil, conf := p.loc.conf, homing := p.loc.homing }

/-- The line a move lies in: its cube's line number, apart for this cube and the others. -/
def Move.line (m : Move) : Nat × Nat := match m.place with
  | .mem key _ _ => (0, key / 64)
  | .remote cube addr _ => (cube + 1, addr / 64)
  | .tile c off => (2 ^ 21 + c, off / 64)
  | .zero => (2 ^ 22, 0)

/-- Put a move beside those of its line. -/
def joinMove (m : Move) : List (List Move) → List (List Move)
  | [] => [[m]]
  | g :: t => if g.head?.map Move.line = some m.line then (g ++ [m]) :: t else g :: joinMove m t

/-- The accesses of a transfer: one for each line (R203, R204, R206). -/
def groupMoves (ms : List Move) : List (List Move) := ms.foldl (fun gs m => joinMove m gs) []

end Sys2Proof.Machine
end

