-- ==== Sys2Proof/Machine/EngineOps.lean ====
section
/-! DEFINITION. How an engine operation in flight (R203 to R210) makes its accesses: one line at a time, each one access in the
global order; and the completion words of engines. -/

namespace Sys2Proof.Machine

open Sys2Proof Host

/-- A place of this cube as the access operations take it; its tag is already 0 where the page is not plied. -/
def State.engineLoc (s : State) (key : Nat) (tag : BitVec 16) : Loc := ⟨s.cubeNum, key, key, decide (tag ≠ 0), false, isScratchKey key, 0, 0⟩

/-- n bytes of canonical NaNs of a format. -/
def nanBytes (f : Fmt) (n : Nat) : List Byte := (List.range n).map fun i => (leBytes (f.width / 8) f.qnan).getD (i % (f.width / 8)) 0

/-- What uncorrectable source data loads as (R203). -/
def spoiled (sp : Spoil) (ord idx n : Nat) : List Byte :=
  match sp with
  | .none => (List.range n).map fun i => Config.spoiledByte ord (idx + i)
  | .bf16 => nanBytes bf16 n
  | .f16 => nanBytes fp16 n
  | .f32 => nanBytes fp32 n
  | .f64 => nanBytes fp64 n
  | .q8header => (List.range n).map fun i => (leBytes 4 0xFF0).getD ((idx + i) % 4) 0
  | .q4header => (List.range n).map fun i => (leBytes 2 0xFF00).getD ((idx + i) % 2) 0

/-- Bytes of a Q header that loads as poison whole (R203); 0 for other data. -/
def Spoil.header : Spoil → Nat
  | .q8header => 4
  | .q4header => 2
  | _ => 0

/-- Put bytes into an operation's buffer. -/
def bufPut (t : Tab (Option Byte)) (i : Nat) : List Byte → Tab (Option Byte)
  | [] => t
  | b :: r => bufPut (Tab.write none t i (some b)) (i + 1) r

/-- Bytes of the buffer; none where one has not come. -/
def bufGet (t : Tab (Option Byte)) (i : Nat) : Nat → Option (List Byte)
  | 0 => some []
  | n + 1 => match Tab.read none t i, bufGet t (i + 1) n with
    | some b, some r => some (b :: r)
    | _, _ => none

/-- The first status that is not success stands (R209). -/
def Op.fail (o : Op) (status : Nat) : Op := { o with status := if o.status = 0 then status else o.status, engerr := true }

/-- The status of a command for what a packet met: UNREACH, CTXGONE, uncorrectable data (4: DESIGN CHOICE, log entry 13), or a refusal
(R209, R210). -/
def Op.statusOf (o : Op) (status : Nat) : Nat := match o.kind with
  | .coll _ => if status = 1 then 2 else if status = 4 then 4 else 3
  | _ => if status = 1 then 1 else if status = 2 then 2 else if status = 4 then 4 else 3

/-- Every byte of some moves has come. -/
def Op.ready (o : Op) (g : List Move) : Bool := g.all fun m => (bufGet o.buf m.idx m.n).isSome

/-- The line of memory that a place lies in. -/
def Place.line : Place → Option (Nat × Nat × Nat)
  | .mem key c _ => some (0, c, key / 64)
  | .remote c a _ => some (1, c, a / 64)
  | _ => none

/-- Writes without the lines that some part of the buffer would go to (R207: a line with uncorrectable data is not written). -/
def dropBytes (ws : List (List Move)) (i n : Nat) : List (List Move) :=
  let hit (g : List Move) : Bool := g.any fun m => decide (m.idx < i + n) && decide (i < m.idx + m.n)
  let lines := ((ws.filter hit).flatMap fun g => g.filterMap fun m => m.place.line)
  ws.filter fun g => !hit g && !(g.any fun m => (m.place.line.map lines.contains).getD false)

/-- Marks of the buffer's bytes that belong to a poisoned header stand from here on. -/
def poisonIdx : Nat := 2 ^ 50

/-- Uncorrectable bytes of a load (R203): every header they have a part in is poison. -/
def Op.poison (o : Op) (m : Move) : Op :=
  let h := m.spoil.header
  if h = 0 then { o.fail 4 with buf := bufPut o.buf m.idx (spoiled m.spoil o.ord m.idx m.n), eccu := true }
  else
    let a := m.idx / h * h
    let n := (m.idx + m.n + h - 1) / h * h - a
    { o.fail 4 with eccu := true, buf := bufPut (bufPut o.buf a (spoiled m.spoil o.ord a n)) (poisonIdx + a) (List.replicate n 1) }

/-- Bytes of a load; a byte of a poisoned header stays as it is. -/
def Op.load (o : Op) (m : Move) (bs : List Byte) : Op :=
  if m.spoil.header = 0 then { o with buf := bufPut o.buf m.idx bs }
  else { o with buf := (bs.mapIdx fun i b => (m.idx + i, b)).foldl (fun (t : Tab (Option Byte)) e =>
    if (Tab.read none t (poisonIdx + e.1)).isSome then t else Tab.write none t e.1 (some e.2)) o.buf }

/-- A line read with a tag that a PLYRET has retired (R141): status 3 where the command has a status, and what it was for is not written; a TLD's
bytes are open (Config.spoiledByte), its engine error set (DESIGN CHOICE, log entry 84). -/
def Op.deadTag (o : Op) (m : Move) : Op := match o.kind with
  | .tld _ => { o.fail 3 with buf := bufPut o.buf m.idx (spoiled .none o.ord m.idx m.n) }
  | _ => { o.fail 3 with writes := dropBytes o.writes m.idx m.n }

/-- Read one move of this cube into the buffer. -/
def State.readMove (s : State) (o : Op) (m : Move) : Op :=
  match m.place with
  | .mem key0 ctx tag =>
    let key := s.redirect ctx key0
    if !s.tagLive ctx tag then o.deadTag m
    else if s.uncorrectable key then
      match o.kind with
      | .tld _ => o.poison m
      | .coll _ => { o.fail 4 with buf := bufPut o.buf m.idx (spoiled m.spoil o.ord m.idx m.n) }
      | _ => { o.fail 4 with writes := dropBytes o.writes m.idx m.n }
    else o.load m (s.view ctx (s.engineLoc key tag) m.n tag)
  | .tile c off => { o with buf := bufPut o.buf m.idx ((s.cluster c).tileBytes 0 off m.n) }
  | .remote _ _ _ => o
  | .zero => { o with buf := bufPut o.buf m.idx (List.replicate m.n 0) }

/-- The stamp of an access to this cube's memory (R220); `made`: the write has made its cell. -/
def State.stampOp (s : State) (o : Op) (ms : List Move) (store made : Bool) : State × Op :=
  match ms.head?.map Move.place with
  | some (.mem key ctx tag) =>
    let l := s.engineLoc (s.redirect ctx key) tag
    let (t, s') := if store then s.stampWrite made o.pts ctx l tag else s.stampLoad o.pts (s.stampKey ctx l tag)
    (s', { o with pts := t })
  | _ => (s, o)

/-- plywrite of an engine, with the lines taken for it at issue (R204). -/
def State.putEngine (s : State) (o : Op) (ctx key : Nat) (tag : BitVec 16) (bs : List Byte) : Option (State × Op) :=
  (s.putTaken ctx (s.engineLoc key tag) bs tag o.pool).map fun r => (r.1, { o with pool := r.2 })

/-- The engine unit that sends an operation's packets (R295). -/
def Op.engineUnit (o : Op) : Nat :=
  let core := coreOf o.party
  match o.kind with
  | .coll _ => core / 64 * 1024 + 513
  | .gath => core / 64 * 1024 + core / 8 % 8 * 64 + 33
  | _ => core / 64 * 1024 + core / 8 % 8 * 64 + 40 + core % 8

/-- Engine data (R207, R294): word 0 is the line's address, its bit 0 set in a request to read; word 1 the byte mask; word 2 the page's homing;
then the marked bytes (DESIGN CHOICE, log entry 13). TSPEC is the line's number in the transfer. A COLL's line goes to the member's collective
engine, another's to the core that homes it. -/
def State.linePacket (s : State) (o : Op) (cube addr : Nat) (tag : BitVec 16) (ms : List Move) (mask : BitVec 64) (asks : Bool) (bs : List Byte) : Packet :=
  let homing := (ms.head?.map Move.homing).getD 0
  let (tagged, unit) := match o.kind with
    | .coll c => (c.cid.toNat, o.engineUnit)
    | _ => (o.ord, unitNumber (unitKey (s.farHome o.ctx addr homing) 0))
  let p := s.packet .engineData o.engineUnit o.ctx cube unit 0 2 0
    (flitWords (BitVec.ofNat 64 (addr / 64 * 64 + asks.toNat) :: mask.setWidth 64 :: BitVec.ofNat 64 homing
      :: leWords (bs ++ List.replicate ((8 - bs.length % 8) % 8) 0))) 0
  { p with ply := tag, gen := o.gen, req := o.ord, aux := BitVec.ofNat 16 tagged, tspec := BitVec.ofNat 12 ((ms.head?.map Move.idx).getD 0 / 64)
           awaited := true, conf := o.conf || ms.any Move.conf }

/-- Send a line's bytes to another cube. -/
def State.postLine (s : State) (o : Op) (cube addr : Nat) (tag : BitVec 16) (ms : List Move) (mask : BitVec 64) (bs : List Byte) : State × Op :=
  match s.sendState cube o.engineUnit 2 with
  | .unreach => (s, o.fail (o.statusOf 1))
  | _ => (s.post (s.linePacket o cube addr tag ms mask false bs), o)

/-- The bytes of a line that moves name. -/
def remoteMask (ms : List Move) : BitVec 64 := ms.foldl (fun k m => match m.place with
  | .remote _ a _ => k ||| maskAt (a % 64) m.n
  | _ => k) 0

/-- The place of a byte of a line among the marked bytes. -/
def maskIndex (mask : BitVec 64) (i : Nat) : Nat := ((List.range i).filter mask.getLsbD).length

/-- Bytes that do not come: what they were for is not written (R207). -/
def Op.lose (o : Op) (ms : List Move) : Op := { o with writes := ms.foldl (fun ws m => dropBytes ws m.idx m.n) o.writes }

/-- One read access; none where the window of another cube's key is full (R298), or the line's stripe is being copied away (R308). A line of another cube
is asked for. -/
def State.readLine (s : State) (o : Op) (ms : List Move) : Option (State × Op) :=
  match ms.head?.map Move.place with
  | some (.remote cube addr tag) =>
    match s.sendState cube o.engineUnit 2 with
    | .unreach => some (s, (o.fail (o.statusOf 1)).lose ms)
    | .window => none
    | .ready => some (s.post (s.linePacket o cube addr tag ms (remoteMask ms) true []), { o with asked := o.asked ++ [(s.fresh, ms)] })
  | some (.mem key _ _) => if s.copiedAway key then none else some (s.stampOp (ms.foldl s.readMove o) ms false false)
  | _ => some (s, ms.foldl s.readMove o)

/-- The answer to a line that was asked for: its marked bytes, or the failure. -/
def Op.answered (o : Op) (num status : Nat) (bs : List Byte) : Op :=
  match o.asked.find? fun a => decide (a.1 = num) with
  | some (_, ms) =>
    let o1 := { o with asked := o.asked.filter fun a => !decide (a.1 = num) }
    if status ≠ 0 then (o1.fail (o.statusOf status)).lose ms
    else
      let mask := remoteMask ms
      { o1 with buf := ms.foldl (fun (t : Tab (Option Byte)) m => match m.place with
          | .remote _ a _ => bufPut t m.idx ((List.range m.n).map fun i => bs.getD (maskIndex mask (a % 64 + i)) 0)
          | _ => t) o1.buf }
  | none => if status = 0 then o else o.fail (o.statusOf status)

/-- One write access: none where no pool line is free. -/
def State.writeLine (s : State) (o : Op) (ms : List Move) : Option (State × Op) :=
  match ms.head?.map Move.place with
  | some (.mem key0 ctx tag) =>
    let made := s.makesCell ctx (s.engineLoc (s.redirect ctx key0) tag) tag
    if !s.tagLive ctx tag then some (s, o.fail 3)
    else
      (ms.foldl (fun (q : Option (State × Op)) m => match q, m.place with
        | some (t, p), .mem key c g => (bufGet p.buf m.idx m.n).bind fun bs => t.putEngine p c (t.redirect c key) g bs
        | r, _ => r) (some (s, o))).map fun q => q.1.stampOp q.2 ms true made
  | some (.remote cube addr tag) =>
    let data := ms.flatMap fun m => match m.place with
      | .remote _ a _ => (List.range m.n).map fun i => (a % 64 + i, (bufGet o.buf (m.idx + i) 1).bind List.head?)
      | _ => []
    if data.any (·.2.isNone) then none
    else
      let mask := remoteMask ms
      some (s.postLine o cube addr tag ms mask (((List.range 64).filter mask.getLsbD).map fun i =>
        ((data.reverse.find? fun e => decide (e.1 = i)).bind (·.2)).getD 0))
  | _ => some (s, o)

/-- Every read that is left and can be made now. -/
def State.readLines (s : State) (o : Op) : List (List Move) → State × Op
  | [] => (s, { o with reads := [] })
  | g :: t => match s.readLine o g with
    | some (s1, o1) => s1.readLines o1 t
    | none =>
      let (s1, o1) := s.readLines o t
      (s1, { o1 with reads := g :: o1.reads })

/-- A write to another cube waits for its key's window (R298); one to a stripe that is being copied away waits for the copy (R308). -/
def State.writeHeld (s : State) (o : Op) (ms : List Move) : Bool := match ms.head?.map Move.place with
  | some (.remote cube _ _) => decide (s.sendState cube o.engineUnit 2 = .window)
  | some (.mem key _ _) => s.copiedAway key
  | _ => false

/-- Every write that is left, as far as pool lines allow; the first that finds none is marked (R207). -/
def State.writeLines (s : State) (o : Op) : Nat → State × Op
  | 0 => (s, o)
  | f + 1 => match o.writes with
    | [] => (s, o)
    | g :: t =>
      if !o.ready g || s.writeHeld o g then (s, o)
      else match s.writeLine { o with writes := t } g with
        | some (s1, o1) => s1.writeLines { o1 with stuck := none } f
        | none => (s, { o with stuck := some (o.stuck.getD s.cycle) })

def State.setOp (s : State) (n : Nat) (o : Op) : State := { s with ops := s.ops.set n o }

/-- Move `k` of an operation's accesses early: the reads first, then the writes. -/
def State.moveLine (s : State) (n k : Nat) : State :=
  match s.ops[n]? with
  | none => s
  | some o =>
    if k < o.reads.length then
      match s.readLine { o with reads := o.reads.eraseIdx k } (o.reads.getD k []) with
      | some (s1, o1) => s1.setOp n o1
      | none => s
    else
      let j := k - o.reads.length
      match o.writes[j]? with
      | none => s
      | some g =>
        if !o.ready g || s.writeHeld o g then s
        else match s.writeLine { o with writes := o.writes.eraseIdx j } g with
          | some (s1, o1) => s1.setOp n o1
          | none => s.setOp n { o with stuck := some (o.stuck.getD s.cycle) }

/-- Packets of an operation that are not yet acknowledged (R298), or whose answers it has not yet taken. -/
def State.unackedOf (s : State) (ord : Nat) : Bool :=
  s.inner.any (fun p => (decide (p.kind = .response) || decide (p.kind = .ack)) && decide (p.req = ord)) || s.outbox.any (fun p => decide (p.req = ord))
    || s.srcKeys.any fun e => match e.2 with
      | some k => k.unacked.any fun u => decide (u.pkt.req = ord)
      | none => false

/-- An engine's completion (R209): the completion word, then the counter falls; a nonzero status shows in MSTAT. -/
def State.endEngine (s : State) (n : Nat) (o : Op) (word : Word) : State :=
  let s1 := match o.done with
    | some key => s.completeAt o.ctx key word
    | none => s
  (s1.returnLines o.ctx o.pool).endOp n o fun u => if o.engerr then u.engineError else u

end Sys2Proof.Machine
end

