-- ==== Sys2Proof/Machine/Matrix.lean ====
section
/-! DEFINITION. The matrix array: MMA (R197, R198), MMS (R199, R200), ACVT (R201), AZERO (R194); exact block sums rounded once
to nearest-even (R71 to R74). A command is checked and issued by the instruction; `State.arrayDone` is its effect, which
ARRAY_COMMAND_COMPLETE brings about in issue order (R75). -/

namespace Sys2Proof.Machine

open Sys2Proof Host

/-! ## Elements of a tile (R52, R60, R61) -/

/-- A scale of S12 (R62). -/
inductive Scale where
  | zero | poison
  /-- m × 2^e. -/
  | value (m : Nat) (e : Int)
  deriving DecidableEq, Repr

def scaleOf (x : Nat) : Scale :=
  let e := bits x 11 4
  if e = 0 then .zero else if e = 255 then .poison else .value (16 + bits x 3 0) ((e : Int) - 131)

/-- A group header: its scale and zero point (R60); nonzero bits [31:20] of a Q8 header poison the group. -/
def headerOf (q8 : Bool) (h : Nat) : Scale × Nat :=
  if q8 then (if bits h 31 20 ≠ 0 then (.poison, bits h 19 12) else (scaleOf (bits h 11 0), bits h 19 12))
  else (scaleOf (bits h 15 4), bits h 3 0)

/-- A tile as the array reads it: its configuration word and its bytes. -/
structure TileView where
  w : Word
  bytes : Nat → Byte

def Cluster.tileView (k : Cluster) (t : Fin 32) : TileView := ⟨k.tcfgOf t, fun off => Tab.read 0 k.tiles (t.val * 65536 + off)⟩

/-- n bytes as a number. -/
def TileView.le (v : TileView) (off n : Nat) : Nat := leVal ((List.range n).map fun i => v.bytes (off + i))
/-- The pattern of element (r, c). -/
def TileView.elem (v : TileView) (r c : Nat) : Nat :=
  let i := r * tcCols v.w + c
  let b := elemBitsOf (tcFmt v.w)
  if b = 4 then bits (v.bytes (i / 2)).toNat (i % 2 * 4 + 3) (i % 2 * 4) else v.le (i * (b / 8)) (b / 8)
/-- Element (r, c) of a floating tile. -/
def TileView.num (v : TileView) (r c : Nat) : Num := (fmtOfTile (tcFmt v.w)).unpack (v.elem r c)
/-- The header of group g of row r. -/
def TileView.header (v : TileView) (r g : Nat) : Scale × Nat :=
  let h := headerBytes (tcFmt v.w)
  headerOf (decide (tcFmt v.w = 5)) (v.le (elementPlane v.w + (r * (tcCols v.w / tcGsz v.w) + g) * h) h)

/-! ## Block sums (R71 to R74) -/

/-- One product of an array (R74): no result for a NaN operand or ∞ × 0. -/
def termMul (a b : Num) : Option Num := if a.isNan || b.isNan then none else a.mul b

/-- The exact sum of a block's terms; no result where a term has none or infinities of both signs meet. -/
def sumTerms (l : List (Option Num)) : Option Num :=
  l.foldl (fun a t => match a, t with
    | some x, some y => x.add .nearest y
    | _, _ => none) (some (.fin false 0 0))

/-- Round an exact total into an array's format (R74): an exact zero is +0; SAT clamps overflow of finite values.
UF is set where the result is tiny and inexact (R74), or subnormal (R54). -/
def arrayRound (f : Fmt) (sat : Bool) : Option Num → Nat × BitVec 9
  | none => (f.qnan, astatNV)
  | some (.nan _) => (f.qnan, astatNV)
  | some (.inf n) => (f.infBits n, 0)
  | some (.fin n m e) =>
    if m = 0 then (0, 0)
    else
      let (b, fl) := f.round .nearest n m e
      (if sat && fl.getLsbD 2 then f.maxBits n else b,
        astatOf fl ||| (if b % 2 ^ (f.eb + f.mb) / 2 ^ f.mb = 0 && b % 2 ^ f.mb != 0 then astatUF else 0))

/-- acc := round(acc + e) (R71); an element that holds NaN stays NaN, and a block without
a NaN that is added to it sets no NV (R74; DESIGN CHOICE, log entry 96). -/
def accumulate (f : Fmt) (sat : Bool) (acc : Nat) (e : Option Num) : Nat × BitVec 9 :=
  if (f.unpack acc).isNan then (f.qnan, if e.isNone then astatNV else 0)
  else arrayRound f sat (e.bind fun x => (f.unpack acc).add .nearest x)

/-- All blocks of one element, in increasing k. -/
def applyBlocks (f : Fmt) (sat : Bool) (acc : Nat) (blocks : List (Option Num)) : Nat × BitVec 9 :=
  blocks.foldl (fun (p : Nat × BitVec 9) e => let (v, fl) := accumulate f sat p.1 e; (v, p.2 ||| fl)) (acc, 0)

/-- R72: a group pair's contribution over pairs of elements. -/
def groupTerm (ha hb : Scale × Nat) (qs : List (Nat × Nat)) : Option Num :=
  match ha.1, hb.1 with
  | .poison, _ => none
  | _, .poison => none
  | .value ma ea, .value mb eb =>
    let sum : Int := (qs.map fun q => (((q.1 * q.2 : Nat) : Int) - hb.2 * q.1 - ha.2 * q.2 + ha.2 * hb.2)).sum
    some (.fin (decide (sum < 0)) (sum.natAbs * ma * mb) (ea + eb))
  | _, _ => some (.fin false 0 0)

/-- A dequantised element (R70); none where the group is poisoned. -/
def dequant (h : Scale × Nat) (q : Nat) : Option Num :=
  match h.1 with
  | .poison => none
  | .zero => some (.fin false 0 0)
  | .value m e => some (.fin (decide (q < h.2)) (((q : Int) - h.2).natAbs * m) e)

/-- R73: x rounded to a BF16 part, the exponent not bounded above. -/
def bf16Part (n : Bool) (m : Nat) (e : Int) : Num :=
  if m = 0 then .fin n 0 0
  else
    let q := bf16.quantum (leadExp m e)
    .fin n (roundAt .nearest n m e q).1 q

/-- x − y, exactly. -/
def exactSub (x y : Num) : Num := (x.add .nearest y.neg).getD (.fin false 0 0)

def partOf : Num → Num
  | .fin n m e => bf16Part n m e
  | x => x

/-- R73: the three parts of an FP32 operand. -/
def splitParts (x : Num) : Num × Num × Num :=
  let x1 := partOf x
  let r1 := exactSub x x1
  let x2 := partOf r1
  (x1, x2, partOf (exactSub r1 x2))

def Num.isFinite : Num → Bool
  | .fin _ _ _ => true
  | _ => false

/-- R73: the six products of a pair, or the one product of a pair that is not finite. -/
def splitTerms (x y : Num) : List (Option Num) :=
  if x.isFinite && y.isFinite then
    let (x1, x2, x3) := splitParts x
    let (y1, y2, y3) := splitParts y
    [termMul x1 y1, termMul x1 y2, termMul x2 y1, termMul x1 y3, termMul x2 y2, termMul x3 y1]
  else [termMul x y]

/-- Cut a list of (k, column of B) pairs, k ascending, into blocks of `n` consecutive k, up to `kk`. -/
def blocksOf (n kk : Nat) (ps : List (Nat × Nat)) : List (List (Nat × Nat)) :=
  (List.range ((kk + n - 1) / n)).map fun t => ps.filter fun p => decide (p.1 / n = t)

/-- Every k with its own column. -/
def densePairs (kk : Nat) : List (Nat × Nat) := (List.range kk).map fun k => (k, k)

/-- The blocks of element (i, j) of an MMA (R71 to R73, R197), `fmt` its fn. -/
def mmaBlocks (fmt : Nat) (a b : TileView) (i j : Nat) : List (Option Num) :=
  let kk := tcCols a.w
  let g := tcGsz a.w
  if fmt = 3 ∨ fmt = 4 then
    (blocksOf g kk (densePairs kk)).mapIdx fun t ps =>
      groupTerm (a.header i t) (b.header j t) (ps.map fun p => (a.elem i p.1, b.elem j p.2))
  else if fmt = 5 ∨ fmt = 6 then
    (blocksOf g kk (densePairs kk)).mapIdx fun t ps => sumTerms (ps.map fun p =>
      (dequant (a.header i t) (a.elem i p.1)).bind fun x => termMul x (b.num j p.2))
  else
    (blocksOf (if fmt = 2 then 8 else 32) kk (densePairs kk)).map fun ps => sumTerms (ps.flatMap fun p =>
      if fmt = 7 then splitTerms (a.num i p.1) (b.num j p.2) else [termMul (a.num i p.1) (b.num j p.2)])

/-! ## Seeded patterns (R199) -/

/-- P, and the positions kept of each group. -/
def patSize (p : Fin 4) : Nat := if p.val = 2 then 8 else 4
def patKept (p : Fin 4) : Nat := if p.val = 0 then 2 else 1

/-- The hash of a group and a column block. -/
def patHash (seed : BitVec 32) (g n : Nat) : BitVec 32 :=
  let h := seed ^^^ (BitVec.ofNat 32 g * 0x9E3779B1) ^^^ (BitVec.ofNat 32 n * 0x85EBCA77)
  let h := h ^^^ (h >>> 15)
  let h := h * 0x2C1B3C6D
  h ^^^ (h >>> 12)

/-- The kept positions, ascending. -/
def patPositions (p : Fin 4) (h : BitVec 32) : List Nat :=
  match p.val with
  | 0 => [[0, 1], [0, 2], [0, 3], [1, 2], [1, 3], [2, 3], [0, 2], [1, 3]].getD (h.toNat % 8) []
  | 1 => [h.toNat % 4]
  | _ => [h.toNat % 8]

/-- The kept k of column j, each with the column of B that stands for it. -/
def sparsePairs (p : Fin 4) (seed : BitVec 32) (kk j : Nat) : List (Nat × Nat) :=
  (List.range (kk / patSize p)).flatMap fun g =>
    (patPositions p (patHash seed g (j / 8))).mapIdx fun i q => (g * patSize p + q, g * patKept p + i)

/-- The blocks of element (i, j) of an MMS (R200). -/
def mmsBlocks (q8 : Bool) (p : Fin 4) (a b : TileView) (i j : Nat) : List (Option Num) :=
  let kk := tcCols a.w
  let ps := sparsePairs p (tcSeed b.w) kk j
  if q8 then (blocksOf (tcGsz a.w) kk ps).mapIdx fun t ps =>
    groupTerm (a.header i t) (b.header j ((match ps with
      | x :: _ => x.2
      | [] => 0) / tcGsz b.w)) (ps.map fun x => (a.elem i x.1, b.elem j x.2))
  else (blocksOf 32 kk ps).map fun ps => sumTerms (ps.map fun x => termMul (a.num i x.1) (b.num j x.2))

/-! ## Effects on the array -/

def accKey (c : Fin 4) (i j : Nat) : Nat := c.val * 65536 + i * 256 + j
/-- A slot's pattern in the accumulator's mode: FP64, or ACC56 in its low 56 bits (R59). -/
def accRead (fp64 : Bool) (w : Word) : Nat := if fp64 then w.toNat else w.toNat % 2 ^ 56
def accFmt (f64 : Bool) : Fmt := if f64 then fp64 else acc56

/-- A product into an accumulator (R198): element (i, j) receives its blocks; flags go to ASTAT. -/
def Cluster.product (k : Cluster) (f64 z : Bool) (c : Fin 4) (sat : Bool) (m n : Nat) (blocks : Nat → Nat → List (Option Num)) : Cluster :=
  let slots := (List.range m).flatMap fun i => (List.range n).map fun j => (i, j)
  slots.foldl (fun (q : Cluster) x =>
    let old := if z then 0 else accRead f64 (Tab.read 0 q.acc (accKey c x.1 x.2))
    let (v, fl) := applyBlocks (accFmt f64) sat old (blocks x.1 x.2)
    { q with acc := Tab.write 0 q.acc (accKey c x.1 x.2) (BitVec.ofNat 64 v), astat := q.astat ||| (fl &&& 0xF) }) k

/-- The pattern an accumulator element has in a tile's format (R201), and its flags. An element that holds a NaN sets no NV: R74 has any NaN input set it,
R69, by which ACVT converts, gives a quiet NaN's conversion no flag (DESIGN CHOICE, log entry 109). -/
def convertAcc (f g : Fmt) (r : Round) (sat : Bool) (v : Nat) : Nat × BitVec 9 :=
  match f.unpack v with
  | .nan _ => (g.qnan, 0)
  | .inf n => (g.infBits n, 0)
  | .fin n m e =>
    let (b, fl) := g.round r n m e
    (if sat && fl.getLsbD 2 then g.maxBits n else b, astatOf fl)

/-- ACVT's modes (R188). -/
def acvtRound (m : Fin 4) : Round := if m.val = 0 then .nearest else if m.val = 1 then .zero else if m.val = 2 then .up else .down

/-- The effect of ACVT on the array (R201); the tile is READY after it (R196). -/
def Cluster.convert (k : Cluster) (t : Fin 32) (c : Fin 4) (off : Nat) (r : Round) (clr sat f64 : Bool) : Cluster :=
  let w := k.tcfgOf t
  let g := fmtOfTile (tcFmt w)
  let slots := (List.range (tcRows w)).flatMap fun i => (List.range (tcCols w)).map fun j => (i, j)
  (slots.foldl (fun (q : Cluster) x =>
    let key := accKey c (off + x.1) x.2
    let (b, fl) := convertAcc (accFmt f64) g r sat (accRead f64 (Tab.read 0 q.acc key))
    let q1 := q.putTile t.val ((x.1 * tcCols w + x.2) * (g.width / 8)) (leBytes (g.width / 8) b)
    { q1 with acc := if clr then Tab.write 0 q1.acc key 0 else q1.acc, astat := q1.astat ||| (fl &&& 0xF) }) k).setState t .ready

/-- Every slot of an accumulator +0 (R194). -/
def Cluster.clearAcc (k : Cluster) (c : Fin 4) : Cluster := { k with acc := k.acc.filter fun e => !decide (e.1 / 65536 = c.val) }

/-- What an array command does to the array. -/
def Cluster.perform (k : Cluster) : ArrayCmd → Cluster
  | .mma fmt z c a b sat => k.product (decide (fmt.val = 2)) z c sat (tcRows (k.tcfgOf a)) (tcRows (k.tcfgOf b)) (mmaBlocks fmt.val (k.tileView a) (k.tileView b))
  | .mms q8 z p c a b sat => k.product false z c sat (tcRows (k.tcfgOf a)) (tcRows (k.tcfgOf b)) (mmsBlocks q8 p (k.tileView a) (k.tileView b))
  | .acvt t c off mode clr sat f64 => k.convert t c off (acvtRound mode) clr sat f64
  | .azero c => k.clearAcc c
  | .tzero t => (k.clearTile t.val).setState t .ready

/-- An array command takes place: the flags it sets are noted with the cycle (R54). -/
def Cluster.performAt (k : Cluster) (now : Nat) (c : ArrayCmd) : Cluster :=
  let k1 := { k with astat := k.astat &&& 0x100 }.perform c
  let set := k1.astat &&& 0xF
  { k1 with astat := k.astat ||| set, astatSet := (now, set ||| k.justSet now) }

/-! ## Instructions -/

/-- The formats of A and B and the accumulator's mode, by fn of major 36 (R197). -/
def mmaFormats (fmt : Nat) : Nat × Nat × Bool :=
  match fmt with
  | 0 => (1, 1, false)
  | 1 => (2, 2, false)
  | 2 => (4, 4, true)
  | 3 => (5, 5, false)
  | 4 => (6, 6, false)
  | 5 => (6, 1, false)
  | 6 => (5, 1, false)
  | _ => (3, 3, false)

/-- R197's checks after TSHAPE, the waits of R196, the gate of R191, then the issue. -/
def State.productForm (s : State) (c : Fin 4) (a b : Fin 32) (fa fb : Nat) (f64 shapeOk : Bool) (cmd : Bool → ArrayCmd) : Res State := do
  roomIn s.me.tiles
  s.tileHandler
  let k := s.myCluster
  need shapeOk .tshape 0
  need (!s.foreignTile a && !s.foreignTile b && !s.foreignAcc c) .tileown 0
  need (decide (tcFmt (k.tcfgOf a) = fa) && decide (tcFmt (k.tcfgOf b) = fb) && tcValid (k.tcfgOf a) && tcValid (k.tcfgOf b)
    && accValid (k.accOf c) && (accFp64 (k.accOf c) == f64)) .fmtmis 0
  tileWait (decide (k.stateOf a = .ready) && decide (k.stateOf b = .ready))
  s.tileGate fun s1 => s1.issueArray (cmd (k.astat.getLsbD 8))

/-- MMA, by fn (R197, R198). -/
def State.mma (s : State) (fmt : Fin 8) (c : Fin 4) (a b : Fin 32) (z : Bool) : Res State :=
  let (fa, fb, f64) := mmaFormats fmt.val
  let wa := s.myCluster.tcfgOf a
  let wb := s.myCluster.tcfgOf b
  let same := decide (fmt.val = 3) || decide (fmt.val = 4)
  s.productForm c a b fa fb f64 (decide (tcCols wa = tcCols wb) && (!same || decide (tcGsz wa = tcGsz wb)))
    fun sat => .mma fmt z c a b sat

/-- MMA.BF16 (R197). -/
def execMmaBf16 (c : Fin 4) (a b : Fin 32) (z : Bool) (s : State) : Outcome State Fault Refusal := finish s (s.mma 0 c a b z)

/-- MMA.F16 (R197). -/
def execMmaF16 (c : Fin 4) (a b : Fin 32) (z : Bool) (s : State) : Outcome State Fault Refusal := finish s (s.mma 1 c a b z)

/-- MMA.F64 (R197). -/
def execMmaF64 (c : Fin 4) (a b : Fin 32) (z : Bool) (s : State) : Outcome State Fault Refusal := finish s (s.mma 2 c a b z)

/-- MMA.Q8 (R197, R72). -/
def execMmaQ8 (c : Fin 4) (a b : Fin 32) (z : Bool) (s : State) : Outcome State Fault Refusal := finish s (s.mma 3 c a b z)

/-- MMA.Q4 (R197, R72). -/
def execMmaQ4 (c : Fin 4) (a b : Fin 32) (z : Bool) (s : State) : Outcome State Fault Refusal := finish s (s.mma 4 c a b z)

/-- MMA.Q4B (R197, R72). -/
def execMmaQ4b (c : Fin 4) (a b : Fin 32) (z : Bool) (s : State) : Outcome State Fault Refusal := finish s (s.mma 5 c a b z)

/-- MMA.Q8B (R197, R72). -/
def execMmaQ8b (c : Fin 4) (a b : Fin 32) (z : Bool) (s : State) : Outcome State Fault Refusal := finish s (s.mma 6 c a b z)

/-- MMA.F32R (R197, R73). -/
def execMmaF32r (c : Fin 4) (a b : Fin 32) (z : Bool) (s : State) : Outcome State Fault Refusal := finish s (s.mma 7 c a b z)

/-- MMS (R199, R200). -/
def State.mms (s : State) (q8 : Bool) (c : Fin 4) (a b : Fin 32) (z : Bool) (p : Fin 4) : Res State :=
  let wa := s.myCluster.tcfgOf a
  let wb := s.myCluster.tcfgOf b
  let f := if q8 then 5 else 1
  s.productForm c a b f f false
    (decide (tcCols wa % patSize p = 0) && decide (tcCols wb = tcCols wa * patKept p / patSize p) && (!q8 || decide (tcGsz wa = tcGsz wb)))
    fun sat => .mms q8 z p c a b sat

/-- MMS.BF16 (R200). -/
def execMmsBf16 (c : Fin 4) (a b : Fin 32) (z : Bool) (p : Fin 4) (s : State) : Outcome State Fault Refusal :=
  finish s (s.mms false c a b z p)

/-- MMS.Q8 (R200). -/
def execMmsQ8 (c : Fin 4) (a b : Fin 32) (z : Bool) (p : Fin 4) (s : State) : Outcome State Fault Refusal :=
  finish s (s.mms true c a b z p)

/-- ACVT (R201): rows 8 × `o` onward of accumulator `a` into tile `t`; `r` is CLR. -/
def execAcvt (t : Fin 32) (a : Fin 4) (o : Fin 32) (m : Fin 4) (r : Bool) (s : State) : Outcome State Fault Refusal :=
  finish s (do
    roomIn s.me.tiles
    s.tileHandler
    let k := s.myCluster
    let w := k.tcfgOf t
    need (decide (o.val * 8 + tcRows w ≤ 256)) .tshape 0
    need (!s.foreignTile t && !s.foreignAcc a) .tileown 0
    need (tcValid w && decide (1 ≤ tcFmt w) && decide (tcFmt w ≤ 4) && accValid (k.accOf a)) .fmtmis 0
    tileWait (k.stateOf t).isSettled
    s.tileGate fun s1 => s1.issueArray (.acvt t a (o.val * 8) m r (k.astat.getLsbD 8) (accFp64 (k.accOf a))))

/-- AZERO (R194): the configuration changes at issue, the slots in the array's order. -/
def execAzero (c : Fin 4) (a : Fin 32) (s : State) : Outcome State Fault Refusal :=
  finish s (do
    roomIn s.me.tiles
    s.tileHandler
    need (!s.foreignAcc c) .tileown 0
    let x := s.me.readX a
    let cfg : BitVec 5 := if x.getLsbD 1 then s.myCluster.accOf c &&& 1 else BitVec.ofNat 5 ((if x.getLsbD 0 then 1 else 0) + s.myIndex * 2 + 16)
    s.tileGate fun s1 =>
      let k := s1.myCluster
      (s1.setMyCluster { k with accCfg := Tab.write 0 k.accCfg c.val cfg }).issueArray (.azero c))

end Sys2Proof.Machine
end

