-- ==== Sys2Proof/Machine/Engine.lean ====
section
/-! DEFINITION. TLD, TST, TST.F (R202 to R205), CPY (R207), GATH (R208): every check and wait at issue; the operation that
then makes its accesses line by line (EngineOps). -/

namespace Sys2Proof.Machine

open Sys2Proof Host

/-! ## Tile transfers (R202) -/

/-- The origin in a register: o0 to o3. -/
def originOf (w : Word) : List Nat := [bits w.toNat 15 0, bits w.toNat 31 16, bits w.toNat 47 32, bits w.toNat 63 48]

/-- What uncorrectable elements of a format load as (R203). -/
def spoilOf (fmt : Nat) : Spoil := if fmt = 1 then .bf16 else if fmt = 2 then .f16 else if fmt = 3 then .f32 else if fmt = 4 then .f64 else .none

/-- Elements of a tile row that lie within the map, from column 0 (TRANS = 0). -/
def insideCols (m : TMap) (w : Word) (o : List Nat) : Nat := min (tcCols w) (m.extent 0 - o.getD 0 0)
/-- Row r of the tile lies within the map (TRANS = 0). -/
def insideRow (m : TMap) (o : List Nat) (r : Nat) : Bool :=
  decide (o.getD 1 0 + r < m.extent 1) && decide (o.getD 2 0 < m.extent 2) && decide (o.getD 3 0 < m.extent 3)
/-- Element (r, c) lies within the map (TRANS = 1). -/
def insideTrans (m : TMap) (o : List Nat) (r c : Nat) : Bool :=
  decide (o.getD 0 0 + r < m.extent 0) && decide (o.getD 1 0 + c < m.extent 1) && decide (o.getD 2 0 < m.extent 2) && decide (o.getD 3 0 < m.extent 3)

/-- Some element of the tile lies outside the extents. -/
def tileOutside (m : TMap) (w : Word) (o : List Nat) : Bool :=
  if m.trans then (List.range (tcRows w)).any fun r => (List.range (tcCols w)).any fun c => !insideTrans m o r c
  else decide (insideCols m w o < tcCols w) || (List.range (tcRows w)).any fun r => !insideRow m o r

/-- TSHAPE of a tile transfer (R202). -/
def tileMisshapen (m : TMap) (w : Word) (o : List Nat) : Bool :=
  m.misshapen || ((List.range 4).any fun i => decide (m.ndim < i) && decide (o.getD i 0 ≠ 0)) || (m.trans && isQ m.fmt)
    || (isQ m.fmt && decide (o.getD 0 0 % m.group ≠ 0)) || (!m.zpad && tileOutside m w o)

/-- The runs of a transfer in ascending element order, headers after elements; indices are places in the tile (R61, R202). -/
def tileRuns (m : TMap) (w : Word) (o : List Nat) : List Run :=
  let b := elemBitsOf m.fmt
  let at_ (i : Nat) : Nat := o.getD i 0
  let sp := spoilOf m.fmt
  if m.trans then
    (List.range (tcRows w)).flatMap fun r => (List.range (tcCols w)).filterMap fun c =>
      if insideTrans m o r c then some ⟨m.addr (at_ 0 + r) (at_ 1 + c) (at_ 2) (at_ 3), (r * tcCols w + c) * b / 8, b / 8, r, sp⟩ else none
  else
    let n := insideCols m w o
    let rows := (List.range (tcRows w)).filter (insideRow m o)
    let elems := rows.map fun r => (⟨m.addr (at_ 0) (at_ 1 + r) (at_ 2) (at_ 3), r * tcCols w * b / 8, n * b / 8, r, sp⟩ : Run)
    if isQ m.fmt then
      let h := headerBytes m.fmt
      let g := m.group
      elems ++ rows.map fun r =>
        ⟨m.headerAddr (at_ 1 + r) (at_ 2) (at_ 0 / g), elementPlane w + r * (tcCols w / g) * h, n / g * h, r,
         if m.fmt = 5 then .q8header else .q4header⟩
    else elems

/-- Copy-engine operations in flight on a core (R205). -/
def State.copyOps (s : State) (core : Nat) : Nat := (s.ops.filter fun o => decide (coreOf o.party = core) && (match o.kind with
  | .tld _ => true
  | .tst _ _ => true
  | .cpy => true
  | _ => false)).length

/-- R205: at most 256; a further one waits at issue. -/
def State.copyRoom (s : State) : Res Unit := if s.copyOps (coreOf s.cur) < 256 then .ok () else stall .tile

/-- The map a transfer names. -/
def State.map (s : State) (r : Fin 16) : TMap := tmapOf (s.me.readTm r)

/-- The checks of a tile transfer (R202) and where its bytes lie. -/
def State.tileChecks (s : State) (t : Fin 32) (m : TMap) (o : List Nat) (acc : Access) (sideEffect : Bool) : Res (List Placed) := do
  roomIn s.me.tiles
  s.tileHandler
  let w := s.myCluster.tcfgOf t
  need (!tileMisshapen m w o) .tshape 0
  need (!s.foreignTile t) .tileown 0
  need (tcValid w && decide (m.fmt = tcFmt w) && (!isQ m.fmt || decide (m.group = tcGsz w))) .fmtmis 0
  need (!m.misaligned) .align m.base
  s.checkRuns s.isLocal acc (s.mapTag m) sideEffect false (cutRuns (tileRuns m w o))

/-- TLD (R203). -/
def execTld (t : Fin 32) (m : Fin 16) (o : Fin 32) (s : State) : Outcome State Fault Refusal :=
  finish s (do
    let mp := s.map m
    let ps ← s.tileChecks t mp (originOf (s.me.readX o)) .read false
    tileWait ((s.myCluster.stateOf t).isSettled && !s.tileBusy t)
    s.copyRoom
    s.tileGate fun s1 =>
      let s2 := s1.setMyCluster (s1.myCluster.setState t .filling)
      .ok ((s2.addOp { s2.newOp (.tld t) .tiles with reads := groupMoves (ps.map (s.moveOf (s.mapTag mp))) }).retire (s2.me.raiseCtr .tiles) 4))


/-- An earlier array command of the issuing core writes the tile (R196). -/
def State.tileWritten (s : State) (t : Fin 32) : Bool := (s.arrayCmds (coreOf s.cur)).any fun c => match c with
  | .acvt x _ _ _ _ _ _ => decide (x = t)
  | .tzero x => decide (x = t)
  | _ => false

/-- TST and TST.F (R204). -/
def State.tst (s : State) (t : Fin 32) (m : Fin 16) (o : Fin 32) (toEmpty : Bool) : Res State := do
  let mp := s.map m
  let tag := s.mapTag mp
  let ps ← s.tileChecks t mp (originOf (s.me.readX o)) .write true
  tileWait (decide (s.myCluster.stateOf t = .ready) && !s.tileWritten t)
  s.copyRoom
  s.tileGate fun s1 => s1.withLines tag (ps.map fun p => (p.loc, p.run.lane)) fun s2 =>
    let k := s2.myCluster
    let s3 := (s2.setMyCluster (k.setState t .draining)).setMe { s2.me with taken := [] }
    let buf := ps.foldl (fun (b : Tab (Option Byte)) p => bufPut b p.run.idx (k.tileBytes t.val p.run.idx p.run.n)) []
    let op := { s3.newOp (.tst t toEmpty) .tiles with writes := groupMoves (ps.map (s.moveOf tag)), buf := buf, pool := s2.me.taken }
    .ok ((s3.addOp op).retire (s3.me.raiseCtr .tiles) 4)

/-- TST (R204). -/
def execTst (t : Fin 32) (m : Fin 16) (o : Fin 32) (s : State) : Outcome State Fault Refusal := finish s (s.tst t m o false)

/-- TST.F (R204): the tile is EMPTY after it. -/
def execTstF (t : Fin 32) (m : Fin 16) (o : Fin 32) (s : State) : Outcome State Fault Refusal := finish s (s.tst t m o true)

/-! ## Whole tensors (R207) -/

/-- Bytes of a tensor's elements. -/
def TMap.size (m : TMap) : Nat := m.extent 0 * m.extent 1 * m.extent 2 * m.extent 3 * elemBitsOf m.fmt / 8

/-- The rows (i1, i2, i3) of a shape, in ascending order. -/
def rowsOf (e1 e2 e3 : Nat) : List (Nat × Nat × Nat) :=
  (List.range e3).flatMap fun i3 => (List.range e2).flatMap fun i2 => (List.range e1).map fun i1 => (i1, i2, i3)

/-- The runs of a map whose elements are taken in their own order: element planes, then headers. -/
def tensorRuns (m : TMap) : List Run :=
  let b := elemBitsOf m.fmt
  let e0 := m.extent 0
  let rows := rowsOf (m.extent 1) (m.extent 2) (m.extent 3)
  let at_ (r : Nat × Nat × Nat) : Nat := (r.2.2 * m.extent 2 + r.2.1) * m.extent 1 + r.1
  let elems := rows.map fun r => (⟨m.addr 0 r.1 r.2.1 r.2.2, at_ r * e0 * b / 8, e0 * b / 8, 0, .none⟩ : Run)
  if isQ m.fmt then
    let h := headerBytes m.fmt
    elems ++ rows.map fun r => ⟨m.headerAddr r.1 r.2.1 0, m.size + at_ r * (e0 / m.group) * h, e0 / m.group * h, 0, .none⟩
  else elems

/-- The runs of a map with dimensions 0 and 1 exchanged, indices by the exchanged shape (R85). -/
def transRuns (m : TMap) : List Run :=
  let b := elemBitsOf m.fmt / 8
  (rowsOf (m.extent 0) (m.extent 2) (m.extent 3)).flatMap fun r => (List.range (m.extent 1)).map fun c =>
    ⟨m.addr r.1 c r.2.1 r.2.2, (((r.2.2 * m.extent 2 + r.2.1) * m.extent 0 + r.1) * m.extent 1 + c) * b, b, 0, .none⟩

/-- Extent i after the map's TRANS. -/
def TMap.extentT (m : TMap) (i : Nat) : Nat := if m.trans && decide (i < 2) then m.extent (1 - i) else m.extent i

/-- The completion address of CPY and GATH (R209): 8-aligned, on this cube, checked as a write. -/
def State.doneAddress (s : State) (va : Word) : Res (Option Nat) := do
  if va = 0 then .ok none
  else
    let l ← s.check va 8 .write 0 false 0
    need (s.isLocal l) .perm va
    .ok (some l.key)

/-- CPY (R207). -/
def execCpy (d sz : Fin 16) (c : Fin 32) (s : State) : Outcome State Fault Refusal :=
  finish s (do
    let md := s.map d
    let ms := s.map sz
    roomIn s.me.copies
    need (!md.misshapen && !ms.misshapen && !md.zpad && !ms.zpad && !md.trans && !(ms.trans && isQ ms.fmt)
      && (List.range 4).all fun i => decide (ms.extentT i = md.extent i)) .tshape 0
    need (decide (md.fmt = ms.fmt) && (!isQ md.fmt || decide (md.gsz = ms.gsz))) .fmtmis 0
    need (!ms.misaligned) .align ms.base
    need (!md.misaligned) .align md.base
    let src ← s.checkRuns (fun _ => true) .read (s.mapTag ms) false true (cutRuns (if ms.trans then transRuns ms else tensorRuns ms))
    let dst ← s.checkRuns (fun _ => true) .write (s.mapTag md) true true (cutRuns (tensorRuns md))
    let done ← s.doneAddress (s.me.readX c)
    s.copyRoom
    let op := { s.newOp .cpy .copies with reads := groupMoves (src.map (s.moveOf (s.mapTag ms))),
                                          writes := groupMoves (dst.map (s.moveOf (s.mapTag md))), done := done, conf := src.any fun p => p.loc.conf }
    .ok ((s.addOp op).retire (s.me.raiseCtr .copies) 4))

/-- A list of placed bytes read at issue, one load access for each line. -/
def State.readPlaced (s : State) (tag : BitVec 16) : List Placed → Res (State × List Byte)
  | [] => .ok (s, [])
  | p :: t => do
    need (!s.uncorrectable p.loc.key) .eccu p.run.va
    let bs := s.view s.myCtx p.loc p.run.n tag
    let (s1, r) ← (s.loadAt p.loc tag).readPlaced tag t
    .ok (s1, bs ++ r)

/-- 32-bit little-endian numbers. -/
def words32 : List Byte → List Nat
  | a :: b :: c :: d :: t => leVal [a, b, c, d] :: words32 t
  | _ => []

/-- GATH (R208): `im` names the index list, `c` the completion address. -/
def execGath (d sz : Fin 16) (im c : Fin 32) (s : State) : Outcome State Fault Refusal :=
  finish s (do
    let md := s.map d
    let ms := s.map sz
    roomIn s.me.copies
    need (!md.misshapen && !ms.misshapen && decide (md.ndim ≤ 1) && decide (ms.ndim ≤ 1) && decide (md.extent 0 = ms.extent 0)
      && !md.zpad && !ms.zpad && !md.trans && !ms.trans) .tshape 0
    need (decide (md.fmt = ms.fmt) && !isQ md.fmt) .fmtmis 0
    need (!ms.misaligned) .align ms.base
    need (!md.misaligned) .align md.base
    let _ ← s.checkRuns s.isLocal .read (s.mapTag ms) false false (cutRuns (tensorRuns ms))
    let list := s.me.readX im
    need (decide (list.toNat % 4 = 0)) .align list
    let lp ← s.checkRuns s.isLocal .read s.myTag false false (cutRuns [⟨list, 0, 4 * md.extent 1, 0, .none⟩])
    let dst ← s.checkRuns s.isLocal .write (s.mapTag md) true false (cutRuns (tensorRuns md))
    let done ← s.doneAddress (s.me.readX c)
    let (s1, bs) ← s.readPlaced s.myTag lp
    let idx := words32 bs
    let row := md.extent 0 * elemBitsOf md.fmt / 8
    let runs := idx.mapIdx fun i k => (⟨ms.addr 0 k 0 0, i * row, row, k, .none⟩ : Run)
    let inside := runs.filter fun r => decide (r.lane < ms.extent 1)
    let src ← s.checkRuns s.isLocal .read (s.mapTag ms) false false (cutRuns (inside.map fun r => { r with lane := 0 }))
    let zeros := (runs.filter fun r => decide (ms.extent 1 ≤ r.lane)).map fun r => ([{ place := .zero, idx := r.idx, n := r.n, spoil := .none }] : List Move)
    let op := { s1.newOp .gath .copies with
      reads := groupMoves (src.map (s.moveOf (s.mapTag ms))) ++ zeros
      writes := groupMoves (dst.map (s.moveOf (s.mapTag md)))
      done := done
      status := if zeros = [] then 0 else 5
      engerr := zeros != [] }
    .ok ((s1.addOp op).retire (s1.me.raiseCtr .copies) 4))

end Sys2Proof.Machine
end

