-- ==== Sys2Proof/WellFormed.lean ====
section
/-! DEFINITION. Well-formedness: the operand values an encoding can hold that R80 to R84, R109, R111, R185, R187, R188
and R214 leave without an instruction. -/

namespace Sys2Proof

/-- A floating type code of R83: FP64, FP32, FP16 and BF16 are 0 to 3. -/
def isFloatType (t : Fin 32) : Bool := t.val < 4

/-- An integer type code of R83 without INT4: 8 to 15. -/
def isIntType (t : Fin 32) : Bool := 8 ≤ t.val && t.val < 16

/-- Any type code R83 defines. -/
def isTypeCode (t : Fin 32) : Bool := isFloatType t || (8 ≤ t.val && t.val < 18)

/-- The pairs FCVT accepts (R83, R109): no reserved code, no two integer types, no INT4. -/
def fcvtPair (src dst : Fin 32) : Bool :=
  (isFloatType src && (isFloatType dst || isIntType dst)) || (isIntType src && isFloatType dst)

/-- The pairs VCVT accepts (R185): every pair of defined codes but an integer type with itself. -/
def vcvtPair (src dst : Fin 32) : Bool :=
  isTypeCode src && isTypeCode dst && (src != dst || isFloatType src)

/-- Whether an instruction's operand values name an instruction of the table, and a step's arguments name parts the cube has. -/
def wellFormed : Instr → Bool
  | .add _ _ _ => true
  | .sub _ _ _ => true
  | .and _ _ _ => true
  | .or _ _ _ => true
  | .xor _ _ _ => true
  | .andn _ _ _ => true
  | .shl _ _ _ => true
  | .shr _ _ _ => true
  | .sha _ _ _ => true
  | .rot _ _ _ => true
  | .min _ _ _ => true
  | .max _ _ _ => true
  | .minu _ _ _ => true
  | .maxu _ _ _ => true
  | .slt _ _ _ => true
  | .sltu _ _ _ => true
  | .seq _ _ _ => true
  | .sel _ _ _ _ => true
  | .mul _ _ _ => true
  | .mulh _ _ _ => true
  | .mulhu _ _ _ => true
  | .div _ _ _ => true
  | .divu _ _ _ => true
  | .rem _ _ _ => true
  | .remu _ _ _ => true
  | .clz _ _ => true
  | .ctz _ _ => true
  | .popc _ _ => true
  | .brev _ _ => true
  | .bext _ _ _ => true
  | .bins _ _ _ => true
  | .addi _ _ _ => true
  | .andi _ _ _ => true
  | .ori _ _ _ => true
  | .xori _ _ _ => true
  | .slti _ _ _ => true
  | .sltiu _ _ _ => true
  | .shli _ _ _ => true
  | .shri _ _ _ => true
  | .shai _ _ _ => true
  | .lih _ _ => true
  | .adpc _ _ => true
  | .bcEq _ _ _ => true
  | .bcNe _ _ _ => true
  | .bcLt _ _ _ => true
  | .bcGe _ _ _ => true
  | .bcLtu _ _ _ => true
  | .bcGeu _ _ _ => true
  | .jl _ _ => true
  | .jlr _ _ _ => true
  -- LOOP naming x0 is undefined (R111)
  | .loop a _ => decide (a ≠ 0)
  | .bmAny _ _ => true
  | .bmAll _ _ => true
  | .bmNone _ _ => true
  -- size 7 is reserved (R82)
  | .ld _ _ sz _ => decide (sz ≠ 7)
  -- size 7 is reserved (R82)
  | .ldPly _ _ sz _ _ => decide (sz ≠ 7)
  | .st _ _ _ _ => true
  | .stPly _ _ _ _ _ => true
  | .ldfe _ _ _ => true
  | .ldff _ _ _ => true
  | .feget _ _ _ => true
  -- only sizes 3 to 6 are LDX (R82, R123)
  | .ldx _ _ sz _ _ => decide (3 ≤ sz ∧ sz ≤ 6)
  | .stef _ _ _ => true
  | .stff _ _ _ => true
  | .feset _ _ _ => true
  | .amoAdd _ _ _ _ _ => true
  | .amoMin _ _ _ _ _ => true
  | .amoMax _ _ _ _ _ => true
  | .amoMinu _ _ _ _ _ => true
  | .amoMaxu _ _ _ _ _ => true
  | .amoAnd _ _ _ _ _ => true
  | .amoOr _ _ _ _ _ => true
  | .amoXor _ _ _ _ _ => true
  | .amoSwap _ _ _ _ _ => true
  | .amoFadd _ _ _ _ _ => true
  | .cas _ _ _ _ => true
  | .rlk _ _ _ => true
  | .rlkT _ _ _ => true
  | .wlk _ _ _ => true
  | .wlkT _ _ _ => true
  | .runlk _ _ _ => true
  | .wunlk _ _ _ => true
  | .fence _ _ => true
  | .wait _ _ _ _ _ => true
  | .pref _ _ _ => true
  | .tmld _ _ _ => true
  | .plynew _ => true
  | .plynewNb _ => true
  | .plyset _ => true
  | .plyget _ => true
  | .plyretC _ => true
  | .plyretD _ => true
  | .plyqry _ _ => true
  | .fadd _ _ _ _ => true
  | .fsub _ _ _ _ => true
  | .fmul _ _ _ _ => true
  | .fdiv _ _ _ _ => true
  | .fsqrt _ _ _ => true
  | .fmin _ _ _ _ => true
  | .fmax _ _ _ _ => true
  | .fcmp _ _ _ _ _ => true
  | .fsgn _ _ _ _ => true
  | .fsgnN _ _ _ _ => true
  | .fsgnX _ _ _ _ => true
  | .fclass _ _ _ => true
  | .fmv _ _ => true
  | .fmvX _ _ => true
  | .fmvF _ _ => true
  | .fma _ _ _ _ _ => true
  | .fms _ _ _ _ _ => true
  | .fnma _ _ _ _ _ => true
  | .fnms _ _ _ _ _ => true
  -- reserved type pairs (R83, R109)
  | .fcvt _ _ t sz => decide (fcvtPair sz t)
  | .vaddI _ _ _ _ _ => true
  | .vsubI _ _ _ _ _ => true
  | .vmulI _ _ _ _ _ => true
  | .vminI _ _ _ _ _ => true
  | .vmaxI _ _ _ _ _ => true
  | .vminUi _ _ _ _ _ => true
  | .vmaxUi _ _ _ _ _ => true
  | .vand _ _ _ _ _ => true
  | .vor _ _ _ _ _ => true
  | .vxor _ _ _ _ _ => true
  | .vshl _ _ _ _ _ => true
  | .vshr _ _ _ _ _ => true
  | .vsha _ _ _ _ _ => true
  | .vcmpI _ _ _ _ _ _ => true
  | .vcmpUi _ _ _ _ _ _ => true
  | .vsel _ _ _ _ _ => true
  | .vaddF _ _ _ _ _ => true
  | .vsubF _ _ _ _ _ => true
  | .vmulF _ _ _ _ _ => true
  | .vdiv _ _ _ _ _ => true
  | .vsqrt _ _ _ _ => true
  | .vminF _ _ _ _ _ => true
  | .vmaxF _ _ _ _ _ => true
  | .vcmpF _ _ _ _ _ _ => true
  | .vfma _ _ _ _ _ => true
  | .vfms _ _ _ _ _ => true
  | .vdotBf16 _ _ _ _ => true
  | .vdotF16 _ _ _ _ => true
  | .vdotI8 _ _ _ _ => true
  | .vdotUi8 _ _ _ _ => true
  | .vdotF32 _ _ _ _ => true
  | .vld _ _ _ _ => true
  | .vst _ _ _ _ => true
  | .vlds _ _ _ _ _ => true
  | .vsts _ _ _ _ _ => true
  | .vgath _ _ _ _ _ => true
  | .vscat _ _ _ _ _ => true
  | .vldx _ _ _ _ _ => true
  | .vperm _ _ _ _ _ => true
  | .vbcastX _ _ _ _ => true
  | .vbcastF _ _ _ _ => true
  -- operations 11 to 31 are reserved (R82)
  | .vred _ _ o _ _ => decide (o ≤ 10)
  | .vext _ _ _ _ => true
  | .vins _ _ _ _ => true
  -- rejected type pairs (R185)
  | .vcvt _ _ t sz _ => decide (vcvtPair sz t)
  | .mand _ _ _ => true
  | .mor _ _ _ => true
  | .mxor _ _ _ => true
  | .mnot _ _ => true
  | .mpop _ _ => true
  | .mfirst _ _ => true
  | .mset _ _ => true
  | .mget _ _ => true
  | .send _ _ _ _ => true
  | .sendv _ _ _ => true
  | .mret _ _ => true
  | .enq _ _ _ => true
  | .deq _ _ => true
  | .deqNb _ _ _ => true
  | .esend _ _ => true
  | .tspawn _ => true
  | .tspawnA _ _ => true
  | .tspawnW _ _ _ => true
  | .tspawnAW _ _ _ _ => true
  | .tdec _ _ => true
  | .gang _ => true
  | .mbxw _ => true
  | .bobenq _ _ _ _ => true
  | .bobdeq _ => true
  | .recqry _ _ => true
  | .tcfg _ _ => true
  | .tcfgr _ t e => !e || decide (t < 4)
  | .leaseT _ => true
  | .tstate _ _ => true
  | .tzero _ => true
  | .astat _ _ => true
  | .mmaBf16 _ _ _ _ => true
  | .mmaF16 _ _ _ _ => true
  | .mmaF64 _ _ _ _ => true
  | .mmaQ8 _ _ _ _ => true
  | .mmaQ4 _ _ _ _ => true
  | .mmaQ4b _ _ _ _ => true
  | .mmaQ8b _ _ _ _ => true
  | .mmaF32r _ _ _ _ => true
  -- pattern 3 is reserved (R188)
  | .mmsBf16 _ _ _ _ p => decide (p ≠ 3)
  -- pattern 3 is reserved (R188)
  | .mmsQ8 _ _ _ _ p => decide (p ≠ 3)
  | .acvt _ _ _ _ _ => true
  | .azero _ _ => true
  | .tld _ _ _ => true
  | .tst _ _ _ => true
  | .tstF _ _ _ => true
  | .cpy _ _ _ => true
  | .gath _ _ _ _ => true
  | .coll _ _ _ => true
  | .baddq _ _ _ _ _ => true
  -- the first source register is a multiple of 2 or 4 (R214)
  | .bquant _ a _ _ q => decide (a.val % (if q then 4 else 2) = 0)
  | .qdot _ _ _ _ _ => true
  | .trap _ _ => true
  | .svc _ _ _ => true
  | .srr _ _ => true
  | .srw _ _ => true
  | .tstamp _ _ => true
  | .idle _ => true
  | .hnote _ => true
  | .tlbw _ _ _ => true
  | .tlbi _ _ => true
  | .mbxr _ _ _ => true
  | .ctxsv _ _ => true
  | .ctxld _ _ => true
  | .gstop _ => true
  | .cMv _ _ => true
  | .cAdd _ _ => true
  | .cAddi _ _ => true
  | .cSub _ _ => true
  | .cAnd _ _ => true
  | .cShli _ _ => true
  | .cLd _ _ _ => true
  | .cSt _ _ _ => true
  | .cBz _ _ => true
  | .cBnz _ _ => true
  | .cJ _ => true
  -- a C.WAIT with no counter is reserved (R81)
  | .cWait m => decide (m ≠ 0)
  | .cLdfe _ _ => true
  | .cStef _ _ => true
  | .yield => true
  | .texit => true
  | .recdoneP => true
  | .recdoneJ => true
  | .lease => true
  | .lrel => true
  | .bkpt => true
  | .cNop => true
  | .cMret => true
  | .cYield => true
  | .cTexit => true
  | .recordPickup => true
  | .stealScan => true
  | .stealScanRetry => true
  | .spill => true
  | .spillReadyTimeout => true
  | .spillResume => true
  | .ageingPromotion => true
  | .gangRequest => true
  | .gangStart => true
  | .doorbell => true
  | .launchIngestion => true
  | .launchStart => true
  | .engagementAcknowledgement => true
  | .launchCompletion => true
  | .taskSpawn => true
  | .spawnResend => true
  | .dependenceDecrement => true
  | .queueItem => true
  | .queueWindowWrite => true
  | .messageArrival => true
  | .handlerEntry => true
  | .remoteLoad => true
  | .remoteStore => true
  | .remoteAtomic => true
  | .responseDelivery => true
  | .skeinRecordDelivery => true
  | .eventMessage => true
  | .eventPolicyReply => true
  | .tlbMissWalk => true
  | .eventReply => true
  | .hoverrun => true
  | .loadReturn => true
  | .remoteAcknowledgement => true
  | .tldComplete => true
  | .tstComplete => true
  | .arrayCommandComplete => true
  | .leaseExpiry => true
  | .plyretComplete => true
  | .plyretCLineWrite => true
  | .plypoolTimeout => true
  | .lockRemoteRetry => true
  | .rebase => true
  | .spindleGo => true
  | .spindleHalt => true
  | .spindleImageLoad => true
  | .contextCreate => true
  | .contextFree => true
  | .contextReset => true
  | .hreply => true
  | .dhalt => true
  | .pstop => true
  | .contextSwitchOut => true
  | .contextSwitchIn => true
  | .registerWrite => true
  | .bankCommandStart => true
  | .waveFormation => true
  | .bankElement => true
  | .disturbanceAlert => true
  | .alertClear => true
  | .refreshBlock => true
  | .lstmoTimeout => true
  | .bankCommandEnd => true
  | .reductionCommandStart => true
  | .reductionLine => true
  | .cpyComplete => true
  | .plypoolNote => true
  | .gathComplete => true
  | .collComplete => true
  | .routerRelease => true
  | .holdSlotRoute => true
  | .workerReassignment => true
  | .flitReceive => true
  | .nakReceive => true
  | .linkAckReceive => true
  | .replayTimeout => true
  | .retrainTimeout => true
  | .trainingComplete => true
  | .linkRestart => true
  | .routerForward => true
  | .packetArrival => true
  | .e2eRetryTimeout => true
  | .e2eUnreachTimeout => true
  | .resyncRetry => true
  | .keyReleaseTimeout => true
  | .reduceChunk => true
  | .multicastChunk => true
  | .chunkResend => true
  | .colltmo => true
  | .keyInstall => true
  | .keyRotationComplete => true
  | .cubeRemoval => true
  | .restripe => true
  | .reconfigurationWindow => true
  | .drainMarker => true
  | .bar2Access => true
  | .msixUnmask => true
  | .bootGo => true
  | .attestation => true
  | .powerWindow => true
  | .thermalWarn => true
  | .thermalStop => true
  | .thermalResume => true
  | .lifeUpdate => true
  | .traceDrain => true
  | .traceSample => true
  | .clusterGate => true
  | .clusterUngate => true
  | .powerOn => true
  | .storePerformed => true
  | .idleWaitExpiry => true
  | .linkAckInterval => true

end Sys2Proof
end

