-- ==== Sys2Proof/Decode.lean ====
section
/-! DEFINITION. Decoding and encoding (R78 to R84), from the encodings of the spec's opcode table: each row's fixed bit
ranges and its fields. A row matches when every fixed range holds its value, so a nonzero must-be-zero field, a reserved
selector and a reserved major match no row. After it, the encoder, from the same rows. -/

namespace Sys2Proof

open Sys2Proof.Machine

/-- Bits [lo + n - 1 : lo] of an instruction word (R4, R79). -/
def fld (w lo n : Nat) : Nat := w / 2 ^ lo % 2 ^ n

/-- The same field as a register, mask, tile or selector number. -/
def fldF (w lo n : Nat) : Fin (2 ^ n) := ⟨fld w lo n, Nat.mod_lt _ (Nat.two_pow_pos n)⟩

/-- The same field as an immediate. -/
def fldV (w lo n : Nat) : BitVec n := BitVec.ofNat n (fld w lo n)

/-- A one-bit field. -/
def fldB (w lo : Nat) : Bool := fld w lo 1 == 1

/-- The rows of major 0 (R82). -/
def decodeInt (w : Nat) : Option Instr :=
  if fld w 22 10 = 0 then some (.add (fldF w 7 5) (fldF w 12 5) (fldF w 17 5))
  else if fld w 22 10 = 32 then some (.sub (fldF w 7 5) (fldF w 12 5) (fldF w 17 5))
  else if fld w 22 10 = 64 then some (.and (fldF w 7 5) (fldF w 12 5) (fldF w 17 5))
  else if fld w 22 10 = 96 then some (.or (fldF w 7 5) (fldF w 12 5) (fldF w 17 5))
  else if fld w 22 10 = 128 then some (.xor (fldF w 7 5) (fldF w 12 5) (fldF w 17 5))
  else if fld w 22 10 = 160 then some (.andn (fldF w 7 5) (fldF w 12 5) (fldF w 17 5))
  else if fld w 22 10 = 192 then some (.shl (fldF w 7 5) (fldF w 12 5) (fldF w 17 5))
  else if fld w 22 10 = 224 then some (.shr (fldF w 7 5) (fldF w 12 5) (fldF w 17 5))
  else if fld w 22 10 = 256 then some (.sha (fldF w 7 5) (fldF w 12 5) (fldF w 17 5))
  else if fld w 22 10 = 288 then some (.rot (fldF w 7 5) (fldF w 12 5) (fldF w 17 5))
  else if fld w 22 10 = 320 then some (.min (fldF w 7 5) (fldF w 12 5) (fldF w 17 5))
  else if fld w 22 10 = 352 then some (.max (fldF w 7 5) (fldF w 12 5) (fldF w 17 5))
  else if fld w 22 10 = 384 then some (.minu (fldF w 7 5) (fldF w 12 5) (fldF w 17 5))
  else if fld w 22 10 = 416 then some (.maxu (fldF w 7 5) (fldF w 12 5) (fldF w 17 5))
  else if fld w 22 10 = 448 then some (.slt (fldF w 7 5) (fldF w 12 5) (fldF w 17 5))
  else if fld w 22 10 = 480 then some (.sltu (fldF w 7 5) (fldF w 12 5) (fldF w 17 5))
  else if fld w 22 10 = 512 then some (.seq (fldF w 7 5) (fldF w 12 5) (fldF w 17 5))
  else if fld w 27 5 = 17 then some (.sel (fldF w 7 5) (fldF w 12 5) (fldF w 17 5) (fldF w 22 5))
  else none

/-- The rows of major 1 (R82). -/
def decodeInt2 (w : Nat) : Option Instr :=
  if fld w 22 10 = 0 then some (.mul (fldF w 7 5) (fldF w 12 5) (fldF w 17 5))
  else if fld w 22 10 = 32 then some (.mulh (fldF w 7 5) (fldF w 12 5) (fldF w 17 5))
  else if fld w 22 10 = 64 then some (.mulhu (fldF w 7 5) (fldF w 12 5) (fldF w 17 5))
  else if fld w 22 10 = 96 then some (.div (fldF w 7 5) (fldF w 12 5) (fldF w 17 5))
  else if fld w 22 10 = 128 then some (.divu (fldF w 7 5) (fldF w 12 5) (fldF w 17 5))
  else if fld w 22 10 = 160 then some (.rem (fldF w 7 5) (fldF w 12 5) (fldF w 17 5))
  else if fld w 22 10 = 192 then some (.remu (fldF w 7 5) (fldF w 12 5) (fldF w 17 5))
  else if fld w 17 15 = 7168 then some (.clz (fldF w 7 5) (fldF w 12 5))
  else if fld w 17 15 = 8192 then some (.ctz (fldF w 7 5) (fldF w 12 5))
  else if fld w 17 15 = 9216 then some (.popc (fldF w 7 5) (fldF w 12 5))
  else if fld w 17 15 = 10240 then some (.brev (fldF w 7 5) (fldF w 12 5))
  else if fld w 22 10 = 352 then some (.bext (fldF w 7 5) (fldF w 12 5) (fldF w 17 5))
  else if fld w 22 10 = 384 then some (.bins (fldF w 7 5) (fldF w 12 5) (fldF w 17 5))
  else none

/-- The rows of major 2 (R82). -/
def decodeAddi (w : Nat) : Option Instr :=
  some (.addi (fldF w 7 5) (fldF w 12 5) (fldV w 17 15))

/-- The rows of major 3 (R82). -/
def decodeAndi (w : Nat) : Option Instr :=
  some (.andi (fldF w 7 5) (fldF w 12 5) (fldV w 17 15))

/-- The rows of major 4 (R82). -/
def decodeOri (w : Nat) : Option Instr :=
  some (.ori (fldF w 7 5) (fldF w 12 5) (fldV w 17 15))

/-- The rows of major 5 (R82). -/
def decodeXori (w : Nat) : Option Instr :=
  some (.xori (fldF w 7 5) (fldF w 12 5) (fldV w 17 15))

/-- The rows of major 6 (R82). -/
def decodeSlti (w : Nat) : Option Instr :=
  some (.slti (fldF w 7 5) (fldF w 12 5) (fldV w 17 15))

/-- The rows of major 7 (R82). -/
def decodeSltiu (w : Nat) : Option Instr :=
  some (.sltiu (fldF w 7 5) (fldF w 12 5) (fldV w 17 15))

/-- The rows of major 8 (R82). -/
def decodeShi (w : Nat) : Option Instr :=
  if fld w 23 9 = 0 then some (.shli (fldF w 7 5) (fldF w 12 5) (fldF w 17 6))
  else if fld w 23 9 = 1 then some (.shri (fldF w 7 5) (fldF w 12 5) (fldF w 17 6))
  else if fld w 23 9 = 2 then some (.shai (fldF w 7 5) (fldF w 12 5) (fldF w 17 6))
  else none

/-- The rows of major 9 (R82). -/
def decodeLih (w : Nat) : Option Instr :=
  some (.lih (fldF w 7 5) (fldV w 12 20))

/-- The rows of major 10 (R82). -/
def decodeAdpc (w : Nat) : Option Instr :=
  some (.adpc (fldF w 7 5) (fldV w 12 20))

/-- The rows of major 11 (R82). -/
def decodeBc (w : Nat) : Option Instr :=
  if fld w 17 3 = 0 then some (.bcEq (fldF w 7 5) (fldF w 12 5) (fldV w 20 12))
  else if fld w 17 3 = 1 then some (.bcNe (fldF w 7 5) (fldF w 12 5) (fldV w 20 12))
  else if fld w 17 3 = 2 then some (.bcLt (fldF w 7 5) (fldF w 12 5) (fldV w 20 12))
  else if fld w 17 3 = 3 then some (.bcGe (fldF w 7 5) (fldF w 12 5) (fldV w 20 12))
  else if fld w 17 3 = 4 then some (.bcLtu (fldF w 7 5) (fldF w 12 5) (fldV w 20 12))
  else if fld w 17 3 = 5 then some (.bcGeu (fldF w 7 5) (fldF w 12 5) (fldV w 20 12))
  else none

/-- The rows of major 12 (R82). -/
def decodeJl (w : Nat) : Option Instr :=
  some (.jl (fldF w 7 5) (fldV w 12 20))

/-- The rows of major 13 (R82). -/
def decodeJlr (w : Nat) : Option Instr :=
  some (.jlr (fldF w 7 5) (fldF w 12 5) (fldV w 17 15))

/-- The rows of major 14 (R82). -/
def decodeLoop (w : Nat) : Option Instr :=
  if fld w 12 8 = 0 then some (.loop (fldF w 7 5) (fldV w 20 12))
  else none

/-- The rows of major 15 (R82). -/
def decodeBm (w : Nat) : Option Instr :=
  if fld w 10 10 = 0 then some (.bmAny (fldF w 7 3) (fldV w 20 12))
  else if fld w 10 10 = 128 then some (.bmAll (fldF w 7 3) (fldV w 20 12))
  else if fld w 10 10 = 256 then some (.bmNone (fldF w 7 3) (fldV w 20 12))
  else none

/-- The rows of major 16 (R82). -/
def decodeLd (w : Nat) : Option Instr :=
  if fld w 20 3 = 0 then some (.ld (fldF w 7 5) (fldF w 12 5) (fldF w 17 3) (fldV w 23 9))
  else if fld w 20 3 = 4 then some (.ldPly (fldF w 7 5) (fldF w 12 5) (fldF w 17 3) (fldF w 23 5) (fldV w 28 4))
  else none

/-- The rows of major 17 (R82). -/
def decodeSt (w : Nat) : Option Instr :=
  if fld w 19 4 = 0 then some (.st (fldF w 7 5) (fldF w 12 5) (fldF w 17 2) (fldV w 23 9))
  else if fld w 19 4 = 8 then some (.stPly (fldF w 7 5) (fldF w 12 5) (fldF w 17 2) (fldF w 23 5) (fldV w 28 4))
  else none

/-- The rows of major 18 (R82). -/
def decodeLds (w : Nat) : Option Instr :=
  if fld w 17 6 = 0 then some (.ldfe (fldF w 7 5) (fldF w 12 5) (fldV w 23 9))
  else if fld w 17 6 = 1 then some (.ldff (fldF w 7 5) (fldF w 12 5) (fldV w 23 9))
  else if fld w 17 6 = 2 then some (.feget (fldF w 7 5) (fldF w 12 5) (fldV w 23 9))
  else if fld w 20 3 = 4 then some (.ldx (fldF w 7 5) (fldF w 12 5) (fldF w 17 3) (fldF w 23 5) (fldV w 28 4))
  else none

/-- The rows of major 19 (R82). -/
def decodeSts (w : Nat) : Option Instr :=
  if fld w 17 6 = 0 then some (.stef (fldF w 7 5) (fldF w 12 5) (fldV w 23 9))
  else if fld w 17 6 = 1 then some (.stff (fldF w 7 5) (fldF w 12 5) (fldV w 23 9))
  else if fld w 17 6 = 2 then some (.feset (fldF w 7 5) (fldF w 12 5) (fldV w 23 9))
  else none

/-- The rows of major 20 (R82). -/
def decodeAmo (w : Nat) : Option Instr :=
  if fld w 25 7 = 1 then some (.amoAdd (fldF w 7 5) (fldF w 12 5) (fldF w 17 5) (fldF w 22 2) (fldB w 24))
  else if fld w 25 7 = 5 then some (.amoMin (fldF w 7 5) (fldF w 12 5) (fldF w 17 5) (fldF w 22 2) (fldB w 24))
  else if fld w 25 7 = 9 then some (.amoMax (fldF w 7 5) (fldF w 12 5) (fldF w 17 5) (fldF w 22 2) (fldB w 24))
  else if fld w 25 7 = 13 then some (.amoMinu (fldF w 7 5) (fldF w 12 5) (fldF w 17 5) (fldF w 22 2) (fldB w 24))
  else if fld w 25 7 = 17 then some (.amoMaxu (fldF w 7 5) (fldF w 12 5) (fldF w 17 5) (fldF w 22 2) (fldB w 24))
  else if fld w 25 7 = 21 then some (.amoAnd (fldF w 7 5) (fldF w 12 5) (fldF w 17 5) (fldF w 22 2) (fldB w 24))
  else if fld w 25 7 = 25 then some (.amoOr (fldF w 7 5) (fldF w 12 5) (fldF w 17 5) (fldF w 22 2) (fldB w 24))
  else if fld w 25 7 = 29 then some (.amoXor (fldF w 7 5) (fldF w 12 5) (fldF w 17 5) (fldF w 22 2) (fldB w 24))
  else if fld w 25 7 = 33 then some (.amoSwap (fldF w 7 5) (fldF w 12 5) (fldF w 17 5) (fldF w 22 2) (fldB w 24))
  else if fld w 25 7 = 37 then some (.amoFadd (fldF w 7 5) (fldF w 12 5) (fldF w 17 5) (fldF w 22 2) (fldB w 24))
  else none

/-- The rows of major 21 (R82). -/
def decodeLock (w : Nat) : Option Instr :=
  if fld w 24 8 = 0 then some (.cas (fldF w 7 5) (fldF w 12 5) (fldF w 17 5) (fldF w 22 2))
  else if fld w 17 5 = 0 ∧ fld w 24 8 = 8 then some (.rlk (fldF w 7 5) (fldF w 12 5) (fldF w 22 2))
  else if fld w 17 5 = 0 ∧ fld w 24 8 = 16 then some (.rlkT (fldF w 7 5) (fldF w 12 5) (fldF w 22 2))
  else if fld w 17 5 = 0 ∧ fld w 24 8 = 24 then some (.wlk (fldF w 7 5) (fldF w 12 5) (fldF w 22 2))
  else if fld w 17 5 = 0 ∧ fld w 24 8 = 32 then some (.wlkT (fldF w 7 5) (fldF w 12 5) (fldF w 22 2))
  else if fld w 17 5 = 0 ∧ fld w 24 8 = 40 then some (.runlk (fldF w 7 5) (fldF w 12 5) (fldF w 22 2))
  else if fld w 17 5 = 0 ∧ fld w 24 8 = 48 then some (.wunlk (fldF w 7 5) (fldF w 12 5) (fldF w 22 2))
  else none

/-- The rows of major 22 (R82). -/
def decodeOrd (w : Nat) : Option Instr :=
  if fld w 7 15 = 0 ∧ fld w 26 6 = 0 then some (.fence (fldF w 22 2) (fldF w 24 2))
  else if fld w 27 5 = 1 then some (.wait (fldF w 7 4) (fldF w 11 4) (fldF w 15 4) (fldF w 19 4) (fldF w 23 4))
  else if fld w 8 4 = 0 ∧ fld w 26 6 = 4 then some (.pref (fldB w 7) (fldF w 12 5) (fldV w 17 9))
  else if fld w 11 1 = 0 ∧ fld w 26 6 = 6 then some (.tmld (fldF w 7 4) (fldF w 12 5) (fldV w 17 9))
  else none

/-- The rows of major 23 (R82). -/
def decodePly (w : Nat) : Option Instr :=
  if fld w 12 20 = 0 then some (.plynew (fldF w 7 5))
  else if fld w 12 20 = 32768 then some (.plynewNb (fldF w 7 5))
  else if fld w 7 5 = 0 ∧ fld w 17 15 = 2048 then some (.plyset (fldF w 12 5))
  else if fld w 12 20 = 98304 then some (.plyget (fldF w 7 5))
  else if fld w 7 5 = 0 ∧ fld w 17 15 = 4096 then some (.plyretC (fldF w 12 5))
  else if fld w 7 5 = 0 ∧ fld w 17 15 = 5120 then some (.plyretD (fldF w 12 5))
  else if fld w 17 15 = 6144 then some (.plyqry (fldF w 7 5) (fldF w 12 5))
  else none

/-- The rows of major 24 (R82). -/
def decodeFp (w : Nat) : Option Instr :=
  if fld w 24 8 = 0 then some (.fadd (fldF w 7 5) (fldF w 12 5) (fldF w 17 5) (fldF w 22 2))
  else if fld w 24 8 = 8 then some (.fsub (fldF w 7 5) (fldF w 12 5) (fldF w 17 5) (fldF w 22 2))
  else if fld w 24 8 = 16 then some (.fmul (fldF w 7 5) (fldF w 12 5) (fldF w 17 5) (fldF w 22 2))
  else if fld w 24 8 = 24 then some (.fdiv (fldF w 7 5) (fldF w 12 5) (fldF w 17 5) (fldF w 22 2))
  else if fld w 17 5 = 0 ∧ fld w 24 8 = 32 then some (.fsqrt (fldF w 7 5) (fldF w 12 5) (fldF w 22 2))
  else if fld w 24 8 = 40 then some (.fmin (fldF w 7 5) (fldF w 12 5) (fldF w 17 5) (fldF w 22 2))
  else if fld w 24 8 = 48 then some (.fmax (fldF w 7 5) (fldF w 12 5) (fldF w 17 5) (fldF w 22 2))
  else if fld w 26 6 = 14 then some (.fcmp (fldF w 7 5) (fldF w 12 5) (fldF w 17 5) (fldF w 22 2) (fldF w 24 2))
  else if fld w 24 8 = 64 then some (.fsgn (fldF w 7 5) (fldF w 12 5) (fldF w 17 5) (fldF w 22 2))
  else if fld w 24 8 = 65 then some (.fsgnN (fldF w 7 5) (fldF w 12 5) (fldF w 17 5) (fldF w 22 2))
  else if fld w 24 8 = 66 then some (.fsgnX (fldF w 7 5) (fldF w 12 5) (fldF w 17 5) (fldF w 22 2))
  else if fld w 17 5 = 0 ∧ fld w 24 8 = 72 then some (.fclass (fldF w 7 5) (fldF w 12 5) (fldF w 22 2))
  else if fld w 17 15 = 10240 then some (.fmv (fldF w 7 5) (fldF w 12 5))
  else if fld w 17 15 = 10368 then some (.fmvX (fldF w 7 5) (fldF w 12 5))
  else if fld w 17 15 = 10496 then some (.fmvF (fldF w 7 5) (fldF w 12 5))
  else none

/-- The rows of major 25 (R82). -/
def decodeFma4 (w : Nat) : Option Instr :=
  if fld w 27 2 = 0 ∧ fld w 31 1 = 0 then some (.fma (fldF w 7 5) (fldF w 12 5) (fldF w 17 5) (fldF w 22 5) (fldF w 29 2))
  else if fld w 27 2 = 1 ∧ fld w 31 1 = 0 then some (.fms (fldF w 7 5) (fldF w 12 5) (fldF w 17 5) (fldF w 22 5) (fldF w 29 2))
  else if fld w 27 2 = 2 ∧ fld w 31 1 = 0 then some (.fnma (fldF w 7 5) (fldF w 12 5) (fldF w 17 5) (fldF w 22 5) (fldF w 29 2))
  else if fld w 27 2 = 3 ∧ fld w 31 1 = 0 then some (.fnms (fldF w 7 5) (fldF w 12 5) (fldF w 17 5) (fldF w 22 5) (fldF w 29 2))
  else none

/-- The rows of major 26 (R82). -/
def decodeFcv (w : Nat) : Option Instr :=
  if fld w 17 5 = 0 then some (.fcvt (fldF w 7 5) (fldF w 12 5) (fldF w 22 5) (fldF w 27 5))
  else none

/-- The rows of major 27 (R82). -/
def decodeVa (w : Nat) : Option Instr :=
  if fld w 27 5 = 0 then some (.vaddI (fldF w 7 5) (fldF w 12 5) (fldF w 17 5) (fldF w 22 2) (fldF w 24 3))
  else if fld w 27 5 = 1 then some (.vsubI (fldF w 7 5) (fldF w 12 5) (fldF w 17 5) (fldF w 22 2) (fldF w 24 3))
  else if fld w 27 5 = 2 then some (.vmulI (fldF w 7 5) (fldF w 12 5) (fldF w 17 5) (fldF w 22 2) (fldF w 24 3))
  else if fld w 27 5 = 3 then some (.vminI (fldF w 7 5) (fldF w 12 5) (fldF w 17 5) (fldF w 22 2) (fldF w 24 3))
  else if fld w 27 5 = 4 then some (.vmaxI (fldF w 7 5) (fldF w 12 5) (fldF w 17 5) (fldF w 22 2) (fldF w 24 3))
  else if fld w 27 5 = 5 then some (.vminUi (fldF w 7 5) (fldF w 12 5) (fldF w 17 5) (fldF w 22 2) (fldF w 24 3))
  else if fld w 27 5 = 6 then some (.vmaxUi (fldF w 7 5) (fldF w 12 5) (fldF w 17 5) (fldF w 22 2) (fldF w 24 3))
  else if fld w 27 5 = 7 then some (.vand (fldF w 7 5) (fldF w 12 5) (fldF w 17 5) (fldF w 22 2) (fldF w 24 3))
  else if fld w 27 5 = 8 then some (.vor (fldF w 7 5) (fldF w 12 5) (fldF w 17 5) (fldF w 22 2) (fldF w 24 3))
  else if fld w 27 5 = 9 then some (.vxor (fldF w 7 5) (fldF w 12 5) (fldF w 17 5) (fldF w 22 2) (fldF w 24 3))
  else if fld w 27 5 = 10 then some (.vshl (fldF w 7 5) (fldF w 12 5) (fldF w 17 5) (fldF w 22 2) (fldF w 24 3))
  else if fld w 27 5 = 11 then some (.vshr (fldF w 7 5) (fldF w 12 5) (fldF w 17 5) (fldF w 22 2) (fldF w 24 3))
  else if fld w 27 5 = 12 then some (.vsha (fldF w 7 5) (fldF w 12 5) (fldF w 17 5) (fldF w 22 2) (fldF w 24 3))
  else if fld w 27 5 = 13 then some (.vcmpI (fldF w 7 3) (fldF w 10 2) (fldF w 12 5) (fldF w 17 5) (fldF w 22 2) (fldF w 24 3))
  else if fld w 27 5 = 14 then some (.vcmpUi (fldF w 7 3) (fldF w 10 2) (fldF w 12 5) (fldF w 17 5) (fldF w 22 2) (fldF w 24 3))
  else if fld w 27 5 = 15 then some (.vsel (fldF w 7 5) (fldF w 12 5) (fldF w 17 5) (fldF w 22 2) (fldF w 24 3))
  else if fld w 27 5 = 16 then some (.vaddF (fldF w 7 5) (fldF w 12 5) (fldF w 17 5) (fldF w 22 2) (fldF w 24 3))
  else if fld w 27 5 = 17 then some (.vsubF (fldF w 7 5) (fldF w 12 5) (fldF w 17 5) (fldF w 22 2) (fldF w 24 3))
  else if fld w 27 5 = 18 then some (.vmulF (fldF w 7 5) (fldF w 12 5) (fldF w 17 5) (fldF w 22 2) (fldF w 24 3))
  else if fld w 27 5 = 19 then some (.vdiv (fldF w 7 5) (fldF w 12 5) (fldF w 17 5) (fldF w 22 2) (fldF w 24 3))
  else if fld w 17 5 = 0 ∧ fld w 27 5 = 20 then some (.vsqrt (fldF w 7 5) (fldF w 12 5) (fldF w 22 2) (fldF w 24 3))
  else if fld w 27 5 = 21 then some (.vminF (fldF w 7 5) (fldF w 12 5) (fldF w 17 5) (fldF w 22 2) (fldF w 24 3))
  else if fld w 27 5 = 22 then some (.vmaxF (fldF w 7 5) (fldF w 12 5) (fldF w 17 5) (fldF w 22 2) (fldF w 24 3))
  else if fld w 27 5 = 23 then some (.vcmpF (fldF w 7 3) (fldF w 10 2) (fldF w 12 5) (fldF w 17 5) (fldF w 22 2) (fldF w 24 3))
  else none

/-- The rows of major 28 (R82). -/
def decodeVf (w : Nat) : Option Instr :=
  if fld w 27 5 = 0 then some (.vfma (fldF w 7 5) (fldF w 12 5) (fldF w 17 5) (fldF w 22 2) (fldF w 24 3))
  else if fld w 27 5 = 1 then some (.vfms (fldF w 7 5) (fldF w 12 5) (fldF w 17 5) (fldF w 22 2) (fldF w 24 3))
  else if fld w 22 2 = 0 ∧ fld w 27 5 = 2 then some (.vdotBf16 (fldF w 7 5) (fldF w 12 5) (fldF w 17 5) (fldF w 24 3))
  else if fld w 22 2 = 0 ∧ fld w 27 5 = 3 then some (.vdotF16 (fldF w 7 5) (fldF w 12 5) (fldF w 17 5) (fldF w 24 3))
  else if fld w 22 2 = 0 ∧ fld w 27 5 = 4 then some (.vdotI8 (fldF w 7 5) (fldF w 12 5) (fldF w 17 5) (fldF w 24 3))
  else if fld w 22 2 = 0 ∧ fld w 27 5 = 5 then some (.vdotUi8 (fldF w 7 5) (fldF w 12 5) (fldF w 17 5) (fldF w 24 3))
  else if fld w 22 2 = 0 ∧ fld w 27 5 = 6 then some (.vdotF32 (fldF w 7 5) (fldF w 12 5) (fldF w 17 5) (fldF w 24 3))
  else none

/-- The rows of major 29 (R82). -/
def decodeVm (w : Nat) : Option Instr :=
  if fld w 17 5 = 0 ∧ fld w 27 5 = 0 then some (.vld (fldF w 7 5) (fldF w 12 5) (fldF w 22 2) (fldF w 24 3))
  else if fld w 17 5 = 0 ∧ fld w 27 5 = 1 then some (.vst (fldF w 7 5) (fldF w 12 5) (fldF w 22 2) (fldF w 24 3))
  else if fld w 27 5 = 2 then some (.vlds (fldF w 7 5) (fldF w 12 5) (fldF w 17 5) (fldF w 22 2) (fldF w 24 3))
  else if fld w 27 5 = 3 then some (.vsts (fldF w 7 5) (fldF w 12 5) (fldF w 17 5) (fldF w 22 2) (fldF w 24 3))
  else if fld w 23 1 = 1 ∧ fld w 27 5 = 4 then some (.vgath (fldF w 7 5) (fldF w 12 5) (fldF w 17 5) (fldB w 22) (fldF w 24 3))
  else if fld w 23 1 = 1 ∧ fld w 27 5 = 5 then some (.vscat (fldF w 7 5) (fldF w 12 5) (fldF w 17 5) (fldB w 22) (fldF w 24 3))
  else if fld w 27 5 = 6 then some (.vldx (fldF w 7 5) (fldF w 12 5) (fldF w 17 5) (fldF w 22 2) (fldF w 24 3))
  else none

/-- The rows of major 30 (R82). -/
def decodeVx (w : Nat) : Option Instr :=
  if fld w 27 5 = 0 then some (.vperm (fldF w 7 5) (fldF w 12 5) (fldF w 17 5) (fldF w 22 2) (fldF w 24 3))
  else if fld w 17 5 = 0 ∧ fld w 27 5 = 1 then some (.vbcastX (fldF w 7 5) (fldF w 12 5) (fldF w 22 2) (fldF w 24 3))
  else if fld w 17 5 = 0 ∧ fld w 27 5 = 2 then some (.vbcastF (fldF w 7 5) (fldF w 12 5) (fldF w 22 2) (fldF w 24 3))
  else if fld w 27 5 = 3 then some (.vred (fldF w 7 5) (fldF w 12 5) (fldF w 17 5) (fldF w 22 2) (fldF w 24 3))
  else if fld w 24 8 = 32 then some (.vext (fldF w 7 5) (fldF w 12 5) (fldF w 17 5) (fldF w 22 2))
  else if fld w 24 8 = 40 then some (.vins (fldF w 7 5) (fldF w 12 5) (fldF w 17 5) (fldF w 22 2))
  else if fld w 30 2 = 1 then some (.vcvt (fldF w 7 5) (fldF w 12 5) (fldF w 17 5) (fldF w 22 5) (fldF w 27 3))
  else none

/-- The rows of major 31 (R82). -/
def decodeMk (w : Nat) : Option Instr :=
  if fld w 10 2 = 0 ∧ fld w 15 2 = 0 ∧ fld w 20 12 = 0 then some (.mand (fldF w 7 3) (fldF w 12 3) (fldF w 17 3))
  else if fld w 10 2 = 0 ∧ fld w 15 2 = 0 ∧ fld w 20 12 = 128 then some (.mor (fldF w 7 3) (fldF w 12 3) (fldF w 17 3))
  else if fld w 10 2 = 0 ∧ fld w 15 2 = 0 ∧ fld w 20 12 = 256 then some (.mxor (fldF w 7 3) (fldF w 12 3) (fldF w 17 3))
  else if fld w 10 2 = 0 ∧ fld w 15 17 = 12288 then some (.mnot (fldF w 7 3) (fldF w 12 3))
  else if fld w 15 17 = 16384 then some (.mpop (fldF w 7 5) (fldF w 12 3))
  else if fld w 15 17 = 20480 then some (.mfirst (fldF w 7 5) (fldF w 12 3))
  else if fld w 10 2 = 0 ∧ fld w 17 15 = 6144 then some (.mset (fldF w 7 3) (fldF w 12 5))
  else if fld w 15 17 = 28672 then some (.mget (fldF w 7 5) (fldF w 12 3))
  else none

/-- The rows of major 32 (R82). -/
def decodeMsg (w : Nat) : Option Instr :=
  if fld w 27 5 = 0 then some (.send (fldF w 7 5) (fldF w 12 5) (fldF w 17 5) (fldF w 22 5))
  else if fld w 22 10 = 32 then some (.sendv (fldF w 7 5) (fldF w 12 5) (fldF w 17 5))
  else if fld w 7 5 = 0 ∧ fld w 22 10 = 64 then some (.mret (fldF w 12 5) (fldF w 17 5))
  else if fld w 22 10 = 96 then some (.enq (fldF w 7 5) (fldF w 12 5) (fldF w 17 5))
  else if fld w 7 5 = 0 ∧ fld w 22 10 = 128 then some (.deq (fldF w 12 5) (fldF w 17 5))
  else if fld w 22 10 = 160 then some (.deqNb (fldF w 7 5) (fldF w 12 5) (fldF w 17 5))
  else if fld w 7 5 = 0 ∧ fld w 22 10 = 192 then some (.esend (fldF w 12 5) (fldF w 17 5))
  else none

/-- The rows of major 33 (R82). -/
def decodeTsk (w : Nat) : Option Instr :=
  if fld w 7 10 = 0 ∧ fld w 22 10 = 0 then some (.tspawn (fldF w 17 5))
  else if fld w 7 5 = 0 ∧ fld w 22 10 = 32 then some (.tspawnA (fldF w 12 5) (fldF w 17 5))
  else if fld w 12 5 = 0 ∧ fld w 27 5 = 2 then some (.tspawnW (fldF w 7 5) (fldF w 17 5) (fldF w 22 5))
  else if fld w 27 5 = 3 then some (.tspawnAW (fldF w 7 5) (fldF w 12 5) (fldF w 17 5) (fldF w 22 5))
  else if fld w 7 5 = 0 ∧ fld w 22 10 = 128 then some (.tdec (fldF w 12 5) (fldF w 17 5))
  else if fld w 7 25 = 5242880 then some .yield
  else if fld w 7 25 = 6291456 then some .texit
  else if fld w 7 5 = 0 ∧ fld w 17 15 = 7168 then some (.gang (fldF w 12 5))
  else if fld w 7 5 = 0 ∧ fld w 17 15 = 8192 then some (.mbxw (fldF w 12 5))
  else none

/-- The rows of major 34 (R82). -/
def decodeSkn (w : Nat) : Option Instr :=
  if fld w 27 5 = 0 then some (.bobenq (fldF w 7 5) (fldF w 12 5) (fldF w 17 5) (fldF w 22 5))
  else if fld w 7 5 = 0 ∧ fld w 17 15 = 1024 then some (.bobdeq (fldF w 12 5))
  else if fld w 7 25 = 2097152 then some .recdoneP
  else if fld w 7 25 = 3145728 then some .recdoneJ
  else if fld w 17 15 = 4096 then some (.recqry (fldF w 7 5) (fldF w 12 5))
  else none

/-- The rows of major 35 (R82). -/
def decodeTcf (w : Nat) : Option Instr :=
  if fld w 17 15 = 0 then some (.tcfg (fldF w 7 5) (fldF w 12 5))
  else if fld w 17 5 = 0 ∧ fld w 23 9 = 16 ∧ (fld w 22 1 = 0 ∨ fld w 12 5 < 4) then some (.tcfgr (fldF w 7 5) (fldF w 12 5) (fldB w 22))
  else if fld w 7 25 = 2097152 then some .lease
  else if fld w 12 20 = 98304 then some (.leaseT (fldF w 7 5))
  else if fld w 7 25 = 4194304 then some .lrel
  else if fld w 17 15 = 5120 then some (.tstate (fldF w 7 5) (fldF w 12 5))
  else if fld w 12 20 = 196608 then some (.tzero (fldF w 7 5))
  else if fld w 17 15 = 7168 then some (.astat (fldF w 7 5) (fldF w 12 5))
  else none

/-- The rows of major 36 (R82). -/
def decodeMma (w : Nat) : Option Instr :=
  if fld w 9 3 = 0 ∧ fld w 23 9 = 0 then some (.mmaBf16 (fldF w 7 2) (fldF w 12 5) (fldF w 17 5) (fldB w 22))
  else if fld w 9 3 = 0 ∧ fld w 23 9 = 16 then some (.mmaF16 (fldF w 7 2) (fldF w 12 5) (fldF w 17 5) (fldB w 22))
  else if fld w 9 3 = 0 ∧ fld w 23 9 = 32 then some (.mmaF64 (fldF w 7 2) (fldF w 12 5) (fldF w 17 5) (fldB w 22))
  else if fld w 9 3 = 0 ∧ fld w 23 9 = 48 then some (.mmaQ8 (fldF w 7 2) (fldF w 12 5) (fldF w 17 5) (fldB w 22))
  else if fld w 9 3 = 0 ∧ fld w 23 9 = 64 then some (.mmaQ4 (fldF w 7 2) (fldF w 12 5) (fldF w 17 5) (fldB w 22))
  else if fld w 9 3 = 0 ∧ fld w 23 9 = 80 then some (.mmaQ4b (fldF w 7 2) (fldF w 12 5) (fldF w 17 5) (fldB w 22))
  else if fld w 9 3 = 0 ∧ fld w 23 9 = 96 then some (.mmaQ8b (fldF w 7 2) (fldF w 12 5) (fldF w 17 5) (fldB w 22))
  else if fld w 9 3 = 0 ∧ fld w 23 9 = 112 then some (.mmaF32r (fldF w 7 2) (fldF w 12 5) (fldF w 17 5) (fldB w 22))
  else none

/-- The rows of major 37 (R82). -/
def decodeMms (w : Nat) : Option Instr :=
  if fld w 9 3 = 0 ∧ fld w 25 7 = 0 then some (.mmsBf16 (fldF w 7 2) (fldF w 12 5) (fldF w 17 5) (fldB w 22) (fldF w 23 2))
  else if fld w 9 3 = 0 ∧ fld w 25 7 = 4 then some (.mmsQ8 (fldF w 7 2) (fldF w 12 5) (fldF w 17 5) (fldB w 22) (fldF w 23 2))
  else if fld w 14 3 = 0 ∧ fld w 24 1 = 0 ∧ fld w 26 6 = 4 then some (.acvt (fldF w 7 5) (fldF w 12 2) (fldF w 17 5) (fldF w 22 2) (fldB w 25))
  else if fld w 9 3 = 0 ∧ fld w 17 15 = 3072 then some (.azero (fldF w 7 2) (fldF w 12 5))
  else none

/-- The rows of major 38 (R82). -/
def decodeTmv (w : Nat) : Option Instr :=
  if fld w 16 1 = 0 ∧ fld w 22 10 = 0 then some (.tld (fldF w 7 5) (fldF w 12 4) (fldF w 17 5))
  else if fld w 16 1 = 0 ∧ fld w 22 10 = 32 then some (.tst (fldF w 7 5) (fldF w 12 4) (fldF w 17 5))
  else if fld w 16 1 = 0 ∧ fld w 22 10 = 64 then some (.tstF (fldF w 7 5) (fldF w 12 4) (fldF w 17 5))
  else if fld w 11 1 = 0 ∧ fld w 16 1 = 0 ∧ fld w 22 10 = 96 then some (.cpy (fldF w 7 4) (fldF w 12 4) (fldF w 17 5))
  else if fld w 11 1 = 0 ∧ fld w 16 1 = 0 ∧ fld w 27 5 = 4 then some (.gath (fldF w 7 4) (fldF w 12 4) (fldF w 17 5) (fldF w 22 5))
  else if fld w 11 1 = 0 ∧ fld w 16 1 = 0 ∧ fld w 22 10 = 160 then some (.coll (fldF w 7 4) (fldF w 12 4) (fldF w 17 5))
  else none

/-- The rows of major 39 (R82). -/
def decodeQnt (w : Nat) : Option Instr :=
  if fld w 27 5 = 0 then some (.baddq (fldF w 7 5) (fldF w 12 5) (fldF w 17 5) (fldF w 22 4) (fldB w 26))
  else if fld w 18 4 = 0 ∧ fld w 27 5 = 1 then some (.bquant (fldF w 7 5) (fldF w 12 5) (fldB w 17) (fldF w 22 4) (fldB w 26))
  else if fld w 27 5 = 2 then some (.qdot (fldF w 7 5) (fldF w 12 5) (fldF w 17 5) (fldF w 22 4) (fldB w 26))
  else none

/-- The rows of major 40 (R82). -/
def decodeSys (w : Nat) : Option Instr :=
  if fld w 7 5 = 0 ∧ fld w 27 5 = 0 then some (.trap (fldF w 12 5) (fldV w 17 10))
  else if fld w 27 5 = 1 then some (.svc (fldF w 7 5) (fldF w 12 5) (fldV w 17 10))
  else if fld w 12 5 = 0 ∧ fld w 27 5 = 2 then some (.srr (fldF w 7 5) (fldF w 17 10))
  else if fld w 7 5 = 0 ∧ fld w 27 5 = 3 then some (.srw (fldF w 12 5) (fldF w 17 10))
  else if fld w 7 25 = 4194304 then some .bkpt
  else if fld w 17 15 = 5120 then some (.tstamp (fldF w 7 5) (fldF w 12 5))
  else if fld w 7 5 = 0 ∧ fld w 17 15 = 6144 then some (.idle (fldF w 12 5))
  else if fld w 7 5 = 0 ∧ fld w 17 15 = 7168 then some (.hnote (fldF w 12 5))
  else none

/-- The rows of major 41 (R82). -/
def decodePrv (w : Nat) : Option Instr :=
  if fld w 7 5 = 0 ∧ fld w 27 5 = 0 then some (.tlbw (fldF w 12 5) (fldF w 17 5) (fldF w 22 5))
  else if fld w 7 5 = 0 ∧ fld w 22 10 = 32 then some (.tlbi (fldF w 12 5) (fldF w 17 5))
  else if fld w 22 10 = 64 then some (.mbxr (fldF w 7 5) (fldF w 12 5) (fldF w 17 5))
  else if fld w 7 5 = 0 ∧ fld w 22 10 = 96 then some (.ctxsv (fldF w 12 5) (fldF w 17 5))
  else if fld w 7 5 = 0 ∧ fld w 22 10 = 128 then some (.ctxld (fldF w 12 5) (fldF w 17 5))
  else if fld w 7 5 = 0 ∧ fld w 17 15 = 5120 then some (.gstop (fldF w 12 5))
  else none

/-- The rows of 16-bit op 0 (R81). -/
def decodeC0 (w : Nat) : Option Instr :=
  if fld w 5 11 = 1 then some .cNop
  else if fld w 5 11 = 2 then some .cMret
  else if fld w 5 11 = 3 then some .cYield
  else if fld w 5 11 = 4 then some .cTexit
  else none

/-- The rows of 16-bit op 1 (R81). -/
def decodeC1 (w : Nat) : Option Instr :=
  if fld w 15 1 = 0 then some (.cMv (fldF w 5 5) (fldF w 10 5))
  else none

/-- The rows of 16-bit op 2 (R81). -/
def decodeC2 (w : Nat) : Option Instr :=
  if fld w 15 1 = 0 then some (.cAdd (fldF w 5 5) (fldF w 10 5))
  else none

/-- The rows of 16-bit op 3 (R81). -/
def decodeC3 (w : Nat) : Option Instr :=
  some (.cAddi (fldF w 5 5) (fldV w 10 6))

/-- The rows of 16-bit op 4 (R81). -/
def decodeC4 (w : Nat) : Option Instr :=
  if fld w 15 1 = 0 then some (.cSub (fldF w 5 5) (fldF w 10 5))
  else none

/-- The rows of 16-bit op 5 (R81). -/
def decodeC5 (w : Nat) : Option Instr :=
  if fld w 15 1 = 0 then some (.cAnd (fldF w 5 5) (fldF w 10 5))
  else none

/-- The rows of 16-bit op 6 (R81). -/
def decodeC6 (w : Nat) : Option Instr :=
  some (.cShli (fldF w 5 5) (fldF w 10 6))

/-- The rows of 16-bit op 7 (R81). -/
def decodeC7 (w : Nat) : Option Instr :=
  some (.cLd (fldF w 5 3) (fldF w 8 3) (fldF w 11 5))

/-- The rows of 16-bit op 8 (R81). -/
def decodeC8 (w : Nat) : Option Instr :=
  some (.cSt (fldF w 5 3) (fldF w 8 3) (fldF w 11 5))

/-- The rows of 16-bit op 9 (R81). -/
def decodeC9 (w : Nat) : Option Instr :=
  some (.cBz (fldF w 5 5) (fldV w 10 6))

/-- The rows of 16-bit op 10 (R81). -/
def decodeC10 (w : Nat) : Option Instr :=
  some (.cBnz (fldF w 5 5) (fldV w 10 6))

/-- The rows of 16-bit op 11 (R81). -/
def decodeC11 (w : Nat) : Option Instr :=
  some (.cJ (fldV w 5 11))

/-- The rows of 16-bit op 12 (R81). -/
def decodeC12 (w : Nat) : Option Instr :=
  if fld w 10 6 = 0 then some (.cWait (fldV w 5 5))
  else none

/-- The rows of 16-bit op 13 (R81). -/
def decodeC13 (w : Nat) : Option Instr :=
  if fld w 15 1 = 0 then some (.cLdfe (fldF w 5 5) (fldF w 10 5))
  else none

/-- The rows of 16-bit op 14 (R81). -/
def decodeC14 (w : Nat) : Option Instr :=
  if fld w 15 1 = 0 then some (.cStef (fldF w 5 5) (fldF w 10 5))
  else none

/-- Why a word is no instruction (R84), by name. -/
inductive DecodeError where
  /-- Fewer bytes than the instruction has (R78). -/
  | truncated
  /-- A reserved major opcode (R82: 42 to 63). -/
  | reservedMajor (major : Nat)
  /-- A reserved fn, sub, cond or size value, or a nonzero must-be-zero field, of a 32-bit form (R84). -/
  | reservedForm (major : Nat)
  /-- A reserved 16-bit op or sub, or a nonzero must-be-zero field of a 16-bit form (R81, R84). -/
  | reservedShort (op : Nat)
  /-- A form whose operand values the spec reserves (R109, R111, R123, R185, R187, R216). -/
  | illFormed (i : Instr)
  deriving DecidableEq, Repr

/-- The row a 32-bit word matches (R82). -/
def decodeRow32 (w : Nat) : Option Instr :=
  match fld w 1 6 with
  | 0 => decodeInt w
  | 1 => decodeInt2 w
  | 2 => decodeAddi w
  | 3 => decodeAndi w
  | 4 => decodeOri w
  | 5 => decodeXori w
  | 6 => decodeSlti w
  | 7 => decodeSltiu w
  | 8 => decodeShi w
  | 9 => decodeLih w
  | 10 => decodeAdpc w
  | 11 => decodeBc w
  | 12 => decodeJl w
  | 13 => decodeJlr w
  | 14 => decodeLoop w
  | 15 => decodeBm w
  | 16 => decodeLd w
  | 17 => decodeSt w
  | 18 => decodeLds w
  | 19 => decodeSts w
  | 20 => decodeAmo w
  | 21 => decodeLock w
  | 22 => decodeOrd w
  | 23 => decodePly w
  | 24 => decodeFp w
  | 25 => decodeFma4 w
  | 26 => decodeFcv w
  | 27 => decodeVa w
  | 28 => decodeVf w
  | 29 => decodeVm w
  | 30 => decodeVx w
  | 31 => decodeMk w
  | 32 => decodeMsg w
  | 33 => decodeTsk w
  | 34 => decodeSkn w
  | 35 => decodeTcf w
  | 36 => decodeMma w
  | 37 => decodeMms w
  | 38 => decodeTmv w
  | 39 => decodeQnt w
  | 40 => decodeSys w
  | 41 => decodePrv w
  | _ => none

/-- The row a 16-bit word matches (R81). -/
def decodeRow16 (w : Nat) : Option Instr :=
  match fld w 1 4 with
  | 0 => decodeC0 w
  | 1 => decodeC1 w
  | 2 => decodeC2 w
  | 3 => decodeC3 w
  | 4 => decodeC4 w
  | 5 => decodeC5 w
  | 6 => decodeC6 w
  | 7 => decodeC7 w
  | 8 => decodeC8 w
  | 9 => decodeC9 w
  | 10 => decodeC10 w
  | 11 => decodeC11 w
  | 12 => decodeC12 w
  | 13 => decodeC13 w
  | 14 => decodeC14 w
  | _ => none

/-- Refuse, by name, a row whose operand values are reserved. -/
def checkForm (e : DecodeError) : Option Instr → Except DecodeError Instr
  | none => .error e
  | some i => if wellFormed i then .ok i else .error (.illFormed i)

/-- The length in bytes that the first halfword gives (R78). -/
def lengthOfFirst (h : Nat) : Nat := if h % 2 = 1 then 4 else 2

/-- Decode a 32-bit instruction word. -/
def decode32 (w : Nat) : Except DecodeError Instr :=
  checkForm (if fld w 1 6 ≤ 41 then .reservedForm (fld w 1 6) else .reservedMajor (fld w 1 6)) (decodeRow32 w)

/-- Decode a 16-bit instruction word. -/
def decode16 (w : Nat) : Except DecodeError Instr :=
  checkForm (.reservedShort (fld w 1 4)) (decodeRow16 w)

/-- Decode the instruction at the head of a list of bytes (R78): little-endian halfwords, bit 0 of the first giving the length. Answers the instruction, its length in bytes and the bytes after it. -/
def decode : List Byte → Except DecodeError (Instr × Nat × List Byte)
  | b0 :: b1 :: rest =>
    if b0.toNat % 2 = 0 then (decode16 (b0.toNat + 256 * b1.toNat)).map fun i => (i, 2, rest)
    else match rest with
      | b2 :: b3 :: rest' =>
        (decode32 (b0.toNat + 256 * b1.toNat + 65536 * b2.toNat + 16777216 * b3.toNat)).map fun i => (i, 4, rest')
      | _ => .error .truncated
  | _ => .error .truncated

/-- The length in bytes of an instruction; 0 for a step that has no encoding. -/
def instrLen : Instr → Nat
  | .add _ _ _ => 4
  | .sub _ _ _ => 4
  | .and _ _ _ => 4
  | .or _ _ _ => 4
  | .xor _ _ _ => 4
  | .andn _ _ _ => 4
  | .shl _ _ _ => 4
  | .shr _ _ _ => 4
  | .sha _ _ _ => 4
  | .rot _ _ _ => 4
  | .min _ _ _ => 4
  | .max _ _ _ => 4
  | .minu _ _ _ => 4
  | .maxu _ _ _ => 4
  | .slt _ _ _ => 4
  | .sltu _ _ _ => 4
  | .seq _ _ _ => 4
  | .sel _ _ _ _ => 4
  | .mul _ _ _ => 4
  | .mulh _ _ _ => 4
  | .mulhu _ _ _ => 4
  | .div _ _ _ => 4
  | .divu _ _ _ => 4
  | .rem _ _ _ => 4
  | .remu _ _ _ => 4
  | .clz _ _ => 4
  | .ctz _ _ => 4
  | .popc _ _ => 4
  | .brev _ _ => 4
  | .bext _ _ _ => 4
  | .bins _ _ _ => 4
  | .addi _ _ _ => 4
  | .andi _ _ _ => 4
  | .ori _ _ _ => 4
  | .xori _ _ _ => 4
  | .slti _ _ _ => 4
  | .sltiu _ _ _ => 4
  | .shli _ _ _ => 4
  | .shri _ _ _ => 4
  | .shai _ _ _ => 4
  | .lih _ _ => 4
  | .adpc _ _ => 4
  | .bcEq _ _ _ => 4
  | .bcNe _ _ _ => 4
  | .bcLt _ _ _ => 4
  | .bcGe _ _ _ => 4
  | .bcLtu _ _ _ => 4
  | .bcGeu _ _ _ => 4
  | .jl _ _ => 4
  | .jlr _ _ _ => 4
  | .loop _ _ => 4
  | .bmAny _ _ => 4
  | .bmAll _ _ => 4
  | .bmNone _ _ => 4
  | .ld _ _ _ _ => 4
  | .ldPly _ _ _ _ _ => 4
  | .st _ _ _ _ => 4
  | .stPly _ _ _ _ _ => 4
  | .ldfe _ _ _ => 4
  | .ldff _ _ _ => 4
  | .feget _ _ _ => 4
  | .ldx _ _ _ _ _ => 4
  | .stef _ _ _ => 4
  | .stff _ _ _ => 4
  | .feset _ _ _ => 4
  | .amoAdd _ _ _ _ _ => 4
  | .amoMin _ _ _ _ _ => 4
  | .amoMax _ _ _ _ _ => 4
  | .amoMinu _ _ _ _ _ => 4
  | .amoMaxu _ _ _ _ _ => 4
  | .amoAnd _ _ _ _ _ => 4
  | .amoOr _ _ _ _ _ => 4
  | .amoXor _ _ _ _ _ => 4
  | .amoSwap _ _ _ _ _ => 4
  | .amoFadd _ _ _ _ _ => 4
  | .cas _ _ _ _ => 4
  | .rlk _ _ _ => 4
  | .rlkT _ _ _ => 4
  | .wlk _ _ _ => 4
  | .wlkT _ _ _ => 4
  | .runlk _ _ _ => 4
  | .wunlk _ _ _ => 4
  | .fence _ _ => 4
  | .wait _ _ _ _ _ => 4
  | .pref _ _ _ => 4
  | .tmld _ _ _ => 4
  | .plynew _ => 4
  | .plynewNb _ => 4
  | .plyset _ => 4
  | .plyget _ => 4
  | .plyretC _ => 4
  | .plyretD _ => 4
  | .plyqry _ _ => 4
  | .fadd _ _ _ _ => 4
  | .fsub _ _ _ _ => 4
  | .fmul _ _ _ _ => 4
  | .fdiv _ _ _ _ => 4
  | .fsqrt _ _ _ => 4
  | .fmin _ _ _ _ => 4
  | .fmax _ _ _ _ => 4
  | .fcmp _ _ _ _ _ => 4
  | .fsgn _ _ _ _ => 4
  | .fsgnN _ _ _ _ => 4
  | .fsgnX _ _ _ _ => 4
  | .fclass _ _ _ => 4
  | .fmv _ _ => 4
  | .fmvX _ _ => 4
  | .fmvF _ _ => 4
  | .fma _ _ _ _ _ => 4
  | .fms _ _ _ _ _ => 4
  | .fnma _ _ _ _ _ => 4
  | .fnms _ _ _ _ _ => 4
  | .fcvt _ _ _ _ => 4
  | .vaddI _ _ _ _ _ => 4
  | .vsubI _ _ _ _ _ => 4
  | .vmulI _ _ _ _ _ => 4
  | .vminI _ _ _ _ _ => 4
  | .vmaxI _ _ _ _ _ => 4
  | .vminUi _ _ _ _ _ => 4
  | .vmaxUi _ _ _ _ _ => 4
  | .vand _ _ _ _ _ => 4
  | .vor _ _ _ _ _ => 4
  | .vxor _ _ _ _ _ => 4
  | .vshl _ _ _ _ _ => 4
  | .vshr _ _ _ _ _ => 4
  | .vsha _ _ _ _ _ => 4
  | .vcmpI _ _ _ _ _ _ => 4
  | .vcmpUi _ _ _ _ _ _ => 4
  | .vsel _ _ _ _ _ => 4
  | .vaddF _ _ _ _ _ => 4
  | .vsubF _ _ _ _ _ => 4
  | .vmulF _ _ _ _ _ => 4
  | .vdiv _ _ _ _ _ => 4
  | .vsqrt _ _ _ _ => 4
  | .vminF _ _ _ _ _ => 4
  | .vmaxF _ _ _ _ _ => 4
  | .vcmpF _ _ _ _ _ _ => 4
  | .vfma _ _ _ _ _ => 4
  | .vfms _ _ _ _ _ => 4
  | .vdotBf16 _ _ _ _ => 4
  | .vdotF16 _ _ _ _ => 4
  | .vdotI8 _ _ _ _ => 4
  | .vdotUi8 _ _ _ _ => 4
  | .vdotF32 _ _ _ _ => 4
  | .vld _ _ _ _ => 4
  | .vst _ _ _ _ => 4
  | .vlds _ _ _ _ _ => 4
  | .vsts _ _ _ _ _ => 4
  | .vgath _ _ _ _ _ => 4
  | .vscat _ _ _ _ _ => 4
  | .vldx _ _ _ _ _ => 4
  | .vperm _ _ _ _ _ => 4
  | .vbcastX _ _ _ _ => 4
  | .vbcastF _ _ _ _ => 4
  | .vred _ _ _ _ _ => 4
  | .vext _ _ _ _ => 4
  | .vins _ _ _ _ => 4
  | .vcvt _ _ _ _ _ => 4
  | .mand _ _ _ => 4
  | .mor _ _ _ => 4
  | .mxor _ _ _ => 4
  | .mnot _ _ => 4
  | .mpop _ _ => 4
  | .mfirst _ _ => 4
  | .mset _ _ => 4
  | .mget _ _ => 4
  | .send _ _ _ _ => 4
  | .sendv _ _ _ => 4
  | .mret _ _ => 4
  | .enq _ _ _ => 4
  | .deq _ _ => 4
  | .deqNb _ _ _ => 4
  | .esend _ _ => 4
  | .tspawn _ => 4
  | .tspawnA _ _ => 4
  | .tspawnW _ _ _ => 4
  | .tspawnAW _ _ _ _ => 4
  | .tdec _ _ => 4
  | .gang _ => 4
  | .mbxw _ => 4
  | .bobenq _ _ _ _ => 4
  | .bobdeq _ => 4
  | .recqry _ _ => 4
  | .tcfg _ _ => 4
  | .tcfgr _ _ _ => 4
  | .leaseT _ => 4
  | .tstate _ _ => 4
  | .tzero _ => 4
  | .astat _ _ => 4
  | .mmaBf16 _ _ _ _ => 4
  | .mmaF16 _ _ _ _ => 4
  | .mmaF64 _ _ _ _ => 4
  | .mmaQ8 _ _ _ _ => 4
  | .mmaQ4 _ _ _ _ => 4
  | .mmaQ4b _ _ _ _ => 4
  | .mmaQ8b _ _ _ _ => 4
  | .mmaF32r _ _ _ _ => 4
  | .mmsBf16 _ _ _ _ _ => 4
  | .mmsQ8 _ _ _ _ _ => 4
  | .acvt _ _ _ _ _ => 4
  | .azero _ _ => 4
  | .tld _ _ _ => 4
  | .tst _ _ _ => 4
  | .tstF _ _ _ => 4
  | .cpy _ _ _ => 4
  | .gath _ _ _ _ => 4
  | .coll _ _ _ => 4
  | .baddq _ _ _ _ _ => 4
  | .bquant _ _ _ _ _ => 4
  | .qdot _ _ _ _ _ => 4
  | .trap _ _ => 4
  | .svc _ _ _ => 4
  | .srr _ _ => 4
  | .srw _ _ => 4
  | .tstamp _ _ => 4
  | .idle _ => 4
  | .hnote _ => 4
  | .tlbw _ _ _ => 4
  | .tlbi _ _ => 4
  | .mbxr _ _ _ => 4
  | .ctxsv _ _ => 4
  | .ctxld _ _ => 4
  | .gstop _ => 4
  | .cMv _ _ => 2
  | .cAdd _ _ => 2
  | .cAddi _ _ => 2
  | .cSub _ _ => 2
  | .cAnd _ _ => 2
  | .cShli _ _ => 2
  | .cLd _ _ _ => 2
  | .cSt _ _ _ => 2
  | .cBz _ _ => 2
  | .cBnz _ _ => 2
  | .cJ _ => 2
  | .cWait _ => 2
  | .cLdfe _ _ => 2
  | .cStef _ _ => 2
  | .yield => 4
  | .texit => 4
  | .recdoneP => 4
  | .recdoneJ => 4
  | .lease => 4
  | .lrel => 4
  | .bkpt => 4
  | .cNop => 2
  | .cMret => 2
  | .cYield => 2
  | .cTexit => 2
  | .recordPickup => 0
  | .stealScan => 0
  | .stealScanRetry => 0
  | .spill => 0
  | .spillReadyTimeout => 0
  | .spillResume => 0
  | .ageingPromotion => 0
  | .gangRequest => 0
  | .gangStart => 0
  | .doorbell => 0
  | .launchIngestion => 0
  | .launchStart => 0
  | .engagementAcknowledgement => 0
  | .launchCompletion => 0
  | .taskSpawn => 0
  | .spawnResend => 0
  | .dependenceDecrement => 0
  | .queueItem => 0
  | .queueWindowWrite => 0
  | .messageArrival => 0
  | .handlerEntry => 0
  | .remoteLoad => 0
  | .remoteStore => 0
  | .remoteAtomic => 0
  | .responseDelivery => 0
  | .skeinRecordDelivery => 0
  | .eventMessage => 0
  | .eventPolicyReply => 0
  | .tlbMissWalk => 0
  | .eventReply => 0
  | .hoverrun => 0
  | .loadReturn => 0
  | .remoteAcknowledgement => 0
  | .tldComplete => 0
  | .tstComplete => 0
  | .arrayCommandComplete => 0
  | .leaseExpiry => 0
  | .plyretComplete => 0
  | .plyretCLineWrite => 0
  | .plypoolTimeout => 0
  | .lockRemoteRetry => 0
  | .rebase => 0
  | .spindleGo => 0
  | .spindleHalt => 0
  | .spindleImageLoad => 0
  | .contextCreate => 0
  | .contextFree => 0
  | .contextReset => 0
  | .hreply => 0
  | .dhalt => 0
  | .pstop => 0
  | .contextSwitchOut => 0
  | .contextSwitchIn => 0
  | .registerWrite => 0
  | .bankCommandStart => 0
  | .waveFormation => 0
  | .bankElement => 0
  | .disturbanceAlert => 0
  | .alertClear => 0
  | .refreshBlock => 0
  | .lstmoTimeout => 0
  | .bankCommandEnd => 0
  | .reductionCommandStart => 0
  | .reductionLine => 0
  | .cpyComplete => 0
  | .plypoolNote => 0
  | .gathComplete => 0
  | .collComplete => 0
  | .routerRelease => 0
  | .holdSlotRoute => 0
  | .workerReassignment => 0
  | .flitReceive => 0
  | .nakReceive => 0
  | .linkAckReceive => 0
  | .replayTimeout => 0
  | .retrainTimeout => 0
  | .trainingComplete => 0
  | .linkRestart => 0
  | .routerForward => 0
  | .packetArrival => 0
  | .e2eRetryTimeout => 0
  | .e2eUnreachTimeout => 0
  | .resyncRetry => 0
  | .keyReleaseTimeout => 0
  | .reduceChunk => 0
  | .multicastChunk => 0
  | .chunkResend => 0
  | .colltmo => 0
  | .keyInstall => 0
  | .keyRotationComplete => 0
  | .cubeRemoval => 0
  | .restripe => 0
  | .reconfigurationWindow => 0
  | .drainMarker => 0
  | .bar2Access => 0
  | .msixUnmask => 0
  | .bootGo => 0
  | .attestation => 0
  | .powerWindow => 0
  | .thermalWarn => 0
  | .thermalStop => 0
  | .thermalResume => 0
  | .lifeUpdate => 0
  | .traceDrain => 0
  | .traceSample => 0
  | .clusterGate => 0
  | .clusterUngate => 0
  | .powerOn => 0
  | .storePerformed => 0
  | .idleWaitExpiry => 0
  | .linkAckInterval => 0

/-- The word of an instruction, from its row's fixed bits and fields; 0 for a step that has no encoding. -/
def encodeWord : Instr → Nat
  | .add d a b => 1 + d.val * 128 + a.val * 4096 + b.val * 131072
  | .sub d a b => 134217729 + d.val * 128 + a.val * 4096 + b.val * 131072
  | .and d a b => 268435457 + d.val * 128 + a.val * 4096 + b.val * 131072
  | .or d a b => 402653185 + d.val * 128 + a.val * 4096 + b.val * 131072
  | .xor d a b => 536870913 + d.val * 128 + a.val * 4096 + b.val * 131072
  | .andn d a b => 671088641 + d.val * 128 + a.val * 4096 + b.val * 131072
  | .shl d a b => 805306369 + d.val * 128 + a.val * 4096 + b.val * 131072
  | .shr d a b => 939524097 + d.val * 128 + a.val * 4096 + b.val * 131072
  | .sha d a b => 1073741825 + d.val * 128 + a.val * 4096 + b.val * 131072
  | .rot d a b => 1207959553 + d.val * 128 + a.val * 4096 + b.val * 131072
  | .min d a b => 1342177281 + d.val * 128 + a.val * 4096 + b.val * 131072
  | .max d a b => 1476395009 + d.val * 128 + a.val * 4096 + b.val * 131072
  | .minu d a b => 1610612737 + d.val * 128 + a.val * 4096 + b.val * 131072
  | .maxu d a b => 1744830465 + d.val * 128 + a.val * 4096 + b.val * 131072
  | .slt d a b => 1879048193 + d.val * 128 + a.val * 4096 + b.val * 131072
  | .sltu d a b => 2013265921 + d.val * 128 + a.val * 4096 + b.val * 131072
  | .seq d a b => 2147483649 + d.val * 128 + a.val * 4096 + b.val * 131072
  | .sel d a b c => 2281701377 + d.val * 128 + a.val * 4096 + b.val * 131072 + c.val * 4194304
  | .mul d a b => 3 + d.val * 128 + a.val * 4096 + b.val * 131072
  | .mulh d a b => 134217731 + d.val * 128 + a.val * 4096 + b.val * 131072
  | .mulhu d a b => 268435459 + d.val * 128 + a.val * 4096 + b.val * 131072
  | .div d a b => 402653187 + d.val * 128 + a.val * 4096 + b.val * 131072
  | .divu d a b => 536870915 + d.val * 128 + a.val * 4096 + b.val * 131072
  | .rem d a b => 671088643 + d.val * 128 + a.val * 4096 + b.val * 131072
  | .remu d a b => 805306371 + d.val * 128 + a.val * 4096 + b.val * 131072
  | .clz d a => 939524099 + d.val * 128 + a.val * 4096
  | .ctz d a => 1073741827 + d.val * 128 + a.val * 4096
  | .popc d a => 1207959555 + d.val * 128 + a.val * 4096
  | .brev d a => 1342177283 + d.val * 128 + a.val * 4096
  | .bext d a b => 1476395011 + d.val * 128 + a.val * 4096 + b.val * 131072
  | .bins d a b => 1610612739 + d.val * 128 + a.val * 4096 + b.val * 131072
  | .addi d a im => 5 + d.val * 128 + a.val * 4096 + im.toNat * 131072
  | .andi d a im => 7 + d.val * 128 + a.val * 4096 + im.toNat * 131072
  | .ori d a im => 9 + d.val * 128 + a.val * 4096 + im.toNat * 131072
  | .xori d a im => 11 + d.val * 128 + a.val * 4096 + im.toNat * 131072
  | .slti d a im => 13 + d.val * 128 + a.val * 4096 + im.toNat * 131072
  | .sltiu d a im => 15 + d.val * 128 + a.val * 4096 + im.toNat * 131072
  | .shli d a sz => 17 + d.val * 128 + a.val * 4096 + sz.val * 131072
  | .shri d a sz => 8388625 + d.val * 128 + a.val * 4096 + sz.val * 131072
  | .shai d a sz => 16777233 + d.val * 128 + a.val * 4096 + sz.val * 131072
  | .lih d im => 19 + d.val * 128 + im.toNat * 4096
  | .adpc d im => 21 + d.val * 128 + im.toNat * 4096
  | .bcEq a b o => 23 + a.val * 128 + b.val * 4096 + o.toNat * 1048576
  | .bcNe a b o => 131095 + a.val * 128 + b.val * 4096 + o.toNat * 1048576
  | .bcLt a b o => 262167 + a.val * 128 + b.val * 4096 + o.toNat * 1048576
  | .bcGe a b o => 393239 + a.val * 128 + b.val * 4096 + o.toNat * 1048576
  | .bcLtu a b o => 524311 + a.val * 128 + b.val * 4096 + o.toNat * 1048576
  | .bcGeu a b o => 655383 + a.val * 128 + b.val * 4096 + o.toNat * 1048576
  | .jl d o => 25 + d.val * 128 + o.toNat * 4096
  | .jlr d a im => 27 + d.val * 128 + a.val * 4096 + im.toNat * 131072
  | .loop a o => 29 + a.val * 128 + o.toNat * 1048576
  | .bmAny m o => 31 + m.val * 128 + o.toNat * 1048576
  | .bmAll m o => 131103 + m.val * 128 + o.toNat * 1048576
  | .bmNone m o => 262175 + m.val * 128 + o.toNat * 1048576
  | .ld d b sz o => 33 + d.val * 128 + b.val * 4096 + sz.val * 131072 + o.toNat * 8388608
  | .ldPly d b sz p o => 4194337 + d.val * 128 + b.val * 4096 + sz.val * 131072 + p.val * 8388608 + o.toNat * 268435456
  | .st d b sz o => 35 + d.val * 128 + b.val * 4096 + sz.val * 131072 + o.toNat * 8388608
  | .stPly d b sz p o => 4194339 + d.val * 128 + b.val * 4096 + sz.val * 131072 + p.val * 8388608 + o.toNat * 268435456
  | .ldfe d b o => 37 + d.val * 128 + b.val * 4096 + o.toNat * 8388608
  | .ldff d b o => 131109 + d.val * 128 + b.val * 4096 + o.toNat * 8388608
  | .feget d b o => 262181 + d.val * 128 + b.val * 4096 + o.toNat * 8388608
  | .ldx d b sz p o => 4194341 + d.val * 128 + b.val * 4096 + sz.val * 131072 + p.val * 8388608 + o.toNat * 268435456
  | .stef d b o => 39 + d.val * 128 + b.val * 4096 + o.toNat * 8388608
  | .stff d b o => 131111 + d.val * 128 + b.val * 4096 + o.toNat * 8388608
  | .feset d b o => 262183 + d.val * 128 + b.val * 4096 + o.toNat * 8388608
  | .amoAdd d a b c z => 33554473 + d.val * 128 + a.val * 4096 + b.val * 131072 + c.val * 4194304 + z.toNat * 16777216
  | .amoMin d a b c z => 167772201 + d.val * 128 + a.val * 4096 + b.val * 131072 + c.val * 4194304 + z.toNat * 16777216
  | .amoMax d a b c z => 301989929 + d.val * 128 + a.val * 4096 + b.val * 131072 + c.val * 4194304 + z.toNat * 16777216
  | .amoMinu d a b c z => 436207657 + d.val * 128 + a.val * 4096 + b.val * 131072 + c.val * 4194304 + z.toNat * 16777216
  | .amoMaxu d a b c z => 570425385 + d.val * 128 + a.val * 4096 + b.val * 131072 + c.val * 4194304 + z.toNat * 16777216
  | .amoAnd d a b c z => 704643113 + d.val * 128 + a.val * 4096 + b.val * 131072 + c.val * 4194304 + z.toNat * 16777216
  | .amoOr d a b c z => 838860841 + d.val * 128 + a.val * 4096 + b.val * 131072 + c.val * 4194304 + z.toNat * 16777216
  | .amoXor d a b c z => 973078569 + d.val * 128 + a.val * 4096 + b.val * 131072 + c.val * 4194304 + z.toNat * 16777216
  | .amoSwap d a b c z => 1107296297 + d.val * 128 + a.val * 4096 + b.val * 131072 + c.val * 4194304 + z.toNat * 16777216
  | .amoFadd d a b c z => 1241514025 + d.val * 128 + a.val * 4096 + b.val * 131072 + c.val * 4194304 + z.toNat * 16777216
  | .cas d a b c => 43 + d.val * 128 + a.val * 4096 + b.val * 131072 + c.val * 4194304
  | .rlk d a c => 134217771 + d.val * 128 + a.val * 4096 + c.val * 4194304
  | .rlkT d a c => 268435499 + d.val * 128 + a.val * 4096 + c.val * 4194304
  | .wlk d a c => 402653227 + d.val * 128 + a.val * 4096 + c.val * 4194304
  | .wlkT d a c => 536870955 + d.val * 128 + a.val * 4096 + c.val * 4194304
  | .runlk d a c => 671088683 + d.val * 128 + a.val * 4096 + c.val * 4194304
  | .wunlk d a c => 805306411 + d.val * 128 + a.val * 4096 + c.val * 4194304
  | .fence c k => 45 + c.val * 4194304 + k.val * 16777216
  | .wait l sz c t m => 134217773 + l.val * 128 + sz.val * 2048 + c.val * 32768 + t.val * 524288 + m.val * 8388608
  | .pref h a o => 268435501 + h.toNat * 128 + a.val * 4096 + o.toNat * 131072
  | .tmld t a o => 402653229 + t.val * 128 + a.val * 4096 + o.toNat * 131072
  | .plynew d => 47 + d.val * 128
  | .plynewNb d => 134217775 + d.val * 128
  | .plyset a => 268435503 + a.val * 4096
  | .plyget d => 402653231 + d.val * 128
  | .plyretC a => 536870959 + a.val * 4096
  | .plyretD a => 671088687 + a.val * 4096
  | .plyqry d a => 805306415 + d.val * 128 + a.val * 4096
  | .fadd d a b p => 49 + d.val * 128 + a.val * 4096 + b.val * 131072 + p.val * 4194304
  | .fsub d a b p => 134217777 + d.val * 128 + a.val * 4096 + b.val * 131072 + p.val * 4194304
  | .fmul d a b p => 268435505 + d.val * 128 + a.val * 4096 + b.val * 131072 + p.val * 4194304
  | .fdiv d a b p => 402653233 + d.val * 128 + a.val * 4096 + b.val * 131072 + p.val * 4194304
  | .fsqrt d a p => 536870961 + d.val * 128 + a.val * 4096 + p.val * 4194304
  | .fmin d a b p => 671088689 + d.val * 128 + a.val * 4096 + b.val * 131072 + p.val * 4194304
  | .fmax d a b p => 805306417 + d.val * 128 + a.val * 4096 + b.val * 131072 + p.val * 4194304
  | .fcmp d a b p k => 939524145 + d.val * 128 + a.val * 4096 + b.val * 131072 + p.val * 4194304 + k.val * 16777216
  | .fsgn d a b p => 1073741873 + d.val * 128 + a.val * 4096 + b.val * 131072 + p.val * 4194304
  | .fsgnN d a b p => 1090519089 + d.val * 128 + a.val * 4096 + b.val * 131072 + p.val * 4194304
  | .fsgnX d a b p => 1107296305 + d.val * 128 + a.val * 4096 + b.val * 131072 + p.val * 4194304
  | .fclass d a p => 1207959601 + d.val * 128 + a.val * 4096 + p.val * 4194304
  | .fmv d a => 1342177329 + d.val * 128 + a.val * 4096
  | .fmvX d a => 1358954545 + d.val * 128 + a.val * 4096
  | .fmvF d a => 1375731761 + d.val * 128 + a.val * 4096
  | .fma d a b c p => 51 + d.val * 128 + a.val * 4096 + b.val * 131072 + c.val * 4194304 + p.val * 536870912
  | .fms d a b c p => 134217779 + d.val * 128 + a.val * 4096 + b.val * 131072 + c.val * 4194304 + p.val * 536870912
  | .fnma d a b c p => 268435507 + d.val * 128 + a.val * 4096 + b.val * 131072 + c.val * 4194304 + p.val * 536870912
  | .fnms d a b c p => 402653235 + d.val * 128 + a.val * 4096 + b.val * 131072 + c.val * 4194304 + p.val * 536870912
  | .fcvt d a t sz => 53 + d.val * 128 + a.val * 4096 + t.val * 4194304 + sz.val * 134217728
  | .vaddI d a b w m => 55 + d.val * 128 + a.val * 4096 + b.val * 131072 + w.val * 4194304 + m.val * 16777216
  | .vsubI d a b w m => 134217783 + d.val * 128 + a.val * 4096 + b.val * 131072 + w.val * 4194304 + m.val * 16777216
  | .vmulI d a b w m => 268435511 + d.val * 128 + a.val * 4096 + b.val * 131072 + w.val * 4194304 + m.val * 16777216
  | .vminI d a b w m => 402653239 + d.val * 128 + a.val * 4096 + b.val * 131072 + w.val * 4194304 + m.val * 16777216
  | .vmaxI d a b w m => 536870967 + d.val * 128 + a.val * 4096 + b.val * 131072 + w.val * 4194304 + m.val * 16777216
  | .vminUi d a b w m => 671088695 + d.val * 128 + a.val * 4096 + b.val * 131072 + w.val * 4194304 + m.val * 16777216
  | .vmaxUi d a b w m => 805306423 + d.val * 128 + a.val * 4096 + b.val * 131072 + w.val * 4194304 + m.val * 16777216
  | .vand d a b w m => 939524151 + d.val * 128 + a.val * 4096 + b.val * 131072 + w.val * 4194304 + m.val * 16777216
  | .vor d a b w m => 1073741879 + d.val * 128 + a.val * 4096 + b.val * 131072 + w.val * 4194304 + m.val * 16777216
  | .vxor d a b w m => 1207959607 + d.val * 128 + a.val * 4096 + b.val * 131072 + w.val * 4194304 + m.val * 16777216
  | .vshl d a b w m => 1342177335 + d.val * 128 + a.val * 4096 + b.val * 131072 + w.val * 4194304 + m.val * 16777216
  | .vshr d a b w m => 1476395063 + d.val * 128 + a.val * 4096 + b.val * 131072 + w.val * 4194304 + m.val * 16777216
  | .vsha d a b w m => 1610612791 + d.val * 128 + a.val * 4096 + b.val * 131072 + w.val * 4194304 + m.val * 16777216
  | .vcmpI n k a b w m => 1744830519 + n.val * 128 + k.val * 1024 + a.val * 4096 + b.val * 131072 + w.val * 4194304 + m.val * 16777216
  | .vcmpUi n k a b w m => 1879048247 + n.val * 128 + k.val * 1024 + a.val * 4096 + b.val * 131072 + w.val * 4194304 + m.val * 16777216
  | .vsel d a b w m => 2013265975 + d.val * 128 + a.val * 4096 + b.val * 131072 + w.val * 4194304 + m.val * 16777216
  | .vaddF d a b w m => 2147483703 + d.val * 128 + a.val * 4096 + b.val * 131072 + w.val * 4194304 + m.val * 16777216
  | .vsubF d a b w m => 2281701431 + d.val * 128 + a.val * 4096 + b.val * 131072 + w.val * 4194304 + m.val * 16777216
  | .vmulF d a b w m => 2415919159 + d.val * 128 + a.val * 4096 + b.val * 131072 + w.val * 4194304 + m.val * 16777216
  | .vdiv d a b w m => 2550136887 + d.val * 128 + a.val * 4096 + b.val * 131072 + w.val * 4194304 + m.val * 16777216
  | .vsqrt d a w m => 2684354615 + d.val * 128 + a.val * 4096 + w.val * 4194304 + m.val * 16777216
  | .vminF d a b w m => 2818572343 + d.val * 128 + a.val * 4096 + b.val * 131072 + w.val * 4194304 + m.val * 16777216
  | .vmaxF d a b w m => 2952790071 + d.val * 128 + a.val * 4096 + b.val * 131072 + w.val * 4194304 + m.val * 16777216
  | .vcmpF n k a b w m => 3087007799 + n.val * 128 + k.val * 1024 + a.val * 4096 + b.val * 131072 + w.val * 4194304 + m.val * 16777216
  | .vfma d a b w m => 57 + d.val * 128 + a.val * 4096 + b.val * 131072 + w.val * 4194304 + m.val * 16777216
  | .vfms d a b w m => 134217785 + d.val * 128 + a.val * 4096 + b.val * 131072 + w.val * 4194304 + m.val * 16777216
  | .vdotBf16 d a b m => 268435513 + d.val * 128 + a.val * 4096 + b.val * 131072 + m.val * 16777216
  | .vdotF16 d a b m => 402653241 + d.val * 128 + a.val * 4096 + b.val * 131072 + m.val * 16777216
  | .vdotI8 d a b m => 536870969 + d.val * 128 + a.val * 4096 + b.val * 131072 + m.val * 16777216
  | .vdotUi8 d a b m => 671088697 + d.val * 128 + a.val * 4096 + b.val * 131072 + m.val * 16777216
  | .vdotF32 d a b m => 805306425 + d.val * 128 + a.val * 4096 + b.val * 131072 + m.val * 16777216
  | .vld d a w m => 59 + d.val * 128 + a.val * 4096 + w.val * 4194304 + m.val * 16777216
  | .vst d a w m => 134217787 + d.val * 128 + a.val * 4096 + w.val * 4194304 + m.val * 16777216
  | .vlds d a b w m => 268435515 + d.val * 128 + a.val * 4096 + b.val * 131072 + w.val * 4194304 + m.val * 16777216
  | .vsts d a b w m => 402653243 + d.val * 128 + a.val * 4096 + b.val * 131072 + w.val * 4194304 + m.val * 16777216
  | .vgath d a b w m => 545259579 + d.val * 128 + a.val * 4096 + b.val * 131072 + w.toNat * 4194304 + m.val * 16777216
  | .vscat d a b w m => 679477307 + d.val * 128 + a.val * 4096 + b.val * 131072 + w.toNat * 4194304 + m.val * 16777216
  | .vldx d a b w m => 805306427 + d.val * 128 + a.val * 4096 + b.val * 131072 + w.val * 4194304 + m.val * 16777216
  | .vperm d a b w m => 61 + d.val * 128 + a.val * 4096 + b.val * 131072 + w.val * 4194304 + m.val * 16777216
  | .vbcastX d a w m => 134217789 + d.val * 128 + a.val * 4096 + w.val * 4194304 + m.val * 16777216
  | .vbcastF d a w m => 268435517 + d.val * 128 + a.val * 4096 + w.val * 4194304 + m.val * 16777216
  | .vred d a o w m => 402653245 + d.val * 128 + a.val * 4096 + o.val * 131072 + w.val * 4194304 + m.val * 16777216
  | .vext d a b w => 536870973 + d.val * 128 + a.val * 4096 + b.val * 131072 + w.val * 4194304
  | .vins d a b w => 671088701 + d.val * 128 + a.val * 4096 + b.val * 131072 + w.val * 4194304
  | .vcvt d a t sz m => 1073741885 + d.val * 128 + a.val * 4096 + t.val * 131072 + sz.val * 4194304 + m.val * 134217728
  | .mand d a b => 63 + d.val * 128 + a.val * 4096 + b.val * 131072
  | .mor d a b => 134217791 + d.val * 128 + a.val * 4096 + b.val * 131072
  | .mxor d a b => 268435519 + d.val * 128 + a.val * 4096 + b.val * 131072
  | .mnot d a => 402653247 + d.val * 128 + a.val * 4096
  | .mpop d a => 536870975 + d.val * 128 + a.val * 4096
  | .mfirst d a => 671088703 + d.val * 128 + a.val * 4096
  | .mset d a => 805306431 + d.val * 128 + a.val * 4096
  | .mget d a => 939524159 + d.val * 128 + a.val * 4096
  | .send r a b c => 65 + r.val * 128 + a.val * 4096 + b.val * 131072 + c.val * 4194304
  | .sendv r a b => 134217793 + r.val * 128 + a.val * 4096 + b.val * 131072
  | .mret a b => 268435521 + a.val * 4096 + b.val * 131072
  | .enq d a b => 402653249 + d.val * 128 + a.val * 4096 + b.val * 131072
  | .deq a b => 536870977 + a.val * 4096 + b.val * 131072
  | .deqNb d a b => 671088705 + d.val * 128 + a.val * 4096 + b.val * 131072
  | .esend a b => 805306433 + a.val * 4096 + b.val * 131072
  | .tspawn b => 67 + b.val * 131072
  | .tspawnA a b => 134217795 + a.val * 4096 + b.val * 131072
  | .tspawnW d b c => 268435523 + d.val * 128 + b.val * 131072 + c.val * 4194304
  | .tspawnAW d a b c => 402653251 + d.val * 128 + a.val * 4096 + b.val * 131072 + c.val * 4194304
  | .tdec a b => 536870979 + a.val * 4096 + b.val * 131072
  | .gang a => 939524163 + a.val * 4096
  | .mbxw a => 1073741891 + a.val * 4096
  | .bobenq d a b c => 69 + d.val * 128 + a.val * 4096 + b.val * 131072 + c.val * 4194304
  | .bobdeq a => 134217797 + a.val * 4096
  | .recqry d a => 536870981 + d.val * 128 + a.val * 4096
  | .tcfg t a => 71 + t.val * 128 + a.val * 4096
  | .tcfgr d t e => 134217799 + d.val * 128 + t.val * 4096 + e.toNat * 4194304
  | .leaseT d => 402653255 + d.val * 128
  | .tstate d t => 671088711 + d.val * 128 + t.val * 4096
  | .tzero t => 805306439 + t.val * 128
  | .astat d a => 939524167 + d.val * 128 + a.val * 4096
  | .mmaBf16 c a b z => 73 + c.val * 128 + a.val * 4096 + b.val * 131072 + z.toNat * 4194304
  | .mmaF16 c a b z => 134217801 + c.val * 128 + a.val * 4096 + b.val * 131072 + z.toNat * 4194304
  | .mmaF64 c a b z => 268435529 + c.val * 128 + a.val * 4096 + b.val * 131072 + z.toNat * 4194304
  | .mmaQ8 c a b z => 402653257 + c.val * 128 + a.val * 4096 + b.val * 131072 + z.toNat * 4194304
  | .mmaQ4 c a b z => 536870985 + c.val * 128 + a.val * 4096 + b.val * 131072 + z.toNat * 4194304
  | .mmaQ4b c a b z => 671088713 + c.val * 128 + a.val * 4096 + b.val * 131072 + z.toNat * 4194304
  | .mmaQ8b c a b z => 805306441 + c.val * 128 + a.val * 4096 + b.val * 131072 + z.toNat * 4194304
  | .mmaF32r c a b z => 939524169 + c.val * 128 + a.val * 4096 + b.val * 131072 + z.toNat * 4194304
  | .mmsBf16 c a b z p => 75 + c.val * 128 + a.val * 4096 + b.val * 131072 + z.toNat * 4194304 + p.val * 8388608
  | .mmsQ8 c a b z p => 134217803 + c.val * 128 + a.val * 4096 + b.val * 131072 + z.toNat * 4194304 + p.val * 8388608
  | .acvt t a o m r => 268435531 + t.val * 128 + a.val * 4096 + o.val * 131072 + m.val * 4194304 + r.toNat * 33554432
  | .azero c a => 402653259 + c.val * 128 + a.val * 4096
  | .tld t m o => 77 + t.val * 128 + m.val * 4096 + o.val * 131072
  | .tst t m o => 134217805 + t.val * 128 + m.val * 4096 + o.val * 131072
  | .tstF t m o => 268435533 + t.val * 128 + m.val * 4096 + o.val * 131072
  | .cpy d sz c => 402653261 + d.val * 128 + sz.val * 4096 + c.val * 131072
  | .gath d sz im c => 536870989 + d.val * 128 + sz.val * 4096 + im.val * 131072 + c.val * 4194304
  | .coll d sz k => 671088717 + d.val * 128 + sz.val * 4096 + k.val * 131072
  | .baddq d a b h q => 79 + d.val * 128 + a.val * 4096 + b.val * 131072 + h.val * 4194304 + q.toNat * 67108864
  | .bquant d a sz h q => 134217807 + d.val * 128 + a.val * 4096 + sz.toNat * 131072 + h.val * 4194304 + q.toNat * 67108864
  | .qdot d a b h q => 268435535 + d.val * 128 + a.val * 4096 + b.val * 131072 + h.val * 4194304 + q.toNat * 67108864
  | .trap a k => 81 + a.val * 4096 + k.toNat * 131072
  | .svc d a k => 134217809 + d.val * 128 + a.val * 4096 + k.toNat * 131072
  | .srr d im => 268435537 + d.val * 128 + im.val * 131072
  | .srw a im => 402653265 + a.val * 4096 + im.val * 131072
  | .tstamp d a => 671088721 + d.val * 128 + a.val * 4096
  | .idle a => 805306449 + a.val * 4096
  | .hnote a => 939524177 + a.val * 4096
  | .tlbw a b c => 83 + a.val * 4096 + b.val * 131072 + c.val * 4194304
  | .tlbi a b => 134217811 + a.val * 4096 + b.val * 131072
  | .mbxr d a b => 268435539 + d.val * 128 + a.val * 4096 + b.val * 131072
  | .ctxsv a b => 402653267 + a.val * 4096 + b.val * 131072
  | .ctxld a b => 536870995 + a.val * 4096 + b.val * 131072
  | .gstop a => 671088723 + a.val * 4096
  | .cMv d sz => 2 + d.val * 32 + sz.val * 1024
  | .cAdd d sz => 4 + d.val * 32 + sz.val * 1024
  | .cAddi d im => 6 + d.val * 32 + im.toNat * 1024
  | .cSub d sz => 8 + d.val * 32 + sz.val * 1024
  | .cAnd d sz => 10 + d.val * 32 + sz.val * 1024
  | .cShli d h => 12 + d.val * 32 + h.val * 1024
  | .cLd d b o => 14 + d.val * 32 + b.val * 256 + o.val * 2048
  | .cSt d b o => 16 + d.val * 32 + b.val * 256 + o.val * 2048
  | .cBz a o => 18 + a.val * 32 + o.toNat * 1024
  | .cBnz a o => 20 + a.val * 32 + o.toNat * 1024
  | .cJ o => 22 + o.toNat * 32
  | .cWait m => 24 + m.toNat * 32
  | .cLdfe d b => 26 + d.val * 32 + b.val * 1024
  | .cStef d b => 28 + d.val * 32 + b.val * 1024
  | .yield => 671088707
  | .texit => 805306435
  | .recdoneP => 268435525
  | .recdoneJ => 402653253
  | .lease => 268435527
  | .lrel => 536870983
  | .bkpt => 536870993
  | .cNop => 32
  | .cMret => 64
  | .cYield => 96
  | .cTexit => 128
  | .recordPickup => 0
  | .stealScan => 0
  | .stealScanRetry => 0
  | .spill => 0
  | .spillReadyTimeout => 0
  | .spillResume => 0
  | .ageingPromotion => 0
  | .gangRequest => 0
  | .gangStart => 0
  | .doorbell => 0
  | .launchIngestion => 0
  | .launchStart => 0
  | .engagementAcknowledgement => 0
  | .launchCompletion => 0
  | .taskSpawn => 0
  | .spawnResend => 0
  | .dependenceDecrement => 0
  | .queueItem => 0
  | .queueWindowWrite => 0
  | .messageArrival => 0
  | .handlerEntry => 0
  | .remoteLoad => 0
  | .remoteStore => 0
  | .remoteAtomic => 0
  | .responseDelivery => 0
  | .skeinRecordDelivery => 0
  | .eventMessage => 0
  | .eventPolicyReply => 0
  | .tlbMissWalk => 0
  | .eventReply => 0
  | .hoverrun => 0
  | .loadReturn => 0
  | .remoteAcknowledgement => 0
  | .tldComplete => 0
  | .tstComplete => 0
  | .arrayCommandComplete => 0
  | .leaseExpiry => 0
  | .plyretComplete => 0
  | .plyretCLineWrite => 0
  | .plypoolTimeout => 0
  | .lockRemoteRetry => 0
  | .rebase => 0
  | .spindleGo => 0
  | .spindleHalt => 0
  | .spindleImageLoad => 0
  | .contextCreate => 0
  | .contextFree => 0
  | .contextReset => 0
  | .hreply => 0
  | .dhalt => 0
  | .pstop => 0
  | .contextSwitchOut => 0
  | .contextSwitchIn => 0
  | .registerWrite => 0
  | .bankCommandStart => 0
  | .waveFormation => 0
  | .bankElement => 0
  | .disturbanceAlert => 0
  | .alertClear => 0
  | .refreshBlock => 0
  | .lstmoTimeout => 0
  | .bankCommandEnd => 0
  | .reductionCommandStart => 0
  | .reductionLine => 0
  | .cpyComplete => 0
  | .plypoolNote => 0
  | .gathComplete => 0
  | .collComplete => 0
  | .routerRelease => 0
  | .holdSlotRoute => 0
  | .workerReassignment => 0
  | .flitReceive => 0
  | .nakReceive => 0
  | .linkAckReceive => 0
  | .replayTimeout => 0
  | .retrainTimeout => 0
  | .trainingComplete => 0
  | .linkRestart => 0
  | .routerForward => 0
  | .packetArrival => 0
  | .e2eRetryTimeout => 0
  | .e2eUnreachTimeout => 0
  | .resyncRetry => 0
  | .keyReleaseTimeout => 0
  | .reduceChunk => 0
  | .multicastChunk => 0
  | .chunkResend => 0
  | .colltmo => 0
  | .keyInstall => 0
  | .keyRotationComplete => 0
  | .cubeRemoval => 0
  | .restripe => 0
  | .reconfigurationWindow => 0
  | .drainMarker => 0
  | .bar2Access => 0
  | .msixUnmask => 0
  | .bootGo => 0
  | .attestation => 0
  | .powerWindow => 0
  | .thermalWarn => 0
  | .thermalStop => 0
  | .thermalResume => 0
  | .lifeUpdate => 0
  | .traceDrain => 0
  | .traceSample => 0
  | .clusterGate => 0
  | .clusterUngate => 0
  | .powerOn => 0
  | .storePerformed => 0
  | .idleWaitExpiry => 0
  | .linkAckInterval => 0

/-- The bytes of a number, least significant first (R4). -/
def bytesOf : Nat → Nat → List Byte
  | 0, _ => []
  | n + 1, v => BitVec.ofNat 8 v :: bytesOf n (v / 256)

/-- The bytes of an instruction as they stand at rising addresses (R78, R4). -/
def encode (i : Instr) : List Byte := bytesOf (instrLen i) (encodeWord i)

/-- The instruction the decoder reads from a word of nbits bits numbered as the opcode table numbers them, the bits above nbits zero. -/
def decodeTableWord (nbits w : Nat) : Option Instr :=
  match decode (bytesOf 4 (w % 2 ^ nbits)) with
  | .ok (i, _, _) => some i
  | .error _ => none

end Sys2Proof
end

