-- ==== Sys2Proof/Machine/Regs.lean ====
section
/-! DEFINITION. Which registers an instruction names, as far as the wait for an answer needs them (R152, R156), and the
instructions a spindle core executes (R50). -/

namespace Sys2Proof.Machine

open Sys2Proof

/-- The registers an instruction names or, in a suspension, saves. Registers of the other files with the same numbers count too (DESIGN CHOICE, log entry 21). -/
def regsOf : Instr → List (Fin 32)
  | .add d a b => [d, a, b]
  | .sub d a b => [d, a, b]
  | .and d a b => [d, a, b]
  | .or d a b => [d, a, b]
  | .xor d a b => [d, a, b]
  | .andn d a b => [d, a, b]
  | .shl d a b => [d, a, b]
  | .shr d a b => [d, a, b]
  | .sha d a b => [d, a, b]
  | .rot d a b => [d, a, b]
  | .min d a b => [d, a, b]
  | .max d a b => [d, a, b]
  | .minu d a b => [d, a, b]
  | .maxu d a b => [d, a, b]
  | .slt d a b => [d, a, b]
  | .sltu d a b => [d, a, b]
  | .seq d a b => [d, a, b]
  | .sel d a b c => [d, a, b, c]
  | .mul d a b => [d, a, b]
  | .mulh d a b => [d, a, b]
  | .mulhu d a b => [d, a, b]
  | .div d a b => [d, a, b]
  | .divu d a b => [d, a, b]
  | .rem d a b => [d, a, b]
  | .remu d a b => [d, a, b]
  | .clz d a => [d, a]
  | .ctz d a => [d, a]
  | .popc d a => [d, a]
  | .brev d a => [d, a]
  | .bext d a b => [d, a, b]
  | .bins d a b => [d, a, b]
  | .addi d a _ => [d, a]
  | .andi d a _ => [d, a]
  | .ori d a _ => [d, a]
  | .xori d a _ => [d, a]
  | .slti d a _ => [d, a]
  | .sltiu d a _ => [d, a]
  | .shli d a _ => [d, a]
  | .shri d a _ => [d, a]
  | .shai d a _ => [d, a]
  | .lih d _ => [d]
  | .adpc d _ => [d]
  | .bcEq a b _ => [a, b]
  | .bcNe a b _ => [a, b]
  | .bcLt a b _ => [a, b]
  | .bcGe a b _ => [a, b]
  | .bcLtu a b _ => [a, b]
  | .bcGeu a b _ => [a, b]
  | .jl d _ => [d]
  | .jlr d a _ => [d, a]
  | .loop a _ => [a]
  | .ld d b _ _ => [d, b]
  | .ldPly d b _ p _ => [d, b, p]
  | .st d b _ _ => [d, b]
  | .stPly d b _ p _ => [d, b, p]
  | .ldfe d b _ => [d, b]
  | .ldff d b _ => [d, b]
  | .feget d b _ => [d, b]
  | .ldx d b _ p _ => [d, b, p]
  | .stef d b _ => [d, b]
  | .stff d b _ => [d, b]
  | .feset d b _ => [d, b]
  | .amoAdd d a b _ _ => [d, a, b]
  | .amoMin d a b _ _ => [d, a, b]
  | .amoMax d a b _ _ => [d, a, b]
  | .amoMinu d a b _ _ => [d, a, b]
  | .amoMaxu d a b _ _ => [d, a, b]
  | .amoAnd d a b _ _ => [d, a, b]
  | .amoOr d a b _ _ => [d, a, b]
  | .amoXor d a b _ _ => [d, a, b]
  | .amoSwap d a b _ _ => [d, a, b]
  | .amoFadd d a b _ _ => [d, a, b]
  | .cas d a b _ => [d, a, b]
  | .rlk d a _ => [d, a]
  | .rlkT d a _ => [d, a]
  | .wlk d a _ => [d, a]
  | .wlkT d a _ => [d, a]
  | .runlk d a _ => [d, a]
  | .wunlk d a _ => [d, a]
  | .pref _ a _ => [a]
  | .tmld _ a _ => [a]
  | .plynew d => [d]
  | .plynewNb d => [d]
  | .plyset a => [a]
  | .plyget d => [d]
  | .plyretC a => [a]
  | .plyretD a => [a]
  | .plyqry d a => [d, a]
  | .fadd d a b _ => [d, a, b]
  | .fsub d a b _ => [d, a, b]
  | .fmul d a b _ => [d, a, b]
  | .fdiv d a b _ => [d, a, b]
  | .fsqrt d a _ => [d, a]
  | .fmin d a b _ => [d, a, b]
  | .fmax d a b _ => [d, a, b]
  | .fcmp d a b _ _ => [d, a, b]
  | .fsgn d a b _ => [d, a, b]
  | .fsgnN d a b _ => [d, a, b]
  | .fsgnX d a b _ => [d, a, b]
  | .fclass d a _ => [d, a]
  | .fmv d a => [d, a]
  | .fmvX d a => [d, a]
  | .fmvF d a => [d, a]
  | .fma d a b c _ => [d, a, b, c]
  | .fms d a b c _ => [d, a, b, c]
  | .fnma d a b c _ => [d, a, b, c]
  | .fnms d a b c _ => [d, a, b, c]
  | .fcvt d a _ _ => [d, a]
  | .vaddI d a b _ _ => [d, a, b]
  | .vsubI d a b _ _ => [d, a, b]
  | .vmulI d a b _ _ => [d, a, b]
  | .vminI d a b _ _ => [d, a, b]
  | .vmaxI d a b _ _ => [d, a, b]
  | .vminUi d a b _ _ => [d, a, b]
  | .vmaxUi d a b _ _ => [d, a, b]
  | .vand d a b _ _ => [d, a, b]
  | .vor d a b _ _ => [d, a, b]
  | .vxor d a b _ _ => [d, a, b]
  | .vshl d a b _ _ => [d, a, b]
  | .vshr d a b _ _ => [d, a, b]
  | .vsha d a b _ _ => [d, a, b]
  | .vcmpI _ _ a b _ _ => [a, b]
  | .vcmpUi _ _ a b _ _ => [a, b]
  | .vsel d a b _ _ => [d, a, b]
  | .vaddF d a b _ _ => [d, a, b]
  | .vsubF d a b _ _ => [d, a, b]
  | .vmulF d a b _ _ => [d, a, b]
  | .vdiv d a b _ _ => [d, a, b]
  | .vsqrt d a _ _ => [d, a]
  | .vminF d a b _ _ => [d, a, b]
  | .vmaxF d a b _ _ => [d, a, b]
  | .vcmpF _ _ a b _ _ => [a, b]
  | .vfma d a b _ _ => [d, a, b]
  | .vfms d a b _ _ => [d, a, b]
  | .vdotBf16 d a b _ => [d, a, b]
  | .vdotF16 d a b _ => [d, a, b]
  | .vdotI8 d a b _ => [d, a, b]
  | .vdotUi8 d a b _ => [d, a, b]
  | .vdotF32 d a b _ => [d, a, b]
  | .vld d a _ _ => [d, a]
  | .vst d a _ _ => [d, a]
  | .vlds d a b _ _ => [d, a, b]
  | .vsts d a b _ _ => [d, a, b]
  | .vgath d a b _ _ => [d, a, b]
  | .vscat d a b _ _ => [d, a, b]
  | .vldx d a b _ _ => [d, a, b]
  | .vperm d a b _ _ => [d, a, b]
  | .vbcastX d a _ _ => [d, a]
  | .vbcastF d a _ _ => [d, a]
  | .vred d a _ _ _ => [d, a]
  | .vext d a b _ => [d, a, b]
  | .vins d a b _ => [d, a, b]
  | .vcvt d a _ _ _ => [d, a]
  | .mpop d _ => [d]
  | .mfirst d _ => [d]
  | .mset _ a => [a]
  | .mget d _ => [d]
  | .send r a b c => [r, a, b, c]
  | .sendv r a b => [r, a, b]
  | .mret a b => [a, b]
  | .enq d a b => [d, a, b]
  | .deq a b => [a, b, 9, 10, 11, 12, 13, 14]
  | .deqNb d a b => [d, a, b]
  | .esend a b => [a, b]
  | .tspawn b => [b]
  | .tspawnA a b => [a, b]
  | .tspawnW d b c => [d, b, c]
  | .tspawnAW d a b c => [d, a, b, c]
  | .tdec a b => [a, b]
  | .gang a => [a]
  | .mbxw a => [a, 9, 10, 11, 12, 13, 14]
  | .bobenq d a b c => [d, a, b, c]
  | .bobdeq a => [a, 9, 10, 11, 12, 13, 14]
  | .recqry d a => [d, a]
  | .tcfg _ a => [a]
  | .tcfgr d _ _ => [d]
  | .leaseT d => [d]
  | .tstate d _ => [d]
  | .astat d a => [d, a]
  | .mmaBf16 _ a b _ => [a, b]
  | .mmaF16 _ a b _ => [a, b]
  | .mmaF64 _ a b _ => [a, b]
  | .mmaQ8 _ a b _ => [a, b]
  | .mmaQ4 _ a b _ => [a, b]
  | .mmaQ4b _ a b _ => [a, b]
  | .mmaQ8b _ a b _ => [a, b]
  | .mmaF32r _ a b _ => [a, b]
  | .mmsBf16 _ a b _ _ => [a, b]
  | .mmsQ8 _ a b _ _ => [a, b]
  | .azero _ a => [a]
  | .tld _ _ o => [o]
  | .tst _ _ o => [o]
  | .tstF _ _ o => [o]
  | .cpy _ _ c => [c]
  | .gath _ _ im c => [im, c]
  | .coll _ _ k => [k]
  | .baddq d a b _ _ => [d, a, b]
  | .bquant d a _ _ _ => [d, a]
  | .qdot d a b _ _ => [d, a, b]
  | .trap a _ => [a]
  | .svc d a _ => [d, a]
  | .srr d _ => [d]
  | .srw a _ => [a]
  | .tstamp d a => [d, a]
  | .idle a => [a]
  | .hnote a => [a]
  | .tlbw a b c => [a, b, c]
  | .tlbi a b => [a, b]
  | .mbxr d a b => [d, a, b]
  | .ctxsv a b => [a, b]
  | .ctxld a b => [a, b]
  | .gstop a => [a]
  | .cMv d sz => [d, sz]
  | .cAdd d sz => [d, sz]
  | .cAddi d _ => [d]
  | .cSub d sz => [d, sz]
  | .cAnd d sz => [d, sz]
  | .cShli d _ => [d]
  | .cBz a _ => [a]
  | .cBnz a _ => [a]
  | .cLdfe d b => [d, b]
  | .cStef d b => [d, b]
  | .yield => [9, 10, 11, 12, 13, 14]
  | .cYield => [9, 10, 11, 12, 13, 14]
  | .cLd d b _ => [Fin.ofNat 32 (8 + d.val), Fin.ofNat 32 (8 + b.val)]
  | .cSt d b _ => [Fin.ofNat 32 (8 + d.val), Fin.ofNat 32 (8 + b.val)]
  | _ => []

/-- R50, R84: the groups a spindle core executes, with x fields up to 15 and tm fields up to 3; IDLE's ra field is ignored (R117). PRV, SRR and SRW
answer for themselves. -/
def spindleMay : Instr → Bool
  | .add d a b => decide (d.val < 16) && decide (a.val < 16) && decide (b.val < 16)
  | .sub d a b => decide (d.val < 16) && decide (a.val < 16) && decide (b.val < 16)
  | .and d a b => decide (d.val < 16) && decide (a.val < 16) && decide (b.val < 16)
  | .or d a b => decide (d.val < 16) && decide (a.val < 16) && decide (b.val < 16)
  | .xor d a b => decide (d.val < 16) && decide (a.val < 16) && decide (b.val < 16)
  | .andn d a b => decide (d.val < 16) && decide (a.val < 16) && decide (b.val < 16)
  | .shl d a b => decide (d.val < 16) && decide (a.val < 16) && decide (b.val < 16)
  | .shr d a b => decide (d.val < 16) && decide (a.val < 16) && decide (b.val < 16)
  | .sha d a b => decide (d.val < 16) && decide (a.val < 16) && decide (b.val < 16)
  | .rot d a b => decide (d.val < 16) && decide (a.val < 16) && decide (b.val < 16)
  | .min d a b => decide (d.val < 16) && decide (a.val < 16) && decide (b.val < 16)
  | .max d a b => decide (d.val < 16) && decide (a.val < 16) && decide (b.val < 16)
  | .minu d a b => decide (d.val < 16) && decide (a.val < 16) && decide (b.val < 16)
  | .maxu d a b => decide (d.val < 16) && decide (a.val < 16) && decide (b.val < 16)
  | .slt d a b => decide (d.val < 16) && decide (a.val < 16) && decide (b.val < 16)
  | .sltu d a b => decide (d.val < 16) && decide (a.val < 16) && decide (b.val < 16)
  | .seq d a b => decide (d.val < 16) && decide (a.val < 16) && decide (b.val < 16)
  | .sel d a b c => decide (d.val < 16) && decide (a.val < 16) && decide (b.val < 16) && decide (c.val < 16)
  | .mul d a b => decide (d.val < 16) && decide (a.val < 16) && decide (b.val < 16)
  | .mulh d a b => decide (d.val < 16) && decide (a.val < 16) && decide (b.val < 16)
  | .mulhu d a b => decide (d.val < 16) && decide (a.val < 16) && decide (b.val < 16)
  | .div d a b => decide (d.val < 16) && decide (a.val < 16) && decide (b.val < 16)
  | .divu d a b => decide (d.val < 16) && decide (a.val < 16) && decide (b.val < 16)
  | .rem d a b => decide (d.val < 16) && decide (a.val < 16) && decide (b.val < 16)
  | .remu d a b => decide (d.val < 16) && decide (a.val < 16) && decide (b.val < 16)
  | .clz d a => decide (d.val < 16) && decide (a.val < 16)
  | .ctz d a => decide (d.val < 16) && decide (a.val < 16)
  | .popc d a => decide (d.val < 16) && decide (a.val < 16)
  | .brev d a => decide (d.val < 16) && decide (a.val < 16)
  | .bext d a b => decide (d.val < 16) && decide (a.val < 16) && decide (b.val < 16)
  | .bins d a b => decide (d.val < 16) && decide (a.val < 16) && decide (b.val < 16)
  | .addi d a _ => decide (d.val < 16) && decide (a.val < 16)
  | .andi d a _ => decide (d.val < 16) && decide (a.val < 16)
  | .ori d a _ => decide (d.val < 16) && decide (a.val < 16)
  | .xori d a _ => decide (d.val < 16) && decide (a.val < 16)
  | .slti d a _ => decide (d.val < 16) && decide (a.val < 16)
  | .sltiu d a _ => decide (d.val < 16) && decide (a.val < 16)
  | .shli d a _ => decide (d.val < 16) && decide (a.val < 16)
  | .shri d a _ => decide (d.val < 16) && decide (a.val < 16)
  | .shai d a _ => decide (d.val < 16) && decide (a.val < 16)
  | .lih d _ => decide (d.val < 16)
  | .adpc _ _ => false
  | .bcEq a b _ => decide (a.val < 16) && decide (b.val < 16)
  | .bcNe a b _ => decide (a.val < 16) && decide (b.val < 16)
  | .bcLt a b _ => decide (a.val < 16) && decide (b.val < 16)
  | .bcGe a b _ => decide (a.val < 16) && decide (b.val < 16)
  | .bcLtu a b _ => decide (a.val < 16) && decide (b.val < 16)
  | .bcGeu a b _ => decide (a.val < 16) && decide (b.val < 16)
  | .jl d _ => decide (d.val < 16)
  | .jlr d a _ => decide (d.val < 16) && decide (a.val < 16)
  | .loop a _ => decide (a.val < 16)
  | .ld d b _ _ => decide (d.val < 16) && decide (b.val < 16)
  | .ldPly d b _ p _ => decide (d.val < 16) && decide (b.val < 16) && decide (p.val < 16)
  | .st d b _ _ => decide (d.val < 16) && decide (b.val < 16)
  | .stPly d b _ p _ => decide (d.val < 16) && decide (b.val < 16) && decide (p.val < 16)
  | .ldfe d b _ => decide (d.val < 16) && decide (b.val < 16)
  | .ldff d b _ => decide (d.val < 16) && decide (b.val < 16)
  | .feget d b _ => decide (d.val < 16) && decide (b.val < 16)
  | .ldx d b _ p _ => decide (d.val < 16) && decide (b.val < 16) && decide (p.val < 16)
  | .stef d b _ => decide (d.val < 16) && decide (b.val < 16)
  | .stff d b _ => decide (d.val < 16) && decide (b.val < 16)
  | .feset d b _ => decide (d.val < 16) && decide (b.val < 16)
  | .amoAdd d a b _ _ => decide (d.val < 16) && decide (a.val < 16) && decide (b.val < 16)
  | .amoMin d a b _ _ => decide (d.val < 16) && decide (a.val < 16) && decide (b.val < 16)
  | .amoMax d a b _ _ => decide (d.val < 16) && decide (a.val < 16) && decide (b.val < 16)
  | .amoMinu d a b _ _ => decide (d.val < 16) && decide (a.val < 16) && decide (b.val < 16)
  | .amoMaxu d a b _ _ => decide (d.val < 16) && decide (a.val < 16) && decide (b.val < 16)
  | .amoAnd d a b _ _ => decide (d.val < 16) && decide (a.val < 16) && decide (b.val < 16)
  | .amoOr d a b _ _ => decide (d.val < 16) && decide (a.val < 16) && decide (b.val < 16)
  | .amoXor d a b _ _ => decide (d.val < 16) && decide (a.val < 16) && decide (b.val < 16)
  | .amoSwap d a b _ _ => decide (d.val < 16) && decide (a.val < 16) && decide (b.val < 16)
  | .amoFadd d a b _ _ => decide (d.val < 16) && decide (a.val < 16) && decide (b.val < 16)
  | .cas d a b _ => decide (d.val < 16) && decide (a.val < 16) && decide (b.val < 16)
  | .fence _ _ => true
  | .wait _ _ _ _ _ => true
  | .pref _ a _ => decide (a.val < 16)
  | .tmld t a _ => decide (a.val < 16) && decide (t.val < 4)
  | .tld _ m o => decide (o.val < 16) && decide (m.val < 4)
  | .tst _ m o => decide (o.val < 16) && decide (m.val < 4)
  | .tstF _ m o => decide (o.val < 16) && decide (m.val < 4)
  | .cpy d sz c => decide (c.val < 16) && decide (d.val < 4) && decide (sz.val < 4)
  | .gath d sz im c => decide (im.val < 16) && decide (c.val < 16) && decide (d.val < 4) && decide (sz.val < 4)
  | .srr d _ => decide (d.val < 16)
  | .srw a _ => decide (a.val < 16)
  | .idle _ => true
  | .tlbw a b c => decide (a.val < 16) && decide (b.val < 16) && decide (c.val < 16)
  | .tlbi a b => decide (a.val < 16) && decide (b.val < 16)
  | .mbxr d a b => decide (d.val < 16) && decide (a.val < 16) && decide (b.val < 16)
  | .ctxsv a b => decide (a.val < 16) && decide (b.val < 16)
  | .ctxld a b => decide (a.val < 16) && decide (b.val < 16)
  | .gstop a => decide (a.val < 16)
  | .cMv d sz => decide (d.val < 16) && decide (sz.val < 16)
  | .cAdd d sz => decide (d.val < 16) && decide (sz.val < 16)
  | .cAddi d _ => decide (d.val < 16)
  | .cSub d sz => decide (d.val < 16) && decide (sz.val < 16)
  | .cAnd d sz => decide (d.val < 16) && decide (sz.val < 16)
  | .cShli d _ => decide (d.val < 16)
  | .cLd _ _ _ => true
  | .cSt _ _ _ => true
  | .cBz a _ => decide (a.val < 16)
  | .cBnz a _ => decide (a.val < 16)
  | .cJ _ => true
  | .cWait _ => true
  | .cLdfe d b => decide (d.val < 16) && decide (b.val < 16)
  | .cStef d b => decide (d.val < 16) && decide (b.val < 16)
  | .cNop => true
  | .cMret => true
  | _ => false

/-- The destination of an instruction that has one x register, or one f register, as its destination (R91). -/
inductive WrdDest where
  | x (r : Fin 32)
  | f (r : Fin 32)
  | none
  deriving DecidableEq, Repr

/-- Where WRD writes (R91). -/
def wrdDest : Instr → WrdDest
  | .add d _ _ => .x d
  | .sub d _ _ => .x d
  | .and d _ _ => .x d
  | .or d _ _ => .x d
  | .xor d _ _ => .x d
  | .andn d _ _ => .x d
  | .shl d _ _ => .x d
  | .shr d _ _ => .x d
  | .sha d _ _ => .x d
  | .rot d _ _ => .x d
  | .min d _ _ => .x d
  | .max d _ _ => .x d
  | .minu d _ _ => .x d
  | .maxu d _ _ => .x d
  | .slt d _ _ => .x d
  | .sltu d _ _ => .x d
  | .seq d _ _ => .x d
  | .sel d _ _ _ => .x d
  | .mul d _ _ => .x d
  | .mulh d _ _ => .x d
  | .mulhu d _ _ => .x d
  | .div d _ _ => .x d
  | .divu d _ _ => .x d
  | .rem d _ _ => .x d
  | .remu d _ _ => .x d
  | .clz d _ => .x d
  | .ctz d _ => .x d
  | .popc d _ => .x d
  | .brev d _ => .x d
  | .bext d _ _ => .x d
  | .bins d _ _ => .x d
  | .addi d _ _ => .x d
  | .andi d _ _ => .x d
  | .ori d _ _ => .x d
  | .xori d _ _ => .x d
  | .slti d _ _ => .x d
  | .sltiu d _ _ => .x d
  | .shli d _ _ => .x d
  | .shri d _ _ => .x d
  | .shai d _ _ => .x d
  | .lih d _ => .x d
  | .qdot d _ _ _ _ => .f d
  | .adpc d _ => .x d
  | .jl d _ => .x d
  | .jlr d _ _ => .x d
  | .loop a _ => .x a
  | .ld d _ _ _ => .x d
  | .ldPly d _ _ _ _ => .x d
  | .ldfe d _ _ => .x d
  | .ldff d _ _ => .x d
  | .feget d _ _ => .x d
  | .ldx d _ _ _ _ => .x d
  | .amoAdd d _ _ _ _ => .x d
  | .amoMin d _ _ _ _ => .x d
  | .amoMax d _ _ _ _ => .x d
  | .amoMinu d _ _ _ _ => .x d
  | .amoMaxu d _ _ _ _ => .x d
  | .amoAnd d _ _ _ _ => .x d
  | .amoOr d _ _ _ _ => .x d
  | .amoXor d _ _ _ _ => .x d
  | .amoSwap d _ _ _ _ => .x d
  | .amoFadd d _ _ _ _ => .x d
  | .cas d _ _ _ => .x d
  | .rlk d _ _ => .x d
  | .rlkT d _ _ => .x d
  | .wlk d _ _ => .x d
  | .wlkT d _ _ => .x d
  | .runlk d _ _ => .x d
  | .wunlk d _ _ => .x d
  | .plynew d => .x d
  | .plynewNb d => .x d
  | .plyget d => .x d
  | .plyqry d _ => .x d
  | .fadd d _ _ _ => .f d
  | .fsub d _ _ _ => .f d
  | .fmul d _ _ _ => .f d
  | .fdiv d _ _ _ => .f d
  | .fsqrt d _ _ => .f d
  | .fmin d _ _ _ => .f d
  | .fmax d _ _ _ => .f d
  | .fcmp d _ _ _ _ => .x d
  | .fsgn d _ _ _ => .f d
  | .fsgnN d _ _ _ => .f d
  | .fsgnX d _ _ _ => .f d
  | .fclass d _ _ => .x d
  | .fmv d _ => .f d
  | .fmvX d _ => .x d
  | .fmvF d _ => .f d
  | .fma d _ _ _ _ => .f d
  | .fms d _ _ _ _ => .f d
  | .fnma d _ _ _ _ => .f d
  | .fnms d _ _ _ _ => .f d
  | .fcvt d _ t _ => if 8 ≤ t.val then .x d else .f d
  | .vred d _ o _ _ => if o.val < 8 then .x d else .f d
  | .vext d _ _ _ => .x d
  | .mpop d _ => .x d
  | .mfirst d _ => .x d
  | .mget d _ => .x d
  | .enq d _ _ => .x d
  | .deqNb d _ _ => .x d
  | .tspawnW d _ _ => .x d
  | .tspawnAW d _ _ _ => .x d
  | .bobenq d _ _ _ => .x d
  | .recqry d _ => .x d
  | .tcfgr d _ _ => .x d
  | .leaseT d => .x d
  | .tstate d _ => .x d
  | .astat d _ => .x d
  | .svc d _ _ => .x d
  | .srr d _ => .x d
  | .tstamp d _ => .x d
  | .mbxr d _ _ => .x d
  | .cMv d _ => .x d
  | .cAdd d _ => .x d
  | .cAddi d _ => .x d
  | .cSub d _ => .x d
  | .cAnd d _ => .x d
  | .cShli d _ => .x d
  | .cLd d _ _ => .x (Fin.ofNat 32 (8 + d.val))
  | .cLdfe d _ => .x d
  | _ => .none

end Sys2Proof.Machine
end

