-- ==== Sys2Proof/Machine/Fetch.lean ====
section
/-! DEFINITION. Instruction fetch (R89, R90, R113): the halfwords at PC, translated and checked as execute accesses under tag 0, served
from the instruction cache where it holds them; a spindle core's from its instruction store (R50, R51). -/

namespace Sys2Proof.Machine

open Sys2Proof

/-- What a fetch gives: an instruction word and its length in bytes, or an event with its address; on the second halfword, the first is
known. -/
inductive Fetched where
  | word (w len : Nat)
  | stop (code : EvCode) (addr : Word) (first : Option Nat)
  deriving DecidableEq, Repr

/-- The halfword at an address, or the event of R89 step 2: ECCU before PERM. A halfword that the instruction cache holds raises ECCU too, where
memory's data has become uncorrectable: R113 leaves it open (DESIGN CHOICE, log entry 104). -/
def State.fetchHalf (s : State) (key : Nat) (va : Word) : Except EvCode Nat :=
  if isSpindle key then .ok (leVal [Tab.read 0 (s.unit key).imem (va.toNat % 4096), Tab.read 0 (s.unit key).imem ((va.toNat + 1) % 4096)])
  else
    match s.resolve (coreOf key) (s.ctxOf key) va .exec 0 with
    | .error c => match s.locate (coreOf key) (s.ctxOf key) va .read 0 with
      | .ok l => .error (if s.isLocal l && s.uncorrectable l.key then .eccu else c)
      | .error _ => .error c
    | .ok l =>
      if s.uncorrectable l.key then .error .eccu
      else .ok (match Tab.read none (s.core (coreOf key)).icache (l.key / 2) with
        | some h => h.toNat
        | none => leVal (s.bytes l.key 2))

/-- Fetch the instruction at PC (R78): bit 0 of the first halfword gives the length. -/
def State.fetch (s : State) (key : Nat) : Fetched :=
  let pc := (s.unit key).pc
  match s.fetchHalf key pc with
  | .error c => .stop c pc none
  | .ok h =>
    if h % 2 = 0 then .word h 2
    else match s.fetchHalf key (pcValue key (pc + 2)) with
      | .error c => .stop c (pc + 2) (some h)
      | .ok h2 => .word (h + 65536 * h2) 4

/-- The instruction a fetched word holds (R84). -/
def decodeFetched (w len : Nat) : Option Instr := match decode (bytesOf len w) with
  | .ok (i, _, _) => some i
  | .error _ => none

/-- The fetched word stands in the unit for the event message (R90); what a failed fetch has not read is open. -/
def State.noteFetch (s : State) (key : Nat) : Fetched → State
  | .word w len => s.setUnit key { s.unit key with ir := BitVec.ofNat 32 w, irLen := len, fetchStop := false }
  | .stop _ _ none => { s.setUnit key { s.unit key with ir := Config.fetchInsn s.fresh, irLen := 0, fetchStop := true } with fresh := s.fresh + 1 }
  | .stop _ _ (some h) =>
    { s.setUnit key { s.unit key with ir := (Config.fetchInsn s.fresh >>> 16 <<< 16) ||| BitVec.ofNat 32 (h % 65536), irLen := 4, fetchStop := true } with fresh := s.fresh + 1 }

/-- R31: strand 0's handler has used up its budget. -/
def State.overBudget (s : State) (key : Nat) : Bool :=
  let u := s.unit key
  isMsgStrand key && u.inMsg.isSome && decide ((s.core (coreOf key)).hbudget < s.cycle - u.handlerSince)

/-- A register of the instruction waits for an answer (R152, R156). -/
def Strand.answerDue (u : Strand) (i : Instr) : Bool := (regsOf i).any fun r => u.awaits.any fun a => decide (a.1 = r)

end Sys2Proof.Machine
end

