-- ==== Sys2Proof/Machine/Task.lean ====
section
/-! DEFINITION. Spawns (R155, R156), decrements (R157), YIELD and TEXIT (R158), GANG (R159), MBXW (R160). -/

namespace Sys2Proof.Machine

open Sys2Proof Host

/-! ## Spawns -/

/-- The record a template gives (R155): GMEM and bits [31:20] are zero. -/
def templateRecord (ws : List Word) (home : Nat) : List Word :=
  let w1 := wordAt ws 1
  wordAt ws 0 :: mkWord1 (recPlytag w1) (recPrio w1) (recSteal w1) false home (recGid w1) :: (ws.drop 2).take 6

/-- R155: the owner of an operand address: the core of a scratch-window address, else the core that homes the line under the
page's homing, on the cube the address map names; with the location on another cube whose home that cube finds by its mask, or whose frame it
holds to LINBASE (R236, R240). -/
def State.ownerOf (s : State) (va : Word) : Res (Nat × Nat × Option Loc) := do
  let l ← s.check va 1 .read s.myTag false 0
  .ok (if l.scratch then (l.cube, bits l.gpa 35 28, none) else (l.cube, s.homeOf s.myCtx l, if s.isLocal l || decide (l.homing < 64) then none else some l))

/-- A spawn (R155, R156): `a` the operand address of the .A forms, `c` the count of the .W forms, which travels in the envelope's REPLY, since the
payload is the record alone (R341; DESIGN CHOICE, log entry 13). -/
def State.spawn (s : State) (d : Fin 32) (a : Option (Fin 32)) (b : Fin 32) (c : Option (Fin 32)) : Res State := do
  roomIn s.me.msgs
  if 32 ≤ (s.core (coreOf s.cur)).spawns.length then stall .spawnBuffer
  let tva := s.me.readX b
  let (s1, bs) ← beforeAccess (s.readBlock tva 64 0) (match a with
    | some ra => (s.ownerOf (s.me.readX ra)).map fun _ => ()
    | none => .ok ())
  let ws := leWords bs
  need (!(wordAt ws 0).getLsbD 0) .align (wordAt ws 0)
  let (cube, home, far) ← match a with
    | some ra => s.ownerOf (s.me.readX ra)
    | none => if s.inPartition s.myCtx (recHome (wordAt ws 1)) then .ok (s.cubeNum, recHome (wordAt ws 1), none) else raise .perm tva
  let count : BitVec 60 := match c with
    | some rc => (s.me.readX rc &&& 0xFFFFFFFFFFFF).setWidth 60
    | none => 0
  let place : List Word := match far with
    | some l => [BitVec.ofNat 64 l.gpa, BitVec.ofNat 64 l.homing]
    | none => []
  let p := { s1.myPacket .builtin cube (unitNumber (unitKey home 0)) 3 0 2 (flitWords (templateRecord ws home ++ place)) with
    reply := count, aux := (if c.isSome then 16 else 0) ||| (if far.isSome then 32 else 0), conf := s.confPieces [(tva, 64, 0)] }
  match s1.sendState cube p.sunit 0 with
  | .unreach =>
    let u := s1.me.status 1 33
    .ok ((s1.noteStatus s1.myCtx 6).retire (if c.isSome then u.setX d 0 else u) 4)
  | .window => stall .window
  | .ready =>
    let s2 := (s1.post p).engage s.myCtx cube
    let u := s2.me.raiseCtr .msgs
    .ok (s2.retire (if c.isSome && decide (d.val ≠ 0) then { u with awaits := u.awaits ++ [(d, s1.fresh)] } else u) 4)

/-- TSPAWN (R155). -/
def execTspawn (b : Fin 32) (s : State) : Outcome State Fault Refusal := finish s (s.spawn 0 none b none)

/-- TSPAWN.A (R155): homed at the owner of x[ra]. -/
def execTspawnA (a b : Fin 32) (s : State) : Outcome State Fault Refusal := finish s (s.spawn 0 (some a) b none)

/-- TSPAWN.W (R156): waits on a counter of x[rc]; x[rd] receives the handle. -/
def execTspawnW (d b c : Fin 32) (s : State) : Outcome State Fault Refusal := finish s (s.spawn d none b (some c))

/-- TSPAWN.A.W (R155, R156). -/
def execTspawnAW (d a b c : Fin 32) (s : State) : Outcome State Fault Refusal := finish s (s.spawn d (some a) b (some c))

/-! ## TDEC (R157) -/

/-- A handle that breaks no rule, judged with this core's P and S. -/
def State.handleOk (s : State) (h : Nat) : Bool :=
  let k := s.core (coreOf s.cur)
  let off := bits h 19 0
  decide (bits h 63 60 = 15) && decide (bits h 59 56 = 0) && decide (off % 8 = 0) && decide (counterOff k 0 ≤ off)
    && decide (off < counterOff k k.poolSize)

/-- TDEC (R157): the amount goes to the handle's home in class 0. -/
def execTdec (a b : Fin 32) (s : State) : Outcome State Fault Refusal :=
  finish s (do
    let h := s.me.readX a
    roomIn s.me.msgs
    need (s.handleOk h.toNat) .perm h
    let cube := bits h.toNat 55 36
    let p := s.myPacket .builtin cube (unitNumber (unitKey (bits h.toNat 35 28) 0)) 4 0 2 [h, s.me.readX b &&& 0xFFFFFFFFFFFF, 0, 0]
    match s.sendState cube p.sunit 0 with
    | .unreach => .ok (s.retire (s.me.status 1 33) 4)
    | .window => stall .window
    | .ready => .ok ((s.post p).retire (s.me.raiseCtr .msgs) 4))

/-! ## Suspension and retirement -/

/-- YIELD with an instruction length (R19, R158): without a free slot the strand goes on. -/
def State.yieldForm (s : State) (len : Nat) : Res State := do
  s.noHandler
  match s.allocSlot (coreOf s.cur) with
  | some slot => .ok (s.suspend slot .runnable len)
  | none => .ok (s.retire s.me len)

/-- YIELD (R158). -/
def execYield (s : State) : Outcome State Fault Refusal := finish s (s.yieldForm 4)

/-- The work of the executing strand is retired (R158): a held record is rejected, loads already performed return into their registers, the strand is
IDLE. -/
def State.texit (s : State) : Res State := do
  s.noHandler
  let s1 := s.release s.myCtx s.me false
  .ok (s1.setMe s1.me.deliverAll.vacate)

/-- TEXIT (R158). -/
def execTexit (s : State) : Outcome State Fault Refusal := finish s s.texit

/-- MBXW (R160): goes on where the word is full, else parks on it; no free slot blocks. -/
def execMbxw (a : Fin 32) (s : State) : Outcome State Fault Refusal :=
  finish s (do
    s.noHandler
    let va := s.me.readX a
    let l ← s.feCheck va .read false
    if s.isFull l.key then
      let s1 := s.loadAt l 0
      .ok (s1.retire s1.me 4)
    else match s.allocSlot (coreOf s.cur) with
      | some slot => .ok (s.suspend slot (.word l.key) 4)
      | none => blockOn .poolSlot va)

/-! ## GANG (R159) -/

def gangFirst (ws : List Word) : Nat := bits (wordAt ws 0).toNat 7 0
def gangCores (ws : List Word) : Nat := bits (wordAt ws 0).toNat 14 8
def gangStrands (ws : List Word) : Nat := bits (wordAt ws 0).toNat 18 16
def gangPrio (ws : List Word) : Nat := bits (wordAt ws 0).toNat 21 20
def gangGid (ws : List Word) : Nat := bits (wordAt ws 0).toNat 63 40

/-- R159: a descriptor that breaks no rule. -/
def State.gangOk (s : State) (ctx : Nat) (ws : List Word) : Bool :=
  let w := (wordAt ws 0).toNat
  decide (bits w 15 15 = 0) && decide (bits w 19 19 = 0) && decide (bits w 39 22 = 0) && decide (1 ≤ gangCores ws) && decide (gangCores ws ≤ 64)
    && decide (1 ≤ gangStrands ws) && decide (gangFirst ws % 64 + gangCores ws ≤ 64) && !(wordAt ws 1).getLsbD 0
    && (List.range (gangCores ws)).all fun i => s.inPartition ctx (gangFirst ws + i)

/-- The record of member j on core FIRST + i (R159). -/
def gangRecord (ws : List Word) (ply : BitVec 16) (i j : Nat) : List Word :=
  let n := i * gangStrands ws + j
  [wordAt ws 1, mkWord1 ply (gangPrio ws) false true (gangFirst ws + i) (gangGid ws), wordAt ws 2 + wordAt ws 3 * BitVec.ofNat 64 n,
   wordAt ws 4, wordAt ws 5, wordAt ws 6, wordAt ws 7, BitVec.ofNat 64 n]

/-- The members in ascending core id (R23). -/
def gangMembers (ws : List Word) (ply : BitVec 16) : List (Nat × List Word) :=
  (List.range (gangCores ws)).flatMap fun i => (List.range (gangStrands ws)).map fun j => (gangFirst ws + i, gangRecord ws ply i j)

/-- Submit a gang request to a die's management (R23). -/
def State.submitGang (s : State) (die : Nat) (g : Gang) : State :=
  let k := s.die die
  { s.setDie die { k with gangs := k.gangs ++ [{ g with seq := s.fresh }] } with fresh := s.fresh + 1 }

/-- GANG (R159): submitted to die management; the issuer goes on. -/
def execGang (a : Fin 32) (s : State) : Outcome State Fault Refusal :=
  finish s (do
    let va := s.me.readX a
    let (s1, bs) ← s.readBlock va 64 0
    let ws := leWords bs
    need (s.gangOk s.myCtx ws) .perm va
    let g : Gang := ⟨0, s.myCtx, ws, s.me.ply, gangMembers ws s.me.ply, []⟩
    .ok ((s1.submitGang (gangFirst ws / 64) g).retire s1.me 4))

end Sys2Proof.Machine
end

