-- ==== Sys2Proof/Machine/Sched.lean ====
section
/-! DEFINITION. Who runs what (R14, R16, R17, R20, R23, R33, R252 to R254, R263): pickup, steal, spill and resume, ageing, gangs, delivery of
skein records. -/

namespace Sys2Proof.Machine

open Sys2Proof Host

/-! ## Level coordinates (R25, R26) -/

/-- Level descriptor i of a launch record, from offset 64. -/
def levWord (ws : List Word) (i : Nat) : Nat := (wordAt ws (8 + i)).toNat
def levDom (ws : List Word) (i : Nat) : Nat := bits (levWord ws i) 2 0
def levCount (ws : List Word) (i : Nat) : Nat := bits (levWord ws i) 47 16
def launchNlev (ws : List Word) : Nat := bits (wordAt ws 0).toNat 19 16

/-- Coordinates of list position p over the levels from `is` on (R25): the outermost level takes what is left. -/
def cubeCoords (ws : List Word) : List Nat → Nat → List (Nat × Nat)
  | [], _ => []
  | [i], p => [(i, p)]
  | i :: t, p => (i, p % levCount ws i) :: cubeCoords ws t (p / levCount ws i)

/-- Levels at cube domain and above. -/
def cubeLevels (ws : List Word) : List Nat := (List.range (launchNlev ws)).filter fun i => decide (4 ≤ levDom ws i)

/-- Place of a number in an ascending list. -/
def placeIn (l : List Nat) (x : Nat) : Nat := (l.filter fun y => decide (y < x)).length

/-- LVL0 to LVL7 of a strand (R26): the coordinates of the hardware within the launch's placement. -/
def State.levels (s : State) (ctx core strand : Nat) : Tab Word :=
  match (s.ctx ctx).launch with
  | some l => match l.position with
    | some p =>
      let clusters := s.clustersOf ctx
      let coord (d : Nat) : Nat :=
        if d = 0 then strand - 1
        else if d = 1 then core % 8
        else if d = 2 then placeIn (clusters.filter fun k => decide (k / 8 = core / 64)) (core / 8)
        else placeIn ((List.range 4).filter fun x => clusters.any fun k => decide (k / 8 = x)) (core / 64)
      (List.range (launchNlev l.words)).foldl (fun (t : Tab Word) i =>
        let v := if levDom l.words i < 4 then coord (levDom l.words i)
          else (((cubeCoords l.words (cubeLevels l.words) p).find? fun e => decide (e.1 = i)).map (·.2)).getD 0
        Tab.write 0 t i (BitVec.ofNat 64 v)) []
    | none => []
  | none => []

/-! ## Pickup (R14) -/

/-- A strand's state when it takes up a record (R14, R56). -/
def State.freshStrand (s : State) (key : Nat) (ws : List Word) : Strand :=
  let u := s.unit key
  let x := (List.range 6).foldl (fun (t : Tab Word) i => Tab.write 0 t (9 + i) (wordAt ws (2 + i))) []
  { pc := pcValue key (wordAt ws 0), x := x, ply := recPlytag (wordAt ws 1), rngst := u.rngst, word1 := wordAt ws 1,
    lvl := s.levels (s.ctxOf key) (coreOf key) (slotOf key), st := .run, wid := s.fresh, pts := max u.pts s.floor }

/-- The strand receives a record and runs. -/
def State.startRecord (s : State) (key : Nat) (ws : List Word) : State :=
  { s.setUnit key (s.freshStrand key ws) with fresh := s.fresh + 1 }

/-- A context whose cores take up work: it is there, and neither stopped nor switched out; a cube whose boot has failed runs nothing (R317). -/
def State.works (s : State) (core : Nat) : Bool :=
  let ctx := s.ctxOfCluster (core / 8)
  let k := s.ctx ctx
  decide (s.plat.boot ≠ .failed) && decide (ctx < 16) && (decide (k.state = .idle) || decide (k.state = .running)) && !k.stopped && !(k.pstop && k.dcores.getLsbD core)

/-- The lowest IDLE task strand (R253). -/
def State.idleStrand (s : State) (core : Nat) : Option Nat :=
  ([1, 2, 3, 4, 5, 6, 7].map (unitKey core)).find? fun k => decide ((s.unit k).st = .idle) && !(s.unit k).halted

/-- A ready spill entry or a run-list entry. -/
inductive Work where
  | spill (slot : Nat)
  | run (prio idx : Nat)
  deriving DecidableEq, Repr

/-- PRIO of the record word 1 that a spill slot holds (R17). -/
def State.spillPrio (s : State) (core slot : Nat) : Nat := recPrio (s.word64 (scratchKey core (spillOff (s.core core) slot + 3176)))

/-- Ready spill entries: slot, when ready, the order in which they became ready, aged. -/
def readySpills (k : Core) : List (Nat × Spill) := k.spills.filterMap fun e => match e.2 with
  | some p => if p.ready then some (e.1, p) else none
  | none => none

/-- What ageing has promoted, the one that has waited longest (R33). -/
def State.agedWork (s : State) (core : Nat) : Option Work :=
  let k := s.core core
  let spills := ((readySpills k).filter fun e => e.2.aged).map fun e => (e.2.readyAt, Work.spill e.1)
  let runs := (List.range 4).flatMap fun p => ((Tab.read [] k.runq p).mapIdx fun i r => (r, i)).filterMap fun e =>
    if e.1.aged then some (e.1.since, Work.run p e.2) else none
  (leastBy (·.1) (spills ++ runs)).map (·.2)

/-- The local work a strand takes next (R17, R33, R253). -/
def State.localWork (s : State) (core : Nat) : Option Work :=
  match s.agedWork core with
  | some w => some w
  | none =>
    let k := s.core core
    ([3, 2, 1, 0].findSome? fun p =>
      match leastBy (fun (e : Nat × Spill) => e.2.readySeq) ((readySpills k).filter fun e => decide (s.spillPrio core e.1 = p)) with
      | some e => some (Work.spill e.1)
      | none => if Tab.read [] k.runq p = [] then none else some (Work.run p 0))

/-- A run-list entry leaves its list. -/
def State.dropEntry (s : State) (core prio idx : Nat) : State :=
  let k := s.core core
  s.setCore core { k with runq := Tab.write [] k.runq prio ((Tab.read [] k.runq prio).eraseIdx idx) }

/-- A record of `home` is taken up by a strand (R14): the slot is free, the strand runs, a held skein record comes with it. -/
def State.pickup (s : State) (home slot key : Nat) : State :=
  let ws := s.record home slot
  let e := Tab.read none (s.core home).slots slot
  let s1 := (s.setSlot home slot none).startRecord key ws
  let s2 := match e with
    | some x => s1.setUnit key { s1.unit key with worker := x.worker, held := x.held, recfree := x.recfree, heldSid := x.heldSid, heldSince := x.heldSince }
    | none => s1
  let k := s2.core (coreOf key)
  (s2.setCore (coreOf key) { k with scanSince := 0, tookAt := some s.cycle }).trace key 4 (wordAt ws 0) (wordAt ws 1)

/-- The core takes up work, and has not yet completed a pickup, steal or spill resume in this cc (R253). -/
def State.mayTake (s : State) (core : Nat) : Bool := s.works core && decide ((s.core core).tookAt ≠ some s.cycle)

/-- RECORD_PICKUP (R14, R17, R253). -/
def execRecordPickup (s : State) : Outcome State Fault Refusal :=
  .next (
    let core := s.inp.core
    if s.mayTake core then
      match s.idleStrand core, s.localWork core with
      | some key, some (.run prio idx) => match (Tab.read [] (s.core core).runq prio)[idx]? with
        | some e => (s.dropEntry core prio idx).pickup core e.slot key
        | none => s
      | _, _ => s
    else s)

/-! ## Stealing (R17, R254) -/

/-- The oldest stealable entry at the highest priority of a victim that holds one. -/
def stealableOf (k : Core) : Option (Nat × Nat × RunEntry) :=
  [3, 2, 1, 0].findSome? fun p =>
    (((Tab.read [] k.runq p).mapIdx fun i r => (p, i, r)).find? fun e => stealable e.2.2.word1)

/-- The victims of a core in the order of its next scan, as distances 1 to 7. -/
def scanOrder (from_ : Nat) : List Nat := (List.range 7).map fun i => (from_ - 1 + i) % 7 + 1

/-- One scan. -/
def State.scan (s : State) (core key : Nat) : State :=
  let k := s.core core
  let victim (d : Nat) : Nat := core / 8 * 8 + (core % 8 + d) % 8
  match (scanOrder k.stealFrom).findSome? fun d => (stealableOf (s.core (victim d))).map fun e => (d, e) with
  | some (d, p, i, e) =>
    let s1 := (s.dropEntry (victim d) p i).pickup (victim d) e.slot key
    let k1 := s1.core core
    s1.setCore core { k1 with stealFrom := d % 7 + 1, scanSince := 0 }
  | none => s.setCore core { k with scanSince := s.cycle + 1 }

/-- A scan may run: a strand is idle and the core has no work of its own. -/
def State.scanner (s : State) (core : Nat) : Option Nat :=
  if s.mayTake core && (s.localWork core).isNone then s.idleStrand core else none

/-- STEAL_SCAN (R254): the first scan. -/
def execStealScan (s : State) : Outcome State Fault Refusal :=
  .next (match s.scanner s.inp.core with
    | some key => if (s.core s.inp.core).scanSince = 0 then s.scan s.inp.core key else s
    | none => s)

/-- STEAL_SCAN_RETRY (R254): 64 cc after a scan that found nothing. -/
def execStealScanRetry (s : State) : Outcome State Fault Refusal :=
  .next (
    let since := (s.core s.inp.core).scanSince
    match s.scanner s.inp.core with
    | some key => if since ≠ 0 ∧ 64 ≤ s.cycle + 1 - since then s.scan s.inp.core key else s
    | none => s)

/-! ## Spill and resume (R20) -/

/-- A strand that has been BLOCKED for BLKTMO cc. -/
def State.timedOut (s : State) (key : Nat) : Option Wait :=
  let u := s.unit key
  if u.st = .blocked ∧ !u.halted ∧ isTaskStrand key then
    match u.wait with
    | some w => if (s.core (coreOf key)).blktmo ≤ s.cycle - w.since then some w else none
    | none => none
  else none

/-- The lowest free spill slot (R253). -/
def freeSpill (k : Core) : Option Nat := (List.range k.spillSize).find? fun i => (Tab.read none k.spills i).isNone

/-- Another strand of the core has been blocked longer than its timeout, and longer than this one (R20). -/
def State.spillsFirst (s : State) (key : Nat) (w : Wait) : Bool :=
  (unitsOfCore (coreOf key)).any fun k => match s.timedOut k with
    | some w' => decide (w'.since < w.since)
    | none => false

/-- SPILL (R20): the request is withdrawn, the image written into the lowest free slot, the strand IDLE. -/
def execSpill (s : State) : Outcome State Fault Refusal :=
  .next (
    let core := s.inp.core
    let key := unitKey core s.inp.slot
    match s.timedOut key, freeSpill (s.core core) with
    | some w, some slot =>
      if s.spillsFirst key w then s
      else
        let u := { (s.unit key).deliverAll with loads := 0 }
        let s1 := s.withdraw key
        let k := s1.core core
        let entry : Spill := { wid := u.wid, ready := false, readyAt := 0, aged := false, readySeq := 0, since := s.cycle, wait := w, worker := u.worker,
                               heldSid := u.heldSid, heldSince := u.heldSince, wwait := none, awaits := u.awaits }
        let s2 := s1.putBase (scratchKey core (spillOff k slot)) (bytesOfWords u.spillWords)
        let s3 := s2.setCore core { k with spills := Tab.write none k.spills slot (some entry) }
        s3.setUnit key u.vacate
    | _, _ => s)

/-- A spill entry becomes ready. -/
def State.readySpill (s : State) (core slot : Nat) : State :=
  let k := s.core core
  match Tab.read none k.spills slot with
  | some p => if p.ready then s else
      { s.setCore core { k with spills := Tab.write none k.spills slot (some { p with ready := true, readyAt := s.cycle, readySeq := s.fresh }) } with fresh := s.fresh + 1 }
  | none => s

/-- SPILL_READY_TIMEOUT (R20): BLKTMO cc have passed since the spill. -/
def execSpillReadyTimeout (s : State) : Outcome State Fault Refusal :=
  .next (
    let k := s.core s.inp.core
    match Tab.read none k.spills s.inp.index with
    | some p => if k.blktmo ≤ s.cycle - p.since ∧ s.works s.inp.core then s.readySpill s.inp.core s.inp.index else s
    | none => s)

/-- The condition of a steal scan has ended (R254): no strand is idle, or the core has work of its own; the next scan begins anew. -/
def State.endScan (s : State) (core : Nat) : State :=
  let k := s.core core
  if k.scanSince ≠ 0 ∧ !(s.works core && (s.localWork core).isNone && (s.idleStrand core).isSome) then s.setCore core { k with scanSince := 0 } else s

/-- What a re-executed instruction keeps of its wait: how often a waiter for a word was passed over (R126). -/
def Wait.resumed (w : Wait) (now : Nat) : Option Wait := if w.kind = .full ∨ w.kind = .empty then some { w with since := now } else none

/-- Resume a spill entry on a strand (R20): everything but RNGST and LVL comes from the slot. -/
def State.resumeSpill (s : State) (core slot key : Nat) (p : Spill) : State :=
  let k := s.core core
  let ws := s.wordsAt (scratchKey core (spillOff k slot)) 512
  let u := s.unit key
  let v := ({ rngst := u.rngst, last := u.last, major := u.major, err := u.err, engerr := u.engerr } : Strand).loadRegisters ws
  let s1 := s.setCore core { k with spills := Tab.write none k.spills slot none, scanSince := 0, tookAt := some s.cycle }
  s1.setUnit key { v with loads := 0, lvl := s.levels (s.ctxOf key) core (slotOf key), st := .run, wid := p.wid, worker := p.worker, heldSid := p.heldSid,
                          heldSince := p.heldSince, pts := max u.pts s.floor, wait := p.wait.resumed s.cycle, awaits := p.awaits }

/-- SPILL_RESUME (R17, R20, R253). -/
def execSpillResume (s : State) : Outcome State Fault Refusal :=
  .next (
    let core := s.inp.core
    if s.mayTake core then
      match s.idleStrand core, s.localWork core with
      | some key, some (.spill slot) => match Tab.read none (s.core core).spills slot with
        | some p => s.resumeSpill core slot key p
        | none => s
      | _, _ => s
    else s)

/-- Work of a higher priority than p stands in a core: a run-list entry or a ready spill entry. -/
def State.higherWork (s : State) (core p : Nat) : Bool :=
  let k := s.core core
  (k.runq.any fun e => decide (p < e.1) && decide (e.2 ≠ [])) || (readySpills k).any fun e => decide (p < s.spillPrio core e.1)

/-- What waits behind higher priorities has done so since now, unless since before (R33). -/
def State.markBehind (s : State) (core : Nat) : State :=
  let k := s.core core
  let since (p : Nat) (b : Option Nat) : Option Nat := if b.isNone && s.higherWork core p then some s.cycle else b
  let k1 := { k with
    runq := k.runq.map fun e => (e.1, e.2.map fun r => { r with behind := since e.1 r.behind })
    spills := k.spills.map fun e => (e.1, e.2.map fun x => if x.ready then { x with behind := since (s.spillPrio core e.1) x.behind } else x) }
  if k1 = k then s else s.setCore core k1

/-- AGEING_PROMOTION (R33): records and ready spill entries that have waited 65,536 cc since they were first behind higher priorities are marked. -/
def execAgeingPromotion (s : State) : Outcome State Fault Refusal :=
  .next (
    let core := s.inp.core
    let k := s.core core
    if s.works core then
      s.setCore core { k with
        runq := k.runq.map fun e => (e.1, e.2.map fun r => { r with aged := r.aged || (r.behind.any fun b => decide (65536 ≤ s.cycle - b)) })
        spills := k.spills.map fun e => (e.1, e.2.map fun p => { p with aged := p.aged || (p.ready && p.behind.any fun b => decide (65536 ≤ s.cycle - b)) }) }
    else s)

/-! ## Gangs (R23, R159) -/

/-- Reserve strands in ascending core id until a core lacks one. -/
def State.reserve (s : State) (g : Gang) : Nat → State × Gang
  | 0 => (s, g)
  | n + 1 => match g.todo with
    | [] => (s, g)
    | (core, ws) :: t => match (if s.works core then s.idleStrand core else none) with
      | none => (s, g)
      | some key => (s.setUnit key { s.unit key with st := .reserved }).reserve { g with todo := t, reserved := g.reserved ++ [(key, ws)] } n

/-- GANG_REQUEST (R23): the oldest request of a die reserves what it can. -/
def execGangRequest (s : State) : Outcome State Fault Refusal :=
  .next (
    let d := s.inp.part
    match (s.die d).gangs with
    | g :: t =>
      if (s.ctx g.ctx).stopped then s
      else
        let (s1, g1) := s.reserve g g.todo.length
        s1.setDie d { s1.die d with gangs := g1 :: t }
    | [] => s)

/-- GANG_START (R23): with every strand reserved, each receives its record and runs, unless a core of theirs takes up nothing (R323). -/
def execGangStart (s : State) : Outcome State Fault Refusal :=
  .next (
    let d := s.inp.part
    match (s.die d).gangs with
    | g :: t =>
      if g.todo = [] ∧ g.reserved.all (fun r => s.works (coreOf r.1)) then
        let s1 := s.setDie d { s.die d with gangs := t }
        g.reserved.foldl (fun (q : State) r => q.startRecord r.1 r.2) s1
      else s
    | [] => s)

/-! ## Delivery to parked BOBDEQs (R162, R260, R263) -/

/-- The record of a parked BOBDEQ after delivery of `r`: PC at the stage's entry where it has one, PLY, x10 and x11. -/
def deliveredWords (ws : List Word) (entry : Word) (r : SkRec) : List Word :=
  let pc := if entry = 0 then wordAt ws 0 else entry
  let w1 := (wordAt ws 1 >>> 16 <<< 16) ||| r.ply.setWidth 64
  [pc, w1, wordAt ws 2, r.payload, r.word1] ++ ((ws.drop 5).take 3)

/-- SKEIN_RECORD_DELIVERY (R162, R260, R263). -/
def execSkeinRecordDelivery (s : State) : Outcome State Fault Refusal :=
  .next (
    let ctx := s.inp.ctx
    let sid := s.inp.index
    let i := s.inp.slot
    match s.skein ctx sid, firstParked (s.parked ctx fun p => decide (p = .bobbin sid i)) with
    | some k, some (core, slot) =>
      if (s.ctx ctx).state = .out then s
      else match (if k.ready i then (k.stage i).bobbin.head? else none), Tab.read none (s.core core).slots slot with
        | some r0, some e =>
          let r := r0.visited
          let raised := decide (i ≠ 16) && (k.stage i).raised
          let s1 := s.setSkein ctx sid (k.setStage i (k.stage i).pop)
          let s2 := s1.putBase (scratchKey core (recordOff (s1.core core) slot)) (bytesOfWords (deliveredWords (s.record core slot) (k.stage i).entry r))
          let s3 := s2.setSlot core slot (some (if i = 16 then { e with park := .runnable, worker := none }
            else { e with park := .runnable, worker := some ⟨sid, i⟩, held := some r, recfree := k.commuting i, heldSid := sid, heldSince := s.cycle }))
          let prio := recPrio (wordAt (s.record core slot) 1)
          s3.enqueueAt core slot (if raised then min 3 (prio + 1) else prio)
        | _, _ => s
    | _, _ => s)

end Sys2Proof.Machine
end

