-- ==== Sys2Proof/Machine/Window.lean ====
section
/-! DEFINITION. A context's configuration window (R313, R314): what a write of each field stores, and when it takes effect. -/

namespace Sys2Proof.Machine

open Sys2Proof

/-- The upper or lower bits of a word's field. -/
def field (v : Word) (hi lo : Nat) : Nat := bits v.toNat hi lo

/-- Words of a table that 16-bit fields pack four to a word. -/
def setQuota (t : Tab (BitVec 16)) (base : Nat) (v : Word) : Tab (BitVec 16) :=
  (List.range 4).foldl (fun (q : Tab (BitVec 16)) i => Tab.write 0 q (base + i) (BitVec.ofNat 16 (field v (16 * i + 15) (16 * i)))) t

def Ctx.refuse (k : Ctx) : Ctx := { k with cfgerr := true }

/-- NTAGS and POOL: the pool of a context that exists grows by the difference (R314). -/
def Ctx.setPool (k : Ctx) (v : Word) : Ctx :=
  let n : BitVec 16 := BitVec.ofNat 16 (field v 15 0)
  let p : BitVec 32 := BitVec.ofNat 32 (field v 63 32)
  if k.state = .free then { k with ntags := n, poolLines := p }
  else
    let more := p.toNat - k.poolLines.toNat
    { k with ntags := n, poolLines := p, poolTotal := k.poolTotal + more
             poolFree := (List.range 4).foldl (fun (t : Tab Nat) d => Tab.write 0 t d (Tab.read 0 t d + (more + 3 - d) / 4)) k.poolFree }

/-- NTAGS and POOL in STATE 1: each may only rise; a lower value is ignored and sets CFGERR (R314). The word that holds, and whether one was lower. -/
def Ctx.raisePool (k : Ctx) (v : Word) : Word × Bool :=
  let n := field v 15 0
  let p := field v 63 32
  (BitVec.ofNat 64 (max n k.ntags.toNat + max p k.poolLines.toNat * 2 ^ 32), decide (n < k.ntags.toNat) || decide (p < k.poolLines.toNat))

/-- A queue's ring (R28, R313). -/
def Ctx.queue (k : Ctx) (q : Nat) : HwQueue := (Tab.read none k.queues q).getD ⟨[], 0, 0, 0⟩
def Ctx.setQueue (k : Ctx) (q : Nat) (h : HwQueue) : Ctx := { k with queues := Tab.write none k.queues q (some h) }

/-- Fields written only through the physical function, and those written only in STATE 0 or 1 (R313). -/
def isPField (off : Nat) : Bool := (decide (0x008 ≤ off) && decide (off ≤ 0x030)) || decide (off = 0x050) || (decide (0x100 ≤ off) && decide (off < 0x180))
def isLField (off : Nat) : Bool :=
  (decide (0x010 ≤ off) && decide (off ≤ 0x048)) || (decide (0x1000 ≤ off) && decide (off < 0x1200)) || (decide (0x2000 ≤ off) && decide (off < 0x2400))

/-- A write of a word to a field without a behaviour of its own. Of TRCTL the bits that R322 names are kept. R322 gives no access for TRLOST
(0x078): the model lets it be written (DESIGN CHOICE, log entry 88). Of a queue's word 1, R313 gives [3:0] to a log2 of 6 to 16; the model takes
[4:0], since 16 has five bits (DESIGN CHOICE, log entry 89). -/
def Ctx.store (k : Ctx) (off : Nat) (v : Word) : Ctx :=
  if off = 0x000 then { k with cfgerr := k.cfgerr && !v.getLsbD 3 }
  else if off = 0x008 then (if k.state = .free then { k with clmask := v.setWidth 32 } else k.refuse)
  else if off = 0x010 then { k with ptbase := v.setWidth 60 }
  else if off = 0x018 then { k with ptlog := v.setWidth 5 }
  else if off = 0x020 then { k with savebase := v.setWidth 60 }
  else if off = 0x028 then { k with spoolbase := v.setWidth 60 }
  else if off = 0x030 then { k with spoolsize := v.setWidth 60 }
  else if off = 0x038 then k.setPool v
  else if off = 0x040 then { k with quota := setQuota k.quota 0 v }
  else if off = 0x048 then { k with quota := setQuota k.quota 4 v }
  else if off = 0x050 then { k with qdram := v.setWidth 4, qfab := BitVec.ofNat 32 (field v 35 4) }
  else if off = 0x058 then { k with evpol := v }
  else if off = 0x060 then { k with trbase := v, trWrite := 0 }
  else if off = 0x068 then { k with trsize := v, trWrite := 0 }
  else if off = 0x070 then { k with trctl := v &&& 0xFF03 }
  else if off = 0x078 then { k with trlost := v }
  else if 0x088 ≤ off ∧ off < 0x0A8 then
    let i := (off - 0x088) * 8
    { k with dcores := (k.dcores &&& ~~~((BitVec.ofNat 256 (2 ^ 64 - 1)) <<< i)) ||| (v.setWidth 256 <<< i) }
  else if off = 0x0E8 then { k with hreply1 := v }
  else if 0x100 ≤ off ∧ off < 0x180 then
    { k with lshare := (List.range 16).foldl (fun (t : Tab (BitVec 4)) i =>
        Tab.write 0 t ((off - 0x100) * 2 + i) (BitVec.ofNat 4 (field v (4 * i + 3) (4 * i)))) k.lshare }
  else if 0x1000 ≤ off ∧ off < 0x1200 then { k with hmask := Tab.write 0 k.hmask ((off - 0x1000) / 8) v }
  else if 0x2000 ≤ off ∧ off < 0x2400 then
    let q := (off - 0x2000) / 16
    let h := k.queue q
    if off % 16 = 0 then k.setQueue q { h with base := v }
    else k.setQueue q { h with log2 := v.setWidth 5, overflow := Nat.land h.overflow (2 ^ 32 - 1 - field v 63 32) }
  else k

/-- The context as its window shows it: the L fields with what has been written in STATE 1 (R314). -/
def Ctx.configured (k : Ctx) : Ctx := k.later.foldl (fun (c : Ctx) e => c.store e.1 e.2) { k with later := [] }

/-- A write of an L field in STATE 1: it waits for the next launch (R314), but for an overflow count, which is cleared at once. -/
def Ctx.storeLater (k : Ctx) (off : Nat) (v : Word) : Ctx :=
  if off = 0x038 then
    let (w, low) := k.configured.raisePool v
    { k with later := k.later ++ [(off, w)], cfgerr := k.cfgerr || low }
  else if 0x2000 ≤ off ∧ off % 16 = 8 then
    let h := k.queue ((off - 0x2000) / 16)
    { k.setQueue ((off - 0x2000) / 16) { h with overflow := Nat.land h.overflow (2 ^ 32 - 1 - field v 63 32) } with
      later := k.later ++ [(off, v &&& 0x1F)] }
  else { k with later := k.later ++ [(off, v)] }

/-- A write to a context's window, with the refusals of R313: through the virtual function also of CREATE and FREE. -/
def Ctx.write (k : Ctx) (pf : Bool) (off : Nat) (v : Word) : Ctx :=
  if (isPField off && !pf) || (isLField off && !(decide (k.state = .free) || decide (k.state = .idle)))
      || (decide (off = 0) && !pf && (v.getLsbD 4 || v.getLsbD 5)) then k.refuse
  else if isLField off ∧ k.state = .idle then k.storeLater off v
  else k.store off v

/-- A field that the launch depends on breaks its stated range (R313): PTLOG, SPOOLSIZE, a DRAM or fabric weight. -/
def Ctx.rangesBad (k : Ctx) : Bool :=
  decide (k.ptlog.toNat < 10) || decide (30 < k.ptlog.toNat) || decide (k.spoolsize.toNat % 2 ^ 16 ≠ 0) || decide (k.qdram = 0) || (List.range 8).any fun i => decide (bits k.qfab.toNat (4 * i + 3) (4 * i) = 0)

end Sys2Proof.Machine
end

