-- ==== Sys2Proof/Machine/Launch.lean ====
section
/-! DEFINITION. Launches (R24 to R27, R35, R36): submission by doorbell, the checks of a launch record, set-up and placement, launch starts and
engagements on several cubes, liveness and completion. -/

namespace Sys2Proof.Machine

open Sys2Proof Host

/-- DOORBELL (R24): the host submits a launch record; it waits for the function's posted writes before it (R311), and for a re-striping (R308). -/
def execDoorbell (s : State) : Outcome State Fault Refusal :=
  .next (if s.hostPending s.inp.ctx ∨ s.submitHeld s.inp.ctx s.inp.word0 then s else (s.submit s.inp.ctx s.inp.word0 0).2)


/-! ## The record (R24, R25) -/

/-- The most that a level below cube domain may count (R25). -/
def domMax (d : Nat) : Nat := if d = 0 then 7 else if d = 3 then 4 else if d < 3 then 8 else 2 ^ 32

/-- The level descriptors keep the rules of R25. -/
def levelsOk (ws : List Word) : Bool :=
  let n := launchNlev ws
  decide (1 ≤ n) && decide (n ≤ 8) && ((List.range 8).all fun i =>
    let w := levWord ws i
    if i < n then
      decide (bits w 3 3 = 0) && decide (bits w 15 6 = 0) && decide (bits w 63 48 = 0) && decide (1 ≤ levCount ws i)
        && decide (levCount ws i ≤ domMax (levDom ws i)) && (decide (i = 0) || decide (levDom ws (i - 1) < levDom ws i))
    else decide (w = 0))

/-- Instances over cubes: the product of the counts at cube level and above. -/
def cubeProduct (ws : List Word) : Nat := ((cubeLevels ws).map (levCount ws)).foldl (· * ·) 1

def launchNcube (ws : List Word) : Nat := bits (wordAt ws 17).toNat 47 32
def launchPool (ws : List Word) : Nat := bits (wordAt ws 16).toNat 15 0
def launchSpill (ws : List Word) : Nat := bits (wordAt ws 16).toNat 23 16
def launchBlk (ws : List Word) : Nat := bits (wordAt ws 16).toNat 63 32
def launchBudget (ws : List Word) : Nat := bits (wordAt ws 17).toNat 31 0
def orDefault (n d : Nat) : Nat := if n = 0 then d else n

/-- The fields of the record keep the rules of R24 (FORMAT to the zero words). -/
def recordOk (ws : List Word) : Bool :=
  let w0 := (wordAt ws 0).toNat
  decide (bits w0 15 0 = 1) && decide (bits w0 63 28 = 0) && !(wordAt ws 1).getLsbD 0 && decide (bits (wordAt ws 3).toNat 63 56 = 0)
    && levelsOk ws && (decide (launchPool ws = 0) || (decide (64 ≤ launchPool ws) && decide (launchPool ws ≤ 4096)))
    && decide (launchSpill ws ≤ 64) && decide (bits (wordAt ws 16).toNat 31 24 = 0) && (decide (launchBlk ws = 0) || decide (4096 ≤ launchBlk ws))
    && decide (bits (wordAt ws 17).toNat 63 48 = 0) && (decide (wordAt ws 7 = 0) == decide (launchNcube ws = 0))
    && ((List.range 7).all fun i => decide (wordAt ws (25 + i) = 0)) && decide (cubeProduct ws ≤ max 1 (launchNcube ws))

/-- 32-bit numbers of n words. -/
def halves (ws : List Word) : List Nat := ws.flatMap fun w => [bits w.toNat 31 0, bits w.toNat 63 32]

/-- No number twice. -/
def noTwice : List Nat → Bool
  | [] => true
  | a :: t => !t.contains a && noTwice t

/-- The cube list; none where it is unreadable or malformed (R24, R27). -/
def State.cubeList (s : State) (ctx : Nat) (ws : List Word) : Option (List Nat) :=
  if wordAt ws 7 = 0 then some [s.cubeNum]
  else if (wordAt ws 7).toNat % 4 ≠ 0 then none
  else
    let n := launchNcube ws
    let first := (wordAt ws 7).toNat % 8 / 4
    match s.mgmtWords ctx (wordAt ws 7 - BitVec.ofNat 64 (4 * first)) ((n + first + 1) / 2) with
    | none => none
    | some l =>
      let cs := ((halves l).drop first).take n
      if cs.all (fun c => decide (c < 2 ^ 20)) && noTwice cs then some cs else none

/-! ## Skeins (R255, R256) -/

/-- A stage descriptor. -/
def stageOf (e w : Word) : Stage :=
  { entry := e, depth := bits w.toNat 15 0, high := bits w.toNat 31 16, low := bits w.toNat 47 32, bobbin := [], hold := none, window := [], raised := false }

def Stage.declaredOk (t : Stage) (w : Word) : Bool :=
  decide (1 ≤ t.depth) && decide (t.depth ≤ 4096) && decide (t.low < t.high) && decide (t.high ≤ t.depth) && decide (bits w.toNat 63 48 = 0) && !t.entry.getLsbD 0

/-- The skein a declaration of 40 words describes, where it keeps R255. -/
def State.declare (s : State) (ctx : Nat) (d : List Word) : Option Skein :=
  let h := (wordAt d 0).toNat
  let n := bits h 28 24
  let w4 := (wordAt d 4).toNat
  let sstart := BitVec.ofNat 16 w4
  let comm := BitVec.ofNat 16 (w4 / 2 ^ 16)
  let stages := (List.range n).map fun i => stageOf (wordAt d (8 + 2 * i)) (wordAt d (9 + 2 * i))
  let exit := stageOf 0 (wordAt d 1)
  let rcnt := if wordAt d 2 = 0 then none else if (wordAt d 2).toNat % 8 = 0 then s.mgmtLocal ctx (wordAt d 2) true else none
  let k : Skein := { sid := bits h 23 0, fixed := h.testBit 32, sstart := sstart, comm := comm, rcnt := rcnt,
                     lfsr := if bits (wordAt d 3).toNat 31 0 = 0 then 0xACE10001 else (wordAt d 3).setWidth 32,
                     stages := stages, exit := exit, releases := [], declared := s.cycle, reassigned := s.cycle, allot := [] }
  let ok := decide (k.sid ≠ 0) && decide (1 ≤ n) && decide (n ≤ 16) && decide (bits h 31 29 = 0) && decide (bits h 63 33 = 0)
    && exit.declaredOk (wordAt d 1) && (decide (wordAt d 2 = 0) || rcnt.isSome) && decide (bits (wordAt d 3).toNat 63 32 = 0)
    && sstart.getLsbD 0 && decide (bits w4 63 32 = 0) && decide (sstart.toNat < 2 ^ n) && decide (comm.toNat < 2 ^ n)
    && ((List.range 3).all fun i => decide (wordAt d (5 + i) = 0))
    && ((List.range 16).all fun i => if i < n then (k.stage i).declaredOk (wordAt d (9 + 2 * i))
        else decide (wordAt d (8 + 2 * i) = 0) && decide (wordAt d (9 + 2 * i) = 0))
    && ((List.range n).all fun i => ((k.setOf i).all fun j => k.commuting j == k.commuting i) && (!k.commuting i || decide (2 ≤ (k.setOf i).length)))
  if ok then some k else none

/-- The skeins of a launch's list: the status, or the skeins; with those that the context's routers hold already, within their limits (R255, R256). -/
def State.declareAll (s : State) (ctx : Nat) (ws : List Word) : Except Nat (List Skein) :=
  let va := wordAt ws 6
  if va = 0 then .ok []
  else if va.toNat % 8 ≠ 0 then .error 1
  else match s.mgmtWords ctx va 1 with
    | none => .error 1
    | some h =>
      let n := (wordAt h 0).toNat
      if n < 1 ∨ 16 < n then .error 1
      else match s.mgmtWords ctx (va + 8) n with
        | none => .error 1
        | some addrs =>
          let ds := addrs.map fun a => if a.toNat % 64 = 0 then (s.mgmtWords ctx a 40).bind (s.declare ctx) else none
          if ds.any (·.isNone) then .error 1
          else
            let ks := ds.filterMap id
            let there := (s.ctx ctx).skeins.filterMap (·.2)
            let all := there ++ ks
            if !noTwice (all.map (·.sid)) then .error 1
            else if (List.range 4).any fun d =>
                let mine := all.filter fun k => decide (k.sid % 4 = d)
                decide (64 < mine.length) || decide (16384 < (mine.map fun k => (k.stages.map (·.depth)).sum + k.exit.depth).sum)
              then .error 2
              else .ok ks

/-! ## Placement (R25) -/

/-- Coordinates of an instance's number over the levels below cube domain, as (level, coordinate). -/
def innerCoords (ws : List Word) : List Nat → Nat → List (Nat × Nat)
  | [], _ => []
  | i :: t, n => (i, n % levCount ws i) :: innerCoords ws t (n / levCount ws i)

/-- Levels below cube domain. -/
def innerLevels (ws : List Word) : List Nat := (List.range (launchNlev ws)).filter fun i => decide (levDom ws i < 4)

/-- The coordinate at a level, 0 where there is none. -/
def coordAt (cs : List (Nat × Nat)) (i : Nat) : Nat := ((cs.find? fun e => decide (e.1 = i)).map (·.2)).getD 0

/-- The coordinate of a domain. -/
def domCoord (ws : List Word) (cs : List (Nat × Nat)) (d : Nat) : Nat := match (List.range (launchNlev ws)).find? fun i => decide (levDom ws i = d) with
  | some i => coordAt cs i
  | none => 0

/-- The linear index of an instance. -/
def linearIndex (ws : List Word) (cs : List (Nat × Nat)) : Nat :=
  ((List.range (launchNlev ws)).foldl (fun (q : Nat × Nat) i => (q.1 + coordAt cs i * q.2, q.2 * levCount ws i)) (0, 1)).1

/-- The core an instance is placed on: ascending core id among the partition's clusters; none where the partition has no such. -/
def State.placeCore (s : State) (ctx : Nat) (ws : List Word) (cs : List (Nat × Nat)) : Option Nat :=
  let clusters := s.clustersOf ctx
  let dies := (List.range 4).filter fun d => clusters.any fun k => decide (k / 8 = d)
  (dies[domCoord ws cs 3]?).bind fun d => ((clusters.filter fun k => decide (k / 8 = d))[domCoord ws cs 2]?).map fun k => k * 8 + domCoord ws cs 1

/-- The initial record of an instance (R25). -/
def initialRecord (ws : List Word) (core : Nat) (cs : List (Nat × Nat)) : List Word :=
  let w0 := (wordAt ws 0)
  wordAt ws 1 :: mkWord1 0 (bits w0.toNat 27 26) (w0.getLsbD 25) (w0.getLsbD 24) core 0
    :: (wordAt ws 18 + wordAt ws 19 * BitVec.ofNat 64 (linearIndex ws cs)) :: (ws.drop 20).take 5

/-- The instances of the cube at a list position, with their cores; none where the partition cannot hold them. -/
def State.instances (s : State) (ctx : Nat) (ws : List Word) (position : Option Nat) : Option (List (Nat × List Word)) :=
  match position with
  | none => some []
  | some p =>
    if cubeProduct ws ≤ p then some []
    else
      let up := cubeCoords ws (cubeLevels ws) p
      let n := ((innerLevels ws).map (levCount ws)).foldl (· * ·) 1
      let all := (List.range n).map fun i =>
        let cs := innerCoords ws (innerLevels ws) i ++ up
        (s.placeCore ctx ws cs).map fun c => (c, initialRecord ws c cs)
      if all.any (·.isNone) then none else some (all.filterMap id)

/-! ## Set-up (R27, steps 1 to 4) -/

/-- Queues of a mask that a live launch has claimed, of another context or of this one (R27, R36). -/
def State.queuesTaken (s : State) (mask : Word) : Bool := s.ctxs.any fun e => match e.2.launch with
  | some l => decide (l.queues &&& mask ≠ 0)
  | none => false

/-- The cores' pools of P records have room for a launch's instances beside the records that they hold (R27); a gang's members wait for strands. -/
def State.poolsHold (s : State) (ws : List Word) (recs : List (Nat × List Word)) : Bool :=
  (wordAt ws 0).getLsbD 24 || recs.all fun r =>
    decide ((recs.filter fun q => decide (q.1 = r.1)).length + (s.core r.1).slots.length ≤ orDefault (launchPool ws) 1024)

/-- A block that a launch names, or its DONE, lies in a range that is being re-striped (R308). -/
def State.launchHeld (s : State) (ctx : Nat) (ws : List Word) : Bool :=
  let lists := s.blockHeld ctx (wordAt ws 4) 64 || s.blockHeld ctx (wordAt ws 6) 17 || s.blockHeld ctx (wordAt ws 7) (launchNcube ws / 2 + 1)
  s.mgmtHeld ctx (wordAt ws 2) || lists || ((s.mgmtWords ctx (wordAt ws 6 + 8) 16).getD []).any fun a => s.blockHeld ctx a 40

/-- A claimed queue whose ring breaks its stated range makes the launch fail with status 1 (R313). -/
def Ctx.queuesBad (k : Ctx) (mask : Word) : Bool :=
  (List.range 64).any fun q => mask.getLsbD q && (match Tab.read none k.queues q with
    | some h => decide (h.log2.toNat < 6) || decide (16 < h.log2.toNat)
    | none => true)

/-- What a launch finds before anything starts on this cube: the status, or cubes, table image, skeins and instances. -/
def State.prepare (s : State) (ctx : Nat) (ws : List Word) : Except Nat (List Nat × Option (List Word) × List Skein × Option Nat × List (Nat × List Word)) :=
  let k := s.ctx ctx
  if !recordOk ws ∨ k.rangesBad then .error 1
  else match s.cubeList ctx ws with
    | none => .error 1
    | some cubes =>
      let htab := if wordAt ws 4 = 0 then some none else (s.mgmtWords ctx (wordAt ws 4) 64).map some
      match htab, s.declareAll ctx ws with
      | none, _ => .error 1
      | _, .error e => .error e
      | some tab, .ok skeins =>
        if k.queuesBad (wordAt ws 5) then .error 1
        else if s.queuesTaken (wordAt ws 5) then .error 2
        else
          let position := if cubes.contains s.cubeNum then some (cubes.findIdx (· == s.cubeNum)) else none
          match s.instances ctx ws position with
          | none => .error 2
          | some recs => if !s.poolsHold ws recs then .error 2 else .ok (cubes, tab, skeins, if recs = [] then none else position, recs)

/-- The handler-table entries of an image: 16 to 63. -/
def tableOf (img : List Word) : Tab Word := (List.range 48).foldl (fun (t : Tab Word) i => Tab.write 0 t (16 + i) (wordAt img (16 + i))) []

/-- A record onto a core's run list. -/
def State.placeRecord (s : State) (core : Nat) (ws : List Word) : State := match s.allocSlot core with
  | some slot => s.makeRecord core slot ws 0 .runnable
  | none => s

/-- Steps 1 to 4 and the placement (R23, R27, R113): parameters, caches, table, queues, skeins, records or gangs. Where the cube was engaged before
and cores hold records or spills, P and S are set all the same, the regions move with them (R18, R20) and what lies in the slots stands at the new
places: the spec is silent on it (DESIGN CHOICE, log entry 107). -/
def State.setUp (s : State) (ctx : Nat) (ws : List Word) (tab : Option (List Word)) (skeins : List Skein) (recs : List (Nat × List Word)) : State :=
  let s1 := (s.coresOf ctx).foldl (fun (t : State) c =>
    let k := t.core c
    t.setCore c { k with poolSize := orDefault (launchPool ws) 1024, spillSize := orDefault (launchSpill ws) 16, blktmo := orDefault (launchBlk ws) 65536,
                         hbudget := orDefault (launchBudget ws) 200000, icache := [] }) s
  let k := s1.ctx ctx
  let s2 := s1.setCtx ctx { k with
    htab := match tab with
      | some img => tableOf img
      | none => k.htab
    skeins := skeins.foldl (fun t x => Tab.write none t x.sid (some x)) k.skeins
    state := .running }
  if (wordAt ws 0).getLsbD 24 then
    (List.range 4).foldl (fun (t : State) d =>
      let mine := recs.filter fun r => decide (r.1 / 64 = d)
      if mine = [] then t else t.submitGang d ⟨0, ctx, [], 0, mine, []⟩) s2
  else recs.foldl (fun (t : State) r => t.placeRecord r.1 r.2) s2

/-! ## Ingestion and launch starts (R27, R35) -/



/-- Send a launch start to another cube, CONF where the record was read from a CONF page (R305); an unreachable one settles its engagement with
status 6. -/
def State.startOn (s : State) (ctx : Nat) (ws : List Word) (conf : Bool) (cube : Nat) : State :=
  let k := s.ctx ctx
  match k.launch with
  | none => s
  | some l =>
    if s.sendState cube dieManagement 4 = .unreach then
      s.setCtx ctx { k with launch := some { l with sent := l.sent ++ [⟨cube, true⟩], status := lowStatus l.status 6 } }
    else
      (s.setCtx ctx { k with launch := some { l with sent := l.sent ++ [⟨cube, false⟩] } }).post { s.controlPacket .launchStart ctx cube 1 ws with conf := conf }

/-- Entries of the homing-mask table that change while a TLB of the cube holds a translation of the context by them (R236). -/
def State.remask (s : State) (ctx : Nat) (old new : Tab Word) : Tab Bool :=
  s.cores.foldl (fun (t : Tab Bool) c => c.2.tlb.foldl (fun (q : Tab Bool) e => match e.2 with
    | some p => if p.v ∧ p.hmode ∧ p.ctx.toNat = ctx ∧ Tab.read 0 old p.hval.toNat ≠ Tab.read 0 new p.hval.toNat then Tab.write false q p.hval.toNat true else q
    | none => q) t) (s.ctx ctx).remasked

/-- The context with the L fields that were written since the last launch (R314). -/
def State.configured (s : State) (ctx : Nat) : Ctx :=
  let k := s.ctx ctx
  { k.configured with remasked := s.remask ctx k.hmask k.configured.hmask }

/-- LAUNCH_INGESTION (R24, R25, R27): the oldest submission, where no launch is live. -/
def execLaunchIngestion (s : State) : Outcome State Fault Refusal :=
  .next (
    let ctx := s.inp.ctx
    let k := s.ctx ctx
    match k.launch, k.submissions with
    | none, sub :: rest =>
      if k.state = .free ∨ k.state = .out ∨ k.stopped ∨ s.plat.boot = .failed ∨ s.launchHeld ctx sub.words then s
      else
        let s1 := s.setCtx ctx { s.configured ctx with submissions := rest }
        let ws := sub.words
        if (wordAt ws 2).toNat % 8 ≠ 0 ∨ (s1.mgmtPlace ctx (wordAt ws 2) true).isNone then s1.count ctx .refusedSubmission
        else match s1.prepare ctx ws with
          | .error e => s1.writeDone ctx ws e
          | .ok (cubes, tab, skeins, position, recs) =>
            let l : Launch := ⟨ws, true, cubes, position, 0, [], wordAt ws 5⟩
            let s2 := s1.setCtx ctx { s1.ctx ctx with launch := some l }
            let s3 := s2.setUp ctx ws tab skeins recs
            (cubes.filter fun c => c != s.cubeNum).foldl (fun (t : State) c => t.startOn ctx ws sub.conf c) s3
    | _, _ => s)

/-- The launch by which a cube that another one engages counts its own work (R35). -/
def engagedLaunch : Launch := ⟨[], false, [], none, 0, [], 0⟩

/-- The instruction caches of a context's cores hold nothing (R113). -/
def State.clearCaches (s : State) (ctx : Nat) : State := (s.coresOf ctx).foldl (fun (t : State) c => t.setCore c { t.core c with icache := [] }) s

/-- The first engaging message from another cube engages this one: a launch reaches it (R35, R113). -/
def State.beginEngaged (s : State) (ctx cube : Nat) : State :=
  let s1 := s.clearCaches ctx
  s1.setCtx ctx { s1.ctx ctx with launch := some engagedLaunch, engagers := [cube], state := .running }

/-- An engaging message from another cube has been handled (R35): the first engages this cube; a later one is acknowledged. -/
def State.engagedBy (s : State) (ctx cube : Nat) : State :=
  if cube = s.cubeNum then s
  else if (s.ctx ctx).launch.isSome then s.ackLater ctx cube
  else s.beginEngaged ctx cube

/-- An engaging message from another cube begins to be handled by a core's strand 0 (R35): the first engages this cube; a later one is
acknowledged when its handler ends. -/
def State.engagedAt (s : State) (ctx cube core : Nat) : State :=
  if cube = s.cubeNum then s
  else if (s.ctx ctx).launch.isSome then
    let u := s.unit (unitKey core 0)
    s.setUnit (unitKey core 0) { u with inMsg := u.inMsg.map fun m => { m with owes := true } }
  else s.beginEngaged ctx cube

/-- The first packet of a kind at die management, and the rest. -/
def takePacket (p : Packet → Bool) : List Packet → Option (Packet × List Packet)
  | [] => none
  | a :: t => if p a then some (a, t) else (takePacket p t).map fun r => (r.1, a :: r.2)

/-- LAUNCH_START (R27, R35, R36): steps 1 to 4 and the placement on a cube of the list, or a failure acknowledged with its status. Where only
messages have engaged the cube it is acknowledged as soon as it is handled. Where another launch of the context is live here, the two launches' work is
counted together, and the start is acknowledged once neither is live (R36; DESIGN CHOICE, log entry 116). The start of a context that is stopped or switched out waits, as a
submission does. The L fields written since take effect (R314). -/
def execLaunchStart (s : State) : Outcome State Fault Refusal :=
  .next (match takePacket (fun p => decide (p.kind = .launchStart) && decide ((s.ctx p.ctx).state ≠ .out) && !(s.ctx p.ctx).stopped && !s.launchHeld p.ctx p.payload) s.mgmt with
    | none => s
    | some (p, rest) =>
      let ctx := p.ctx
      let s0 := { s with mgmt := rest }
      let was := (s.ctx ctx).launch.isSome
      let k := if was then s.ctx ctx else s.configured ctx
      let s0 := s0.setCtx ctx k
      if s.plat.boot = .failed then s
      else if k.state = .free then s0.ackEngagement ctx p.scube 2 1
      else
        match s0.prepare ctx p.payload with
        | .error e =>
          if was then
            let s1 := s0.setCtx ctx { k with launch := k.launch.map fun l => { l with status := lowStatus l.status e } }
            s1.ackEngagement ctx p.scube e 1
          else s0.ackEngagement ctx p.scube e 1
        | .ok (cubes, tab, skeins, position, recs) =>
          let others := match k.launch with
            | some l => l.root || decide (l.words ≠ [])
            | none => false
          let s1 := if others then s0.setCtx ctx { k with engagers := k.engagers ++ [p.scube] }
            else if was then s0.ackEngagement ctx p.scube 0 1
            else s0.beginEngaged ctx p.scube
          let k1 := s1.ctx ctx
          let s2 := s1.setCtx ctx { k1 with launch := k1.launch.map fun l =>
            if l.words = [] then { l with words := p.payload, cubes := cubes, position := position, queues := wordAt p.payload 5 }
            else { l with queues := l.queues ||| wordAt p.payload 5 } }
          s2.setUp ctx p.payload tab skeins recs)

/-- The first engagement with a cube that is not settled is settled with a status. -/
def settleEngagement (cube : Nat) : List Engagement → List Engagement
  | [] => []
  | e :: t => if e.cube = cube ∧ !e.settled then { e with settled := true } :: t else e :: settleEngagement cube t

/-- Of the engagements that this cube sent to another, n are settled (R35). -/
def State.settleOn (s : State) (ctx cube status n : Nat) : State :=
  let k := s.ctx ctx
  s.setCtx ctx { k with launch := k.launch.map fun l =>
    { l with sent := (List.range n).foldl (fun (q : List Engagement) _ => settleEngagement cube q) l.sent, status := lowStatus l.status status } }

/-- ENGAGEMENT_ACKNOWLEDGEMENT (R35). -/
def execEngagementAcknowledgement (s : State) : Outcome State Fault Refusal :=
  .next (match takePacket (fun p => decide (p.kind = .engagementAck) && decide (p.ctx = s.inp.ctx)) s.mgmt with
    | none => s
    | some (p, rest) => { s with mgmt := rest }.settleOn p.ctx p.scube ((wordAt p.payload 0).toNat % 256) (p.aux.toNat / 16 + 1))

/-! ## Liveness and completion (R35) -/

/-- Records of a context's skeins in stages, hold slots or on their way through the router. -/
def Ctx.skeinLive (k : Ctx) : Bool := k.skeins.any fun e => match e.2 with
  | some x => decide (x.releases ≠ []) || x.stages.any fun t => decide (t.bobbin ≠ []) || t.hold.isSome
  | none => false

/-- A core holds work of its context. -/
def Core.holdsWork (k : Core) : Bool :=
  decide (k.slots ≠ []) || decide (k.spills ≠ []) || decide (k.spawns ≠ []) || k.inbox.any fun e => decide (e.2 ≠ [])

/-- A packet that stands for work under way. -/
def Packet.isWork (p : Packet) (ctx : Nat) : Bool := decide (p.ctx = ctx) && !([PktKind.engagementAck, .ack, .resync, .drain, .management].contains p.kind)

/-- Operations under way anywhere on the cube (R35, R147). -/
def State.opsLive (s : State) (ctx : Nat) : Bool :=
  s.ops.any (fun o => decide (o.ctx = ctx)) || s.inner.any (·.isWork ctx) || s.outbox.any (·.isWork ctx)
    || s.net.any (fun p => decide (p.scube = s.cubeNum) && p.isWork ctx)
    || s.srcKeys.any (fun e => match e.2 with
        | some k => k.unacked.any fun u => u.pkt.isWork ctx
        | none => false)
    || s.banks.any (fun e => e.2.inbox.any (fun c => decide (c.ctx = ctx)) || (match e.2.run with
        | some r => decide (r.cmd.ctx = ctx)
        | none => false))
    || s.dies.any (fun e => e.2.gangs.any (fun g => decide (g.ctx = ctx)) || e.2.redInbox.any (fun c => decide (c.ctx = ctx)) || (match e.2.redRun with
        | some r => decide (r.cmd.ctx = ctx)
        | none => false))

/-- Work of a launch is live on this cube (R35): everything but the engagements it has sent. -/
def State.workLive (s : State) (ctx : Nat) : Bool :=
  let k := s.ctx ctx
  (s.coresOf ctx).any (fun c => (s.core c).holdsWork
      || ((List.range 8).any fun j => decide ((s.unit (unitKey c j)).st ≠ .idle)))
    || k.skeinLive || s.opsLive ctx || decide (k.withdrawn ≠ []) || decide (k.spool ≠ [])

/-- The launch of a context is live on this cube (R35). -/
def State.live (s : State) (ctx : Nat) : Bool := s.workLive ctx || (match (s.ctx ctx).launch with
  | some l => l.sent.any fun e => !e.settled
  | none => false)

/-- Two roots' launches of one context that wait for each other (R36): this cube's work is done, and the only engagements it waits for are those of
cubes that wait for it. -/
def State.mutual (s : State) (ctx : Nat) (l : Launch) : Bool :=
  l.root && !s.workLive ctx && decide ((s.ctx ctx).engagers ≠ []) && l.sent.all fun e => e.settled || (s.ctx ctx).engagers.contains e.cube

/-- The records of a skein, wherever they are. -/
def Skein.records (k : Skein) : List SkRec :=
  k.stages.flatMap (fun t => t.bobbin ++ t.hold.toList) ++ k.exit.bobbin ++ k.releases.map (·.record)

/-- A skein ends with its launch: its records' plies are discarded (R256). -/
def State.endSkeins (s : State) (ctx : Nat) : State :=
  let recs := (s.ctx ctx).skeins.flatMap fun e => match e.2 with
    | some k => k.records
    | none => []
  let s1 := s.setCtx ctx { s.ctx ctx with skeins := [] }
  recs.foldl (fun (t : State) r => t.discardPly ctx r.ply) s1

/-- LAUNCH_COMPLETION (R35, R36): nothing of the launch is live; the engagements that wait for this are acknowledged, and the root writes the
completion object. Items left in the launch's queues stay there for the context's next launch that claims them: the spec does not say what becomes of
them (DESIGN CHOICE, log entry 105). -/
def execLaunchCompletion (s : State) : Outcome State Fault Refusal :=
  .next (
    let ctx := s.inp.ctx
    let k := s.ctx ctx
    match k.launch with
    | none => s
    | some l =>
      if k.state = .out ∨ (l.root ∧ s.mgmtHeld ctx (wordAt l.words 2)) then s
      else if s.live ctx then
        if s.mutual ctx l then (s.setCtx ctx { k with engagers := [] }).ackEngagers ctx k.engagers l.status else s
      else
        let s1 := (s.setCtx ctx { k with launch := none, engagers := [], state := .idle }).endSkeins ctx
        let s2 := s1.ackEngagers ctx k.engagers l.status
        if l.root then s2.writeDone ctx l.words l.status else s2)

end Sys2Proof.Machine
end

