-- ==== Sys2Proof/Machine/Inbox.lean ====
section
/-! DEFINITION. Messages at their destination (R21, R22, R28 to R32, R121, R151, R153 to R157): arrival in an inbox, handler entry and discard, the
built-in routines of strand 0, responses and acknowledgements at the sender. -/

namespace Sys2Proof.Machine

open Sys2Proof Host

/-! ## Units and answers -/

/-- The register context that a unit number names: strand 0 of a task core, a service core, a loader or a storer (R295). -/
def unitKeyOf (u : Nat) : Option Nat :=
  if u / 512 % 2 = 1 then none
  else
    let cluster := u / 1024 * 8 + u / 64 % 8
    let slot := u % 64
    if slot < 8 then some (unitKey (cluster * 8 + slot) 0)
    else if slot = 8 then some (serviceKey cluster)
    else if 16 ≤ slot ∧ slot < 24 then some (unitKey (cluster * 8 + slot - 16) 8)
    else if 24 ≤ slot ∧ slot < 32 then some (unitKey (cluster * 8 + slot - 24) 9)
    else none

/-- The party that counts a packet's completion: strand 0 for work number 0, else the core's work of that number. -/
def partyOf (unit wid : Nat) : Option Nat := (unitKeyOf unit).map fun k =>
  if !isService k && decide (slotOf k = 0) && decide (wid ≠ 0) then k + 1 else k

/-- A packet of a unit of this cube is performed: its counter falls. -/
def State.settlePacket (s : State) (p : Packet) (c : Ctr) (f : Strand → Strand) : State := match partyOf p.sunit p.wid with
  | some party => s.settleWork p.ctx party p.wid c f
  | none => s

/-- The acknowledgement of a request from another cube: SEQ is the acknowledged number (R294). -/
def State.ackPacket (s : State) (p : Packet) : Packet :=
  { s.packet .ack p.dunit p.ctx p.scube p.sunit 0 1 p.pri [] 0 with seq := p.seq, gen := p.gen }

/-- What a request was sent as: [15:0] SEQ, [18:16] class, [31:20] unit and [51:32] cube of its source. -/
def originWord (p : Packet) : Word :=
  BitVec.ofNat 64 (p.seq % 2 ^ 16 + p.ocls % 8 * 2 ^ 16 + p.sunit % 2 ^ 12 * 2 ^ 20 + p.scube % 2 ^ 20 * 2 ^ 32)

/-- Word 0 of a response's payload (DESIGN CHOICE, log entry 18), by which the source finds its request, since a response carries no SEQ: the
request's SEQ and class, and the cube it was sent to in [51:32]. -/
def Packet.tag (p : Packet) : Word := match p.origin with
  | some w => (w &&& 0x7FFFF) ||| BitVec.ofNat 64 (p.scube % 2 ^ 20 * 2 ^ 32)
  | none => BitVec.ofNat 64 (p.seq % 2 ^ 16 + p.ocls % 8 * 2 ^ 16 + p.dcube % 2 ^ 20 * 2 ^ 32)

/-- The cube and unit that a response goes to: the sender's, or that of the first sender of a forwarded request (R308). -/
def Packet.asker (p : Packet) : Nat × Nat := match p.origin with
  | some w => (bits w.toNat 51 32, bits w.toNat 31 20)
  | none => (p.scube, p.sunit)

/-- The response to a request (R121, R294): HCLS 5 (R29, R341). -/
def State.responseTo (s : State) (p : Packet) (status : Nat) (ws : List Word) : Packet :=
  { s.packet .response p.dunit p.ctx p.asker.1 p.asker.2 5 1 p.pri (flitWords (if p.scube = s.cubeNum then ws else p.tag :: ws)) 0 with
    conf := p.conf, gen := p.gen, aux := BitVec.ofNat 16 (status % 256), req := p.ord }

/-- The destination's window remembers that a packet is performed, and its response (R299). -/
def DstKey.mark (k : DstKey) (seq : BitVec 16) (resp : Option Packet) : DstKey :=
  { k with taken := k.taken.filter (· != seq), performed := ((k.performed.filter fun e => e.1 != seq) ++ [(seq, resp)]).drop (k.performed.length - 1023) }

/-- The issuing core of a refused spawn holds it; one that is on its way once more keeps its place (R22). -/
def holdSpawn (l : List Packet) (p : Packet) (now : Nat) : List Packet :=
  let e := { p with req := now, awaited := false }
  if l.any fun q => decide (q.ord = p.ord) then l.map fun q => if q.ord = p.ord then e else q else l ++ [e]

/-- Refused spawns that a core holds (R22). -/
def spawnRoom : Nat := 32

/-- A core has room for a refused spawn, or holds it already. -/
def Core.holdsSpawn (k : Core) (p : Packet) : Bool := decide (k.spawns.length < spawnRoom) || k.spawns.any fun q => decide (q.ord = p.ord)

/-- Answers that wait for a request's number now wait for another. -/
def renamed (as : List (Fin 32 × Nat)) (old new : Nat) : List (Fin 32 × Nat) := as.map fun a => if a.2 = old then (a.1, new) else a

/-- The units of a core, and its spilled work, await the answer to a request under a new number. -/
def State.renameAwaits (s : State) (core old new : Nat) : State :=
  let s1 := (List.range 8).foldl (fun (q : State) j =>
    let u := q.unit (unitKey core j)
    q.setUnit (unitKey core j) { u with awaits := renamed u.awaits old new }) s
  let k := s1.core core
  s1.setCore core { k with spills := k.spills.map fun e => (e.1, e.2.map fun p => { p with awaits := renamed p.awaits old new }) }

/-- A spilled work awaits an answer for a register of its image (R20). -/
def Core.spillAwaits (k : Core) (req : Nat) : Bool := k.spills.any fun e => match e.2 with
  | some p => p.awaits.any fun a => decide (a.2 = req)
  | none => false

/-- A unit or a spilled work of this cube awaits the answer to a request: for a register or a load. The answer for one that is switched out waits for
its reload. -/
def State.awaits (s : State) (ctx req : Nat) : Bool :=
  let waits (u : Strand) : Bool := u.awaits.any (fun a => decide (a.2 = req)) || (match u.remote with
    | some r => r.parts.any fun x => decide (x.req = req)
    | none => false)
  s.units.any (fun e => waits e.2) || s.cores.any (fun e => e.2.spillAwaits req) || (s.ctx ctx).savedUnits.any (fun e => waits e.2)
    || (s.ctx ctx).saved.any fun e => e.2.spillAwaits req

/-- A refused spawn of this cube is held by its core; where 32 are held, it goes round the cube's network once more (R22; DESIGN CHOICE, log
entry 73). -/
def State.holdSpawn (s : State) (p : Packet) : State := match coreOfUnit p.sunit with
  | some c =>
    if (s.core c).holdsSpawn p then s.setCore c { s.core c with spawns := Machine.holdSpawn (s.core c).spawns p s.cycle }
    else ({ s with inner := s.inner ++ [{ p with ord := s.fresh, req := 0 }], fresh := s.fresh + 1 } : State).renameAwaits c p.ord s.fresh
  | none => s

/-- A spawn that is accepted or has failed is held no longer. -/
def State.dropSpawn (s : State) (p : Packet) : State :=
  if p.scube ≠ s.cubeNum ∨ p.kind ≠ .builtin ∨ p.hcls ≠ 3 then s
  else match coreOfUnit p.sunit with
    | some c => s.setCore c { s.core c with spawns := (s.core c).spawns.filter fun q => !decide (q.ord = p.ord) }
    | none => s

/-- A request is performed here: another cube's is remembered and answered; `resp` is the response it has, if any. -/
def State.performed (s : State) (p : Packet) (resp : Option Packet) : State :=
  if p.scube = s.cubeNum then match resp with
    | some r => s.post r
    | none => s
  else
    let s1 := match Tab.read none s.dstKeys (dstKeyOf p) with
      | some k => if sequenced p.ocls then { s with dstKeys := Tab.write none s.dstKeys (dstKeyOf p) (some (k.mark (BitVec.ofNat 16 p.seq) resp)) } else s
      | none => s
    match p.origin with
    | none => s1.post (resp.getD (s.ackPacket p))
    | some _ => (s1.post (s.ackPacket p)).post (resp.getD (s.responseTo p 0 []))

/-! ## Arrival (R30, R270) -/

/-- Bytes a message takes in its inbox region: head and payload flits. -/
def inboxBytes (p : Packet) : Nat := 32 * (1 + p.plen)

/-- The region of a priority has free bytes from an offset on. -/
def regionFree (ms : List InMsg) (pri off n : Nat) : Bool :=
  decide (off % 32 = 0) && decide (off + n ≤ 16384)
    && ms.all fun m => decide (off + n ≤ m.off - 32 - (inboxBase + pri * 16384)) || decide (m.off - 32 - (inboxBase + pri * 16384) + inboxBytes m.pkt ≤ off)

/-- A unit that is not there or not the context's: the packet is discarded and counted, with status 5 to the reply address (R295). -/
def State.discardPacket (s : State) (p : Packet) : State :=
  let s0 := s.dropSpawn p
  let s1 := (s0.count p.ctx .discardedMessage).performed p (if p.scube = s.cubeNum then
      (if s.awaits p.ctx p.ord then some (s.responseTo p 5 [0, 0, 0, 0]) else none) else if p.kind = .response then none else some (s.responseTo p 5 []))
  let s2 := if p.scube = s.cubeNum then s1.settlePacket p .msgs fun u => u.status 5 p.major
    else if p.engages then s1.ackLater p.ctx p.scube else s1
  if p.replyTo = 0 then s2 else s2.respond ((coreOfUnit p.dunit).getD 0) p.ctx p.replyTo p.pri p.conf 5 0 0

/-- A packet of an older generation is discarded and counted, with status 2 to the source and the reply address (R299); an engagement by it is
acknowledged with the reset's status (R35, R315). -/
def State.refuseStale (s : State) (p : Packet) : State :=
  let s1 := (s.count p.ctx .staleGeneration).performed p (some (s.responseTo p 2 []))
  let s2 := if p.engages then s1.ackEngagement p.ctx p.scube 3 1 else s1
  if p.replyTo = 0 then s2 else s2.respond ((coreOfUnit p.dunit).getD 0) p.ctx p.replyTo p.pri p.conf 2 0 0

/-- The core whose inbox takes a packet. -/
def inboxCore (p : Packet) : Option Nat := match unitKeyOf p.dunit with
  | some k => if isService k then none else some (coreOf k)
  | none => none

/-- The DRAM address whose home takes a packet, with its page's homing: that of an access by physical address, or of a spawn by address. -/
def Packet.homed (p : Packet) : Option (Nat × Nat) :=
  if p.kind = .builtin ∧ p.hcls ≤ 2 ∧ (wordAt p.payload 0).toNat < 2 ^ 59 then some ((wordAt p.payload 0).toNat, (wordAt p.payload 1).toNat)
  else if p.kind = .builtin ∧ p.hcls = 3 ∧ p.aux.getLsbD 5 then some ((wordAt p.payload 8).toNat, (wordAt p.payload 9).toNat)
  else none

/-- The core whose strand 0 takes a packet: the named one; where HMODE is 1 the home by this cube's masks, which the sender does not have
(R236). An access to DRAM homed outside the partition is served by the partition's lowest core (R121; DESIGN CHOICE, log entry 13). -/
def State.serverCore (s : State) (p : Packet) : Option Nat := (inboxCore p).map fun c => match p.homed with
  | some (gpa, homing) =>
    let home := if homing.testBit 6 then match s.resolveDram gpa with
      | some (_, a) => s.homeCore p.ctx true (homing % 64) a
      | none => c else c
    if p.hcls ≤ 2 ∧ !s.inPartition p.ctx home then ((s.coresOf p.ctx).head?).getD home else home
  | none => c

/-- Bytes of a spool entry: a descriptor of 64 bytes and the packet image padded to 64 (R270). -/
def spoolBytes (p : Packet) : Nat := 64 + (p.bytes.length + 63) / 64 * 64

/-- An arrival for a switched-out context goes into the spool ring, where it fits (R270), and the context header's write index follows (R269). -/
def State.spoolPacket (s : State) (n : Nat) (p : Packet) : State :=
  let k := s.ctx p.ctx
  let size := spoolBytes p
  if size ≤ k.spoolsize.toNat - (k.spoolWrite - k.spoolRead) then
    let desc : List Word := BitVec.ofNat 64 (p.dunit % 2 ^ 12 + p.bytes.length / 32 % 2 ^ 9 * 2 ^ 16) :: BitVec.ofNat 64 k.spoolSeq :: List.replicate 6 0
    let image := bytesOfWords desc ++ p.bytes ++ List.replicate (size - 64 - p.bytes.length) 0
    let s1 := (List.range (size / 64)).foldl (fun (t : State) i =>
      t.putPhys (k.spoolbase.toNat + (k.spoolWrite + 64 * i) % k.spoolsize.toNat) 2 ((image.drop (64 * i)).take 64)) { s with inner := s.inner.eraseIdx n }
    let s2 := s1.putPhys (k.savebase.toNat + 16) 2 (leBytes 8 (k.spoolWrite + size))
    s2.setCtx p.ctx { k with spool := k.spool ++ [(p, k.spoolSeq)], spoolSeq := k.spoolSeq + 1, spoolWrite := k.spoolWrite + size }
  else s

/-- A SEND is performed once it stands in the inbox (R147); strand 0's timestamp rises (R220). -/
def State.enterInbox (s : State) (core : Nat) (p : Packet) (off : Nat) : State :=
  let k := s.core core
  let at_ := inboxBase + p.pri * 16384 + off + 32
  let s1 := s.putBase (scratchKey core at_) (bytesOfWords (flitWords p.payload))
  let s2 := s1.setCore core { k with inbox := Tab.write [] k.inbox p.pri (Tab.read [] k.inbox p.pri ++ [⟨p, at_, s.gtime, false⟩]) }
  let u := s2.unit (unitKey core 0)
  let s3 := s2.setUnit (unitKey core 0) { u with pts := max u.pts s2.floor }
  if p.kind = .user then
    if p.scube = s.cubeNum then s3.settlePacket p .msgs id else s3.performed p none
  else s3

/-- The messages that take up room in a core's inbox region: those waiting, and the one strand 0 is handling, until MRET (R30, R151). -/
def State.regionMsgs (s : State) (core pri : Nat) : List InMsg :=
  Tab.read [] (s.core core).inbox pri ++ (s.unit (unitKey core 0)).inMsg.toList.filter fun m => decide (m.pkt.pri = pri)

/-- An earlier packet of this cube from the same unit to the same unit in the same class stands before a place of the cube's network: the
network keeps their order (R296). -/
def State.overtakes (s : State) (n : Nat) (p : Packet) : Bool :=
  decide (p.scube = s.cubeNum) && (s.inner.take n).any fun q =>
    decide (q.scube = p.scube) && decide (q.sunit = p.sunit) && decide (q.dunit = p.dunit) && decide (q.ocls = p.ocls)

/-- Two arrivals of one inbox region, or of one pair of units in one class: the second does not enter before the first where that had to wait. -/
def State.sameWay (s : State) (q p : Packet) : Bool :=
  (decide (s.serverCore q = s.serverCore p) && decide (q.pri = p.pri))
    || (decide (q.scube = p.scube) && decide (q.sunit = p.sunit) && decide (q.dunit = p.dunit) && decide (q.ocls = p.ocls))

/-- A spooled packet that found no room when its context came back stands before a new arrival (R271). -/
def State.lateBefore (s : State) (p : Packet) : Bool := !s.isOut p.ctx && (s.ctx p.ctx).spool.any fun e => s.sameWay e.1 p

/-- A class-0 request of the same source that was sent earlier. -/
def Packet.older (q p : Packet) : Bool :=
  decide (q.ocls = 0) && decide (q.scube = p.scube) && decide (q.sunit = p.sunit) && decide (q.ord < p.ord) && decide (q.kind ≠ .response)

/-- Such a request was spooled and waits for room (R271). -/
def State.lateOlder (s : State) (p : Packet) : Bool := s.ctxs.any fun c => !s.isOut c.1 && c.2.spool.any fun e => e.1.older p

/-- An earlier class-0 packet of the same source is not performed yet: it is on its way, or waits in an inbox for strand 0's routine. A user message is
performed once it stands in its inbox (R147, R226). `num` is the packet's number. -/
def State.unperformed (s : State) (p : Packet) (num : Nat) : Bool :=
  s.inner.any (fun q => q.older { p with ord := num }) || s.lateOlder { p with ord := num }
    || s.cores.any fun c => c.2.inbox.any fun e => e.2.any fun m => decide (m.pkt.kind ≠ .user) && m.pkt.older { p with ord := num }

/-- A gateway core's unit number (R295). -/
def isGateway (u : Nat) : Bool := decide (u / 512 % 2 = 1) && decide (8 ≤ u % 512) && decide (u % 512 < 12)

/-- The handler-table entry of a class; reserved and invalid entries give none (R29). -/
def Ctx.handler (k : Ctx) (hcls : Nat) : Option Word :=
  if 16 ≤ hcls ∧ (Tab.read 0 k.htab hcls).getLsbD 0 then some (Tab.read 0 k.htab hcls &&& ~~~(1 : Word)) else none

/-- A user message whose entry is not valid is discarded where it arrives (R29, R147, R150). -/
def State.noEntry (s : State) (p : Packet) : Bool := decide (p.kind = .user) && ((s.ctx p.ctx).handler p.hcls).isNone

/-- MESSAGE_ARRIVAL (R30, R270, R295): the packet at a place of the cube's network reaches its core's inbox, at a free offset of its
region; a full region leaves it where it is. -/
def execMessageArrival (s : State) : Outcome State Fault Refusal :=
  .next (match s.inner[s.inp.index]? with
    | none => s
    | some p =>
      let toInbox := p.kind = .user ∨ (p.kind = .builtin ∧ p.hcls ≠ 8) ∨ (p.kind = .response ∧ p.reply ≠ 0)
      let n := s.inp.index
      if !toInbox ∨ s.overtakes n p ∨ s.lateBefore p ∨ (p.kind = .user ∧ p.ocls = 0 ∧ s.unperformed p p.ord) then s
      else
        if p.kind = .user ∧ isGateway p.dunit then
          let s1 := { s with inner := s.inner.eraseIdx n, gateways := s.gateways ++ [p] }
          if p.scube = s.cubeNum then s1.settlePacket p .msgs id else s1.performed p none
        else if (s.ctx p.ctx).state = .out then (if p.ocls = 0 ∧ s.inner.any (·.older p) then s else s.spoolPacket n p)
        else match s.serverCore p with
          | some c =>
            if !s.inPartition p.ctx c ∨ s.noEntry p then { s with inner := s.inner.eraseIdx n }.discardPacket p
            else if (s.cluster (c / 8)).gated then s
            else if regionFree (s.regionMsgs c p.pri) p.pri s.inp.index2 (inboxBytes p) then
              { s with inner := s.inner.eraseIdx n }.enterInbox c p s.inp.index2
            else s
          | none => { s with inner := s.inner.eraseIdx n }.discardPacket p)

/-! ## The next message of a core (R30, R226) -/

/-- An earlier class-0 message of the same source has not been handled (R226). -/
def State.behind (s : State) (p : Packet) : Bool :=
  decide (p.ocls = 0) && (s.inner.any (·.older p) || s.lateOlder p || s.cores.any (fun c => c.2.inbox.any fun e => e.2.any fun m => m.pkt.older p)
    || s.units.any fun e => match e.2.inMsg with
      | some m => m.pkt.older p
      | none => false)

/-- The message strand 0 takes next: priority and place. -/
def State.nextMessage (s : State) (core : Nat) : Option (Nat × Nat × InMsg) :=
  [3, 2, 1, 0].findSome? fun pri =>
    (((Tab.read [] (s.core core).inbox pri).mapIdx fun i m => (pri, i, m)).find? fun e => !s.behind e.2.2.pkt)

/-- Strand 0 is free to take a message. -/
def State.strandZeroFree (s : State) (core : Nat) : Bool :=
  let u := s.unit (unitKey core 0)
  s.works core && decide (u.st = .idle) && !u.halted

/-- A message leaves the inbox. -/
def State.dropMessage (s : State) (core pri idx : Nat) : State :=
  let k := s.core core
  s.setCore core { k with inbox := Tab.write [] k.inbox pri ((Tab.read [] k.inbox pri).eraseIdx idx) }

/-- The message of a built-in routine that strand 0 takes next, and the state without it. -/
def State.builtin (s : State) (core hcls : Nat) : Option (InMsg × State) :=
  if s.strandZeroFree core then
    match s.nextMessage core with
    | some (pri, i, m) => if m.pkt.hcls = hcls then some (m, s.dropMessage core pri i) else none
    | none => none
  else none

/-! ## Handlers (R29, R30, R322) -/

/-- Strand 0 on entry to a user handler (R30). -/
def State.handlerStrand (s : State) (core : Nat) (m : InMsg) (pc : Word) : Strand :=
  let u := s.unit (unitKey core 0)
  let va : Word := BitVec.ofNat 64 (15 * 2 ^ 60 + s.cubeNum * 2 ^ 36 + core * 2 ^ 28 + m.off)
  let x := [(10, va), (11, BitVec.ofNat 64 (32 * m.pkt.plen)), (12, wordAt m.pkt.payload 0), (13, wordAt m.pkt.payload 1), (14, wordAt m.pkt.payload 2)]
  { u with
    pend := u.pend.map fun p => { p with dest := .none }, awaits := [], pc := pc, blocks := [], x := x.foldl (fun (t : Tab Word) e => Tab.write 0 t e.1 e.2) [], f := [], v := [], m := [], tm := [], vl := 0, fpctl := 0, fpflg := 0,
    ply := m.pkt.ply, msgcls := BitVec.ofNat 6 m.pkt.hcls, msgsrc := BitVec.ofNat 32 (m.pkt.scube % 2 ^ 20 * 2 ^ 12 + m.pkt.sunit % 2 ^ 12),
    msgts := m.pkt.ts, msgrpl := m.pkt.reply, st := .run, inMsg := some m, handlerSince := s.cycle, ranBefore := 0, pts := max u.pts s.floor, hold := none, wait := none }

/-- HANDLER_ENTRY (R29, R30): a user message enters its handler; one without a valid entry is discarded and counted, and so is a packet of class 7,
since records go to their cores through the stage router and no packet carries one (DEDUCED, log entry 99). -/
def execHandlerEntry (s : State) : Outcome State Fault Refusal :=
  .next (
    let core := s.inp.core
    if s.strandZeroFree core then
      match s.nextMessage core with
      | some (pri, i, m) =>
        if m.pkt.hcls < 9 ∧ m.pkt.hcls ≠ 7 then s
        else
          let s1 := s.dropMessage core pri i
          match (s.ctx m.pkt.ctx).handler m.pkt.hcls with
          | some pc =>
            let k := s1.core core
            let transit := (m.arrived + 2 ^ 32 - m.pkt.ts.toNat) % 2 ^ 32
            let s2 := s1.setCore core { k with delay := delayAdd k.delay m.pkt.sender true [transit, s.gtime - m.arrived, 0] }
            let s3 := s2.setUnit (unitKey core 0) (s2.handlerStrand core m pc)
            let s4 := s3.trace (unitKey core 0) 1 pc (BitVec.ofNat 64 (m.pkt.scube % 2 ^ 20 + m.pkt.sunit % 2 ^ 12 * 2 ^ 20))
            s4.engagedAt m.pkt.ctx m.pkt.scube core
          | none =>
            let s2 := s1.count m.pkt.ctx .discardedMessage
            let s3 := if m.pkt.scube = s.cubeNum then s2.settlePacket m.pkt .none fun u => u.status 5 32
              else (fun (t : State) => if m.pkt.engages then t.ackLater m.pkt.ctx m.pkt.scube else t) (s2.post (s2.responseTo m.pkt 5 []))
            if m.pkt.replyTo = 0 then s3 else s3.respond core m.pkt.ctx m.pkt.replyTo m.pkt.pri m.pkt.conf 5 0 0
      | none => s
    else s)

/-- HOVERRUN (R31): strand 0's handler has used up its budget; it stops at its next instruction. -/
def execHoverrun (s : State) : Outcome State Fault Refusal :=
  .next (
    let key := unitKey s.inp.core 0
    let u := s.unit key
    if u.st = .run ∧ !u.halted ∧ u.remote.isNone ∧ u.vec.isNone ∧ s.overBudget key then (s.noteFetch key (s.fetch key)).takeEventOf key .hoverrun 0 0 0 else s)

/-! ## Spawns and decrements (R21, R22) -/

/-- A record with this HOME (R12). -/
def homedAt (home : Nat) (ws : List Word) : List Word :=
  let w1 := wordAt ws 1
  ws.set 1 (mkWord1 (recPlytag w1) (recPrio w1) (recSteal w1) (recGmem w1) home (recGid w1))

/-- TASK_SPAWN (R21, R22, R35): the record is made, or refused by a full pool and held by its issuer. -/
def execTaskSpawn (s : State) : Outcome State Fault Refusal :=
  .next (
    let core := s.inp.core
    match s.builtin core 3 with
    | none => s
    | some (m, s1) =>
      let p := m.pkt
      let here := decide (p.scube = s.cubeNum)
      let counted := p.aux.getLsbD 4
      let count := if counted then p.reply.toNat % 2 ^ 48 else 0
      match s1.allocSlot core with
      | none =>
        if here then s1.holdSpawn p
        else s1.performed p (some (s1.responseTo p 3 [0, 0, 0, 0]))
      | some slot =>
        let s2 := s1.makeRecord core slot (homedAt core (p.payload.take 8)) count (if count = 0 then .runnable else .counter)
        let s3 := if here then (s2.dropSpawn p).settlePacket p .msgs id else s2
        let resp := if counted then some (s3.responseTo p 0 [s3.handle core slot, 0, 0, 0]) else none
        (s3.performed p resp).engagedBy p.ctx p.scube)

/-- A decrement at a counter word (R21). -/
def State.applyTdec (s : State) (core : Nat) (handle amount : Word) (ctx : Nat) : State :=
  let k := s.core core
  let off := bits handle.toNat 19 0
  if off < counterOff k 0 ∨ counterOff k k.poolSize ≤ off ∨ off % 8 ≠ 0 then s.count ctx .staleDecrement
  else
    let slot := (off - counterOff k 0) / 8
    let w := s.counterWord core slot
    let c := counterCount w
    let amt := amount.toNat % 2 ^ 48
    let waits : Bool := match Tab.read none k.slots slot with
      | some e => decide (e.park = .counter)
      | none => false
    if bits handle.toNat 27 20 ≠ counterGen w ∨ c = 0 ∨ !waits then s.count ctx .staleDecrement
    else
      let left := c - amt
      let s1 := s.putBase (scratchKey core off) (leBytes 8 (left + counterGen w * 2 ^ 48))
      if left = 0 then
        let s2 := s1.wakeSlot core slot
        if c < amt then s2.count ctx .staleDecrement else s2
      else s1

/-- DEPENDENCE_DECREMENT (R21). -/
def execDependenceDecrement (s : State) : Outcome State Fault Refusal :=
  .next (match s.builtin s.inp.core 4 with
    | none => s
    | some (m, s1) =>
      let s2 := s1.applyTdec s.inp.core (wordAt m.pkt.payload 0) (wordAt m.pkt.payload 1) m.pkt.ctx
      if m.pkt.scube = s.cubeNum then s2.settlePacket m.pkt .msgs id else s2.performed m.pkt none)

/-! ## Queues (R28, R153, R311) -/

/-- QUEUE_ITEM (R28, R153): an item from another cube; the answer says whether it was accepted. -/
def execQueueItem (s : State) : Outcome State Fault Refusal :=
  .next (match s.builtin s.inp.core 6 with
    | none => s
    | some (m, s1) =>
      let p := m.pkt
      let q := (wordAt p.payload 8).toNat % 64
      if !(s.ctx p.ctx).claims q then s1.performed p (some (s1.responseTo p 5 [0, 0, 0, 0]))
      else
        let (ok, s2) := s1.offerItem p.ctx q (ofLineBytes (bytesOfWords (p.payload.take 8)))
        let s3 := if ok then s2 else s2.overflowItem p.ctx q
        s3.performed p (some (s3.responseTo p (if ok then 0 else 3) [boolWord ok, 0, 0, 0])))

/-- QUEUE_WINDOW_WRITE (R28, R311): a 64-byte posted write of the host. -/
def execQueueWindowWrite (s : State) : Outcome State Fault Refusal :=
  .next (
    let ctx := s.inp.ctx
    let q := s.inp.index % 64
    if s.hostPending ctx then s
    else if (s.ctx ctx).claims q then
      let (ok, s1) := s.offerItem ctx q s.inp.wide
      if ok then s1 else s1.overflowItem ctx q
    else s.overflowItem ctx q)

/-! ## Remote accesses at their destination (R121, R225, R245) -/

/-- This cube's checks of an access from another cube to a global physical address, under the homing and PCL its packet carries: in the context's
partition, no write into a reserved region (R234); an existing DRAM address (R238), a mask that is not zero here (R235), a PCL frame not below
LINBASE (R240). The local address, or the event. -/
def State.farCheck (s : State) (ctx gpa homing : Nat) (write : Bool) : Except EvCode Nat :=
  match s.localOf gpa with
  | none => .error .nopage
  | some key =>
    if 2 ^ 59 ≤ gpa then
      (if s.inPartition ctx (scratchCore key) && !(write && s.reservedOff (scratchCore key) (scratchOff key)) then .ok key else .error .perm)
    else if s.homingServes ctx homing key then .ok key else .error .perm

/-- The local address of a remote request. -/
def State.remoteKey (s : State) (p : Packet) (write : Bool) : Except EvCode Nat :=
  s.farCheck p.ctx (wordAt p.payload 0).toNat (wordAt p.payload 1).toNat write

/-- The response to a request that ends in an event here: status 5, for uncorrectable data 4; word 0 is the event's code (DESIGN CHOICE, log
entry 13). -/
def State.eventResponse (s : State) (p : Packet) (c : EvCode) : Packet :=
  s.responseTo p (if c = .eccu then 4 else 5) [BitVec.ofNat 64 c.num, 0, 0, 0]

/-- An access of a core's strand 0 for a remote request (R220): a load or a store at its timestamp. -/
def State.strandLoad (s : State) (core k : Nat) : State :=
  let (t, s1) := s.stampLoad (s.unit (unitKey core 0)).pts k
  s1.setPts (unitKey core 0) t
def State.strandStore (s : State) (core k : Nat) : State :=
  let (t, s1) := s.stampStore (s.unit (unitKey core 0)).pts k
  s1.setPts (unitKey core 0) t

/-- Operation code and size of a request (R294, DESIGN CHOICE, log entry 13): code 1 of a load or store selects bytes of a line by a mask. -/
def Packet.opcode (p : Packet) : Nat := p.aux.toNat / 16 % 16
def Packet.size (p : Packet) : Nat := 2 ^ (p.aux.toNat % 16)

/-- The marked bytes of a line. -/
def maskedBytes (mask : Nat) (bs : List Byte) : List Byte := ((List.range 64).filter mask.testBit).map fun i => bs.getD i 0

/-- Words of a list of bytes, padded. -/
def wordsOf (bs : List Byte) : List Word := leWords (bs ++ List.replicate ((8 - bs.length % 8) % 8) 0)

/-- REMOTE_LOAD (R121, R225): one access of strand 0, answered with its bytes. -/
def execRemoteLoad (s : State) : Outcome State Fault Refusal :=
  .next (match s.builtin s.inp.core 0 with
    | none => s
    | some (m, s1) =>
      let p := m.pkt
      match s1.remoteKey p false with
      | .error c => s1.performed p (some (s1.eventResponse p c))
      | .ok key =>
        if s1.uncorrectable key then s1.performed p (some (s1.eventResponse p .eccu))
        else
          let s2 := s1.strandLoad s.inp.core (stampOf key)
          let bs := if p.opcode = 1 then maskedBytes (wordAt p.payload 2).toNat (s1.bytes (key / 64 * 64) 64) else s1.bytes key p.size
          s2.performed p (some (s2.responseTo p 0 (wordsOf bs))))

/-- Write the marked bytes of a line, packed. -/
def State.writeMasked (s : State) (line mask : Nat) (bs : List Byte) : State :=
  (((List.range 64).filter mask.testBit).zip bs).foldl (fun (t : State) e => t.putBase (line + e.1) [e.2]) s

/-- REMOTE_STORE (R121, R225). -/
def execRemoteStore (s : State) : Outcome State Fault Refusal :=
  .next (match s.builtin s.inp.core 1 with
    | none => s
    | some (m, s1) =>
      let p := m.pkt
      match s1.remoteKey p true with
      | .error c => s1.performed p (some (s1.eventResponse p c))
      | .ok key =>
        let s2 := if p.opcode = 1 then s1.writeMasked (key / 64 * 64) (wordAt p.payload 2).toNat (bytesOfWords (p.payload.drop 3))
          else s1.putBase key (leBytes p.size (wordAt p.payload 2).toNat)
        (s2.strandStore s.inp.core (stampOf key)).performed p none)

/-- An AMO by its code. -/
def amoOf (c : Nat) : AmoOp :=
  match c with
  | 0 => .add
  | 1 => .min
  | 2 => .max
  | 3 => .minu
  | 4 => .maxu
  | 5 => .and
  | 6 => .or
  | 7 => .xor
  | 8 => .swap
  | _ => .fadd

def lockOf (c : Nat) : LockOp :=
  match c with
  | 11 => .rlk
  | 12 => .wlk
  | 13 => .runlk
  | _ => .wunlk

/-- What a remote atomic writes (none: nothing), and its answer: status, value, whether a lock succeeded (1 for the other forms), whether it has
added to WWAIT. Word 2 of the request is the operand, word 3 the expected value; for a lock, whether it has added before, and whether this is a
WLK's first attempt. -/
def atomicAnswer (code size : Nat) (old : Nat) (p : List Word) : Option Nat × Nat × List Word :=
  if code < 10 then
    (some ((amoOf code).apply (8 * size) old ((wordAt p 2).toNat % 2 ^ (8 * size))), 0, [BitVec.ofInt 64 (intOf (amoOf code).signed (8 * size) old), 1, 0, 0])
  else if code = 10 then
    (if BitVec.ofNat 64 old = wordAt p 3 then some (wordAt p 2).toNat else none, 0, [BitVec.ofNat 64 old, 1, 0, 0])
  else if code = withdrawCode then (if bits old 61 32 = 0 then none else some (old - 2 ^ 32), 0, [0, 1, 0, 0])
  else
    let w := BitVec.ofNat 64 old
    let op := lockOf code
    match op.attempt w (decide (wordAt p 2 ≠ 0)) with
    | some w' => (some w'.toNat, 0, [op.result w true, 1, 0, 0])
    | none =>
      if op.waits then
        match (if op = .wlk ∧ wordAt p 3 ≠ 0 ∧ wordAt p 2 = 0 then addWaiter w else none) with
        | some w' => (some w'.toNat, 0, [0, 0, 1, 0])
        | none => (none, 0, [0, 0, 0, 0])
      else (none, 4, [op.result w false, 1, 0, 0])

/-- REMOTE_ATOMIC (R121, R225): read, modify and write at one point. -/
def execRemoteAtomic (s : State) : Outcome State Fault Refusal :=
  .next (match s.builtin s.inp.core 2 with
    | none => s
    | some (m, s1) =>
      let p := m.pkt
      match s1.remoteKey p true with
      | .error c => s1.performed p (some (s1.eventResponse p c))
      | .ok key =>
        if s1.uncorrectable key then s1.performed p (some (s1.eventResponse p .eccu))
        else
          let n := if p.opcode < 10 then p.size else 8
          let (w, status, ws) := atomicAnswer p.opcode n (leVal (s1.bytes key n)) p.payload
          let s2 := match w with
            | some v => (s1.putBase key (leBytes n v)).strandStore s.inp.core (stampOf key)
            | none => s1.strandLoad s.inp.core (stampOf key)
          s2.performed p (some (s2.responseTo p status ws)))

/-! ## Answers at the sender -/

/-- A response that a unit of a core waits for, in the cube's network: its place. -/
def State.answerFor (s : State) (key : Nat) : Option (Nat × Packet) :=
  match (s.unit key).remote with
  | none => none
  | some r => (s.inner.mapIdx fun i p => (i, p)).find? fun e =>
      decide (e.2.kind = .response) && decide (e.2.reply = 0) && (r.parts.any fun x => decide (x.req = e.2.req)) && !s.overtakes e.1 e.2

/-- The parts of an answer put into the buffer. -/
def RemoteWait.fill (r : RemoteWait) (req : Nat) (bs : List Byte) : RemoteWait :=
  let mine := r.parts.filter fun x => decide (x.req = req)
  let (buf, _) := mine.foldl (fun (q : List Byte × List Byte) x => (replaceAt q.1 x.place (q.2.take x.bytes), q.2.drop x.bytes)) (lineBytes r.buf, bs)
  { r with buf := ofLineBytes buf, parts := r.parts.filter fun x => !decide (x.req = req) }

/-- The unit's remote instruction is over without a result. -/
def Strand.endRemote (u : Strand) : Strand := { u with remote := none, hold := none, loads := u.loads - 1 }

/-- The lock a unit's instruction attempts, where it waits (R133). -/
def Strand.lockAt (u : Strand) : Option (WaitKind × Word) := match decodeFetched u.ir.toNat u.irLen with
  | some (.rlk _ a _) => some (.rlk, u.readX a)
  | some (.wlk _ a _) => some (.wlk, u.readX a)
  | _ => none

/-- The last result has come: the destination is written and the instruction is done (R121, R122); blocks have only come, and PC stays
(R145). A WLK that succeeds has no waiter's 1 any more (R133). -/
def Strand.completeRemote (u : Strand) (key : Nat) (r : RemoteWait) : Strand :=
  let v : Line := match r.dest with
    | some (.x _) => (extend r.signed r.bytes ((lineBytes r.buf).take r.bytes)).setWidth 512
    | _ => r.buf
  let u1 := match r.dest with
    | some d => u.deliver ⟨d, v⟩
    | none => u
  { u1 with remote := none, hold := none, wait := none, loads := u.loads - 1, pc := pcValue key (u.pc + BitVec.ofNat 64 r.len),
            wwait := match u.lockAt with
              | some (.wlk, _) => none
              | _ => u.wwait }

/-- A part of a result has come (R121): into the buffer, or among the unit's blocks (R145). -/
def Strand.takePart (u : Strand) (key : Nat) (r : RemoteWait) (req : Nat) (bs : List Byte) : Strand :=
  let r1 := r.fill req bs
  let u1 := if r.dest = some .block then
      { u with blocks := u.blocks ++ (r.parts.filter fun x => decide (x.req = req)).map fun x => (x.va, bs.take x.bytes) } else u
  if r1.parts = [] then u1.completeRemote key r1 else { u1 with remote := some r1 }

/-- A failed attempt of a waiting lock on another cube: the strand is BLOCKED (R133). -/
def State.blockRemote (s : State) (key : Nat) (p : Packet) (kind : WaitKind) (va : Word) : State :=
  let u := s.unit key
  let addr := (u.remote.map (·.gpa)).getD 0
  let w : Wait := match u.wait with
    | some w => w
    | none => ⟨kind, va, s.cycle, s.fresh, 0⟩
  let added := decide (wordAt p.payload 2 ≠ 0)
  let ww := if added then some (p.scube, addr, (0 : BitVec 16)) else u.wwait
  let s1 := s.setUnit key { u.endRemote with st := .blocked, wait := some w, lockTried := s.cycle, wwait := ww }
  { s1 with fresh := s.fresh + 1 }

/-- A response to a unit that waits for a result from another cube (R88, R121, R238): its part of the result, a blocked lock, or
the failure, in which an address of another cube's scratchpad outside the partition is PERM and one beyond its memory NOPAGE (R234). CTXGONE leaves
a free value. -/
def State.remoteResponse (s : State) (key : Nat) (p : Packet) : State :=
  let u := s.unit key
  match u.remote with
  | none => s
  | some r =>
    let status := p.aux.toNat % 256
    let (va, i) := match r.parts.find? fun x => decide (x.req = p.req) with
      | some x => (x.va, x.lane)
      | none => (0, 0)
    let ev (c : EvCode) : State := (s.setUnit key u.endRemote).takeEventOf key c va i 0
    if status = 1 then ev .unreach
    else if status = 4 ∧ wordAt p.payload 1 ≠ 1 then ev .eccu
    else if status = 5 then ev (if wordAt p.payload 0 = BitVec.ofNat 64 EvCode.perm.num then .perm else .nopage)
    else if status = 2 then
      let bs := lineBytes (Config.goneValue s.fresh)
      let u1 := (u.status 2 (opMajor u)).takePart key r p.req (bs ++ bs)
      ({ s.setUnit key u1 with fresh := s.fresh + 1 } : State).note (clusterOf key) (s.ctxOf key) (unitNumber key) .ctxgone 0
    else
      let done := (if status = 4 then u.status 4 21 else u).takePart key r p.req (bytesOfWords p.payload)
      match u.lockAt with
      | some (kind, va) => if wordAt p.payload 1 = 0 then s.blockRemote key p kind va else s.setUnit key done
      | none => s.setUnit key done

/-- LOAD_RETURN (R44, R121, R122): the oldest performed load of a unit returns into its register; or an answer from another cube
comes to a unit that waits for it. -/
def execLoadReturn (s : State) : Outcome State Fault Refusal :=
  .next (
    let key := unitKey s.inp.core s.inp.slot
    let u := s.unit key
    match s.answerFor key with
    | some (i, p) =>
      ({ s with inner := s.inner.eraseIdx i }.setUnit key { u with pts := max u.pts s.floor }).remoteResponse key p
    | none => match u.pend with
      | p :: t => s.setUnit key { u.deliver p with pend := t, loads := u.loads - 1, pts := max u.pts s.floor }
      | [] => s)

/-- The unit and register of a core that await an answer. -/
def State.awaiter (s : State) (core req : Nat) : Option (Nat × Fin 32) :=
  ((unitsOfCore core).findSome? fun k => (((s.unit k).awaits.find? fun a => decide (a.2 = req)).map fun a => (k, a.1)))

/-- The spill slot and register of a core that await an answer (R20). -/
def State.spillAwaiter (s : State) (core req : Nat) : Option (Nat × Spill × Fin 32) :=
  (s.core core).spills.findSome? fun e => e.2.bind fun p => (p.awaits.find? fun a => decide (a.2 = req)).map fun a => (e.1, p, a.1)

/-- The answer to an ENQ or TSPAWN.W reaches its register (R152, R156); a failure shows in MSTAT. -/
def State.deliverAnswer (s : State) (p : Packet) (key : Nat) (r : Fin 32) : State :=
  let u := s.unit key
  let status := p.aux.toNat % 256
  let u1 := if status = 0 then u else u.status status p.major
  let s1 := s.setUnit key ({ u1 with awaits := u1.awaits.filter (fun a => !decide (a.2 = p.req)), pts := max u.pts s.floor }.setX r
    (if status = 0 then wordAt p.payload 0 else 0))
  if status = 2 then s1.note (clusterOf key) (s.ctxOf key) (unitNumber key) .ctxgone 0 else s1

/-- The answer reaches the register's place in a spill slot (R20); MSTAT stays with the strand. -/
def State.deliverSpilled (s : State) (p : Packet) (core slot : Nat) (e : Spill) (r : Fin 32) : State :=
  let k := s.core core
  let status := p.aux.toNat % 256
  let s1 := (s.setCore core { k with spills := Tab.write none k.spills slot (some { e with awaits := e.awaits.filter fun a => !decide (a.2 = p.req) }) }).putBase
    (scratchKey core (spillOff k slot + 8 * r.val)) (leBytes 8 (if status = 0 then (wordAt p.payload 0).toNat else 0))
  if status = 2 then s1.note (core / 8) (s.ctxOfCluster (core / 8)) (unitNumber (unitKey core 0)) .ctxgone 0 else s1

/-- RESPONSE_DELIVERY (R151, R152, R156): a response for a reply address, by strand 0's routine: word 1, then word 0 with STFF semantics; or
an answer that a register of the core awaits, on a strand or in a spill slot. No other party's access falls between the two writes (DESIGN CHOICE, log
entry 43). -/
def execResponseDelivery (s : State) : Outcome State Fault Refusal :=
  .next (
    let core := s.inp.core
    match s.builtin core 5 with
    | some (m, s1) =>
      (match s1.localOf m.pkt.reply.toNat with
        | some key => (s1.cubeWrite (key + 8) (leBytes 8 (wordAt m.pkt.payload 1).toNat)).completionWrite key (wordAt m.pkt.payload 0)
        | none => s1.count m.pkt.ctx .discardedReply)
    | none =>
      match (s.inner.mapIdx fun i p => (i, p)).find? fun e => decide (e.2.kind = .response) && decide (e.2.reply = 0)
          && ((s.awaiter core e.2.req).isSome || (s.core core).spillAwaits e.2.req) && !s.overtakes e.1 e.2 with
      | some (i, p) =>
        let s1 := { s with inner := s.inner.eraseIdx i }
        let s2 := if p.scube = s.cubeNum then s1 else s1.settlePacket { p with sunit := p.dunit } .msgs id
        match s.awaiter core p.req, s.spillAwaiter core p.req with
        | some (key, r), _ => s2.deliverAnswer p key r
        | none, some (slot, e, r) => s2.deliverSpilled p core slot e r
        | none, none => s
      | none => s)

/-- A packet acknowledged: which counter falls (R44, R147); packets of an engine operation lower none. -/
def ackCounter (p : Packet) : Ctr := if p.awaited then .none else if p.hcls = 1 || p.hcls = 2 then .stores else .msgs

/-- REMOTE_ACKNOWLEDGEMENT (R44, R121, R147): an acknowledgement, or a response that no register awaits. A request inside the cube was settled
where it was performed, so its response lowers no counter. -/
def execRemoteAcknowledgement (s : State) : Outcome State Fault Refusal :=
  .next (match s.inner[s.inp.index]? with
    | none => s
    | some p =>
      let n := s.inp.index
      let status := if p.kind = .response then p.aux.toNat % 256 else 0
      let awaited := decide (p.kind = .response) && (decide (p.reply ≠ 0) || s.awaits p.ctx p.req)
      if (p.kind ≠ .ack ∧ p.kind ≠ .response) ∨ awaited ∨ s.overtakes n p then s
      else
        let s1 := { s with inner := s.inner.eraseIdx n }
        let s2 := if p.kind = .response ∧ p.scube = s.cubeNum then s1
          else s1.settlePacket { p with sunit := p.dunit } (ackCounter p) fun u => if status = 0 then u else u.status status p.major
        let s3 := if status = 2 then s2.note (match unitKeyOf p.dunit with
            | some k => clusterOf k
            | none => 0) p.ctx p.dunit .ctxgone 0 else s2
        { s3 with ops := s3.ops.map fun o => if o.ord = p.req then o.answered p.ord status (bytesOfWords p.payload) else o })

/-- LOCK_REMOTE_RETRY (R133): a lock on another cube is attempted again every 256 cc. -/
def execLockRemoteRetry (s : State) : Outcome State Fault Refusal :=
  .next (
    let key := unitKey s.inp.core s.inp.slot
    let u := s.unit key
    match u.wait with
    | some w =>
      let far : Bool := match s.resolve (coreOf key) (s.ctxOf key) w.addr .write u.ply with
        | .ok l => decide (l.cube ≠ s.cubeNum)
        | .error _ => true
      if u.st = .blocked ∧ !u.halted ∧ (w.kind = .rlk ∨ w.kind = .wlk) ∧ 256 ≤ s.cycle - u.lockTried ∧ far then
        s.setUnit key { u with st := .run, lockTried := s.cycle }
      else s
    | none => s)

end Sys2Proof.Machine
end

