-- ==== Sys2Proof/Machine/Complete.lean ====
section
/-! DEFINITION. Operations that complete: stores, tile transfers, array commands, copies and gathers, ply commits (R122, R141, R196 to R209),
the lease's expiry (R191, R264), the end of an IDLE (R117) and the rebase of timestamps (R221). -/

namespace Sys2Proof.Machine

open Sys2Proof Host

/-- STORE_PERFORMED (R44, R122, R180): every access of the store is performed, those on other cubes too. -/
def execStorePerformed (s : State) : Outcome State Fault Refusal :=
  .next (match s.ops[s.inp.index]? with
    | some o => if o.kind = .store ∧ !s.unackedOf o.ord then s.endOp s.inp.index o id else s
    | none => s)

/-- A tile's planes as bytes, from a buffer; what lies outside a map is zero (R202). -/
def planeBytes (buf : Tab (Option Byte)) (n : Nat) : List Byte := (List.range n).map fun i => (Tab.read none buf i).getD 0

/-- TLD_COMPLETE (R203): every line left is read, the tile is READY. -/
def execTldComplete (s : State) : Outcome State Fault Refusal :=
  .next (match s.ops[s.inp.index]? with
    | some o => match o.kind with
      | .tld t =>
        let (s1, o1) := s.readLines o o.reads
        let c := clusterOf o.party
        let k := s1.cluster c
        let w := k.tcfgOf t
        let s2 := s1.setCluster c ((k.putTile t.val 0 (planeBytes o1.buf (elementPlane w + headerPlane w))).setState t .ready)
        let s3 := if o1.eccu then s2.note c o.ctx o.engineUnit .eccu 0 else s2
        s3.endOp s.inp.index o1 fun u => if o1.engerr then u.engineError else u
      | _ => s
    | none => s)

/-- The state after every write an operation can make now; `fin` where none is left and every packet is acknowledged. -/
def State.finishWrites (s : State) (n : Nat) (o : Op) (fin : State → Op → State) : State :=
  let (s1, o1) := s.writeLines o (o.writes.length + 1)
  if o1.writes ≠ [] || s1.unackedOf o1.ord then s1.setOp n o1 else fin s1 o1

/-- TST_COMPLETE (R204): every line left is written, the tile is READY, or EMPTY after TST.F. -/
def execTstComplete (s : State) : Outcome State Fault Refusal :=
  .next (match s.ops[s.inp.index]? with
    | some o => match o.kind with
      | .tst t toEmpty => s.finishWrites s.inp.index o fun s1 o1 =>
          let c := clusterOf o.party
          (s1.setCluster c ((s1.cluster c).setState t (if toEmpty then .empty else .ready))).endEngine s.inp.index o1 0
      | _ => s
    | none => s)

/-- Two array commands name a common tile or accumulator (R196). -/
def ArrayCmd.meets (a b : ArrayCmd) : Bool := a.tiles.any b.tiles.contains || a.accs.any b.accs.contains

/-- An earlier command of the core must be performed first (R75, R196). -/
def State.arrayBehind (s : State) (n : Nat) (core : Nat) (c : ArrayCmd) : Bool := (s.ops.take n).any fun o =>
  decide (coreOf o.party = core) && (match o.kind with
    | .array d => d.meets c
    | _ => false)

/-- ARRAY_COMMAND_COMPLETE (R194 to R201). -/
def execArrayCommandComplete (s : State) : Outcome State Fault Refusal :=
  .next (match s.ops[s.inp.index]? with
    | some o => match o.kind with
      | .array c =>
        if s.arrayBehind s.inp.index (coreOf o.party) c then s
        else
          let cl := clusterOf o.party
          (s.setCluster cl ((s.cluster cl).performAt s.cycle c)).endOp s.inp.index o id
      | _ => s
    | none => s)

/-- The tile commands (R189). -/
def isTileCommand : Instr → Bool
  | .mmaBf16 _ _ _ _ | .mmaF16 _ _ _ _ | .mmaF64 _ _ _ _ | .mmaQ8 _ _ _ _ | .mmaQ4 _ _ _ _ | .mmaQ4b _ _ _ _ | .mmaQ8b _ _ _ _ | .mmaF32r _ _ _ _ => true
  | .mmsBf16 _ _ _ _ _ | .mmsQ8 _ _ _ _ _ | .acvt _ _ _ _ _ | .azero _ _ | .tzero _ | .tld _ _ _ | .tst _ _ _ | .tstF _ _ _ => true
  | _ => false

/-- A tile command of a core waits at issue (R191): for tile states, a copy engine, pool lines, or the lease. -/
def State.tileWaiting (s : State) (core : Nat) : Bool := (unitsOfCore core).any fun k =>
  let u := s.unit k
  decide (u.st = .run ∧ u.hold.isSome ∧ ((decodeFetched u.ir.toNat u.irLen).map isTileCommand).getD false)
  || (match u.wait with
    | some w => decide (w.kind = .tileLease)
    | none => false)

/-- LEASE_EXPIRY (R191, R264). -/
def execLeaseExpiry (s : State) : Outcome State Fault Refusal :=
  .next (
    let c := s.inp.part
    let k := s.cluster c
    match k.holder with
    | some h => if leaseCycles ≤ s.cycle - k.leaseSince ∧ k.waiting ≠ [] ∧ !s.tileWaiting (c * 8 + h) then s.setCluster c (k.passOn s.cycle) else s
    | none => s)

/-! ## Plies (R141, R230) -/

/-- A cell is freed: its pool line goes back to its part (R250). -/
def State.freeCell (s : State) (ctx ck : Nat) : State :=
  match Tab.read none s.cells ck with
  | none => s
  | some c =>
    let k := s.ctx ctx
    { s.setCtx ctx { k with poolFree := Tab.write 0 k.poolFree c.part (Tab.read 0 k.poolFree c.part + 1) } with cells := Tab.write none s.cells ck none }

/-- One line write of a commit: the cell's marked bytes into the base line; then the cell is freed. -/
def State.commitCell (s : State) (o : Op) (ck : Nat) : State × Op :=
  match Tab.read none s.cells ck with
  | none => (s, o)
  | some c =>
    let line := ck % 2 ^ 40 * 64
    let s1 := s.writeMasked line c.mask.toNat (maskedBytes c.mask.toNat (lineBytes c.data))
    let (t, s2) := s1.stampStore o.pts (stampOf line)
    (s2.freeCell o.ctx ck, { o with pts := t })

/-- PLYRET_C_LINE_WRITE (R141, R230): the cell that the cube chooses. -/
def execPlyretCLineWrite (s : State) : Outcome State Fault Refusal :=
  .next (match s.ops[s.inp.index]? with
    | some o => match o.kind with
      | .plyret tag true => match (s.cellsOf o.ctx tag)[s.inp.index2]? with
        | some ck =>
          let (s1, o1) := s.commitCell o ck
          s1.setOp s.inp.index o1
        | none => s
      | _ => s
    | none => s)

/-- PLYRET_COMPLETE (R141): a discard frees every cell; once no cell is left the tag is free and its class's count falls. The PLYRETs of one strand
complete in the order of their issue (R347). -/
def execPlyretComplete (s : State) : Outcome State Fault Refusal :=
  .next (match s.ops[s.inp.index]? with
    | some o => match o.kind with
      | .plyret tag commit =>
        let cells := s.cellsOf o.ctx tag
        let earlier := (s.ops.take s.inp.index).any fun p => decide (p.party = o.party) && decide (p.ctx = o.ctx) && (match p.kind with
          | .plyret _ _ => true
          | _ => false)
        if (commit && cells != []) || earlier then s
        else
          let s1 := cells.foldl (fun (t : State) ck => t.freeCell o.ctx ck) s
          let k := s1.ctx o.ctx
          (s1.setCtx o.ctx { k with tags := Tab.write none k.tags tag none }).endOp s.inp.index o id
      | _ => s
    | none => s)

/-! ## Copies and gathers (R207 to R209) -/

/-- An ESEND command in the named engine: it gives no block format, so what it starts is not stated (R154); a block that cannot be read
ends it with an engine error. -/
def State.engineStart (s : State) (n : Nat) (o : Op) (unit : Nat) (addr : Word) : Outcome State Fault Refusal :=
  match s.engineVa (coreOf o.party) o.ctx addr .read with
  | none => .next (s.endEngine n { o with engerr := true } 0)
  | some key => if s.uncorrectable key then .next (s.endEngine n { o with engerr := true } 0) else .refused (.engineBlockFormat unit)

/-- The lines left of a transfer: read, then written; at the end the completion word is the status (R209). -/
def State.endTransfer (s : State) (n : Nat) (o : Op) : State :=
  let (s1, o1) := s.readLines o o.reads
  s1.finishWrites n o1 fun s2 o2 => s2.endEngine n o2 (BitVec.ofNat 64 o2.status)

/-- CPY_COMPLETE (R207, R209); a copy engine's ESEND command starts here (R154). -/
def execCpyComplete (s : State) : Outcome State Fault Refusal :=
  match s.ops[s.inp.index]? with
  | some o => match o.kind with
    | .cpy => .next (s.endTransfer s.inp.index o)
    | .engine unit addr => s.engineStart s.inp.index o unit addr
    | _ => .next s
  | none => .next s

/-- GATH_COMPLETE (R208, R209). -/
def execGathComplete (s : State) : Outcome State Fault Refusal :=
  .next (match s.ops[s.inp.index]? with
    | some o => match o.kind with
      | .gath => s.endTransfer s.inp.index o
      | _ => s
    | none => s)

/-! ## IDLE (R117) -/

/-- IDLE_WAIT_EXPIRY (R117). -/
def execIdleWaitExpiry (s : State) : Outcome State Fault Refusal :=
  .next (
    let key := unitKey s.inp.core s.inp.slot
    let u := s.unit key
    match u.hold with
    | some h => if h.kind = .idle ∧ h.until_ ≤ s.cycle then s.setUnit key { u with hold := none } else s
    | none => s)

/-! ## Timestamps (R221) -/

/-- The greatest timestamp on the cube. -/
def State.topStamp (s : State) : Nat := s.ops.foldl (fun m o => max m o.pts) (s.units.foldl (fun m u => max m u.2.pts) s.floor)

/-- A party's timestamp after a rebase by B: raised to B, then counted from it. -/
def rebase (b t : Nat) : Nat := max t b - b

def EngCmd.rebase (c : EngCmd) (b : Nat) : EngCmd := { c with pts := Machine.rebase b c.pts }

/-- REBASE (R221). -/
def execRebase (s : State) : Outcome State Fault Refusal :=
  .next (
    if s.topStamp < 2 ^ 47 then s
    else
      let b := s.topStamp - 2 ^ 44
      { s with
        units := Tab.remap unitDefault (fun u => { u with pts := rebase b u.pts }) s.units
        ops := s.ops.map fun o => { o with pts := rebase b o.pts }
        stamps := Tab.remap (fun _ => (0, 0)) (fun e => (e.1 - b, e.2 - b)) s.stamps
        ctxs := Tab.remap (fun _ => {}) (fun c => { c with savedUnits := c.savedUnits.map fun u => (u.1, { u.2 with pts := rebase b u.2.pts }) }) s.ctxs
        banks := Tab.remap (fun _ => {}) (fun k => { k with inbox := k.inbox.map (·.rebase b), run := k.run.map fun r => { r with cmd := r.cmd.rebase b } }) s.banks
        dies := (List.range 4).foldl (fun (t : Tab Die) d =>
          let k := s.die d
          Tab.write {} t d { k with rebases := (k.rebases + 1) % 2 ^ 32, redInbox := k.redInbox.map (·.rebase b),
                                    redRun := k.redRun.map fun r => { r with cmd := r.cmd.rebase b } }) s.dies })

end Sys2Proof.Machine
end

