-- ==== Sys2Proof/Machine/Collective.lean ====
section
/-! DEFINITION. Collectives (R210, R300 to R304): the instruction's checks, the tree of a collective as this cube's member sees it, one
chunk of a sum, one chunk of a multicast, resends, the timeout, the end. What the spec leaves open of them is in DESIGN CHOICE, log entry 23. -/

namespace Sys2Proof.Machine

open Sys2Proof Host

/-! ## The instruction (R210) -/

def cdOp (b : List Word) : Nat := bits (wordAt b 0).toNat 3 0
def cdFmt (b : List Word) : Nat := bits (wordAt b 0).toNat 7 4
def cdCount (b : List Word) : Nat := bits (wordAt b 0).toNat 31 16

/-- No reserved value or bit of a descriptor is set. -/
def descriptorOk (b : List Word) : Bool :=
  decide (cdOp b ≤ 4) && decide (bits (wordAt b 0).toNat 15 8 = 0) && decide (bits (wordAt b 0).toNat 63 32 = 0) && decide (cdCount b ≠ 0)
    && (if cdOp b = 1 ∨ cdOp b = 2 then decide (cdFmt b = 1) || decide (cdFmt b = 3) || decide (cdFmt b = 4) else decide (cdFmt b = 0))
    && decide (bits (wordAt b 2).toNat 63 20 = 0) && decide (bits (wordAt b 3).toNat 63 32 = 0) && decide (bits (wordAt b 5).toNat 63 24 = 0)
    && decide (wordAt b 6 = 0) && decide (wordAt b 7 = 0)

/-- The outermost dimension of a map after its TRANS. -/
def TMap.outer (m : TMap) : Nat := if m.trans then max 1 m.ndim else m.ndim

/-- Header bytes of a tensor; none where the format has no headers. -/
def TMap.headers (m : TMap) : Nat :=
  if isQ m.fmt then m.extent 1 * m.extent 2 * m.extent 3 * (m.extent 0 / m.group) * headerBytes m.fmt else 0

/-- The shapes an operation needs; a dimension above NDIM has extent 1. -/
def collShape (op n : Nat) (d sz : TMap) : Bool :=
  (List.range 4).all fun i =>
    if op = 3 ∧ i = sz.outer then decide (d.extentT i = n * sz.extentT i)
    else decide (d.extentT i = sz.extentT i) && (decide (op ≠ 4) || decide (i ≠ sz.outer) || decide (sz.extentT i = n))

/-- The runs of a map in its element order after TRANS. -/
def collRuns (m : TMap) : List Run := cutRuns (if m.trans then transRuns m else tensorRuns m)

/-- The checks of a map's addresses: a nonzero tag on a plied page is PERM. -/
def State.collPlaces (s : State) (acc : Access) (tag : BitVec 16) (sideEffect : Bool) (rs : List Run) : Res (List Placed) :=
  s.checkRuns (fun l => !l.plied || decide (tag = 0)) acc 0 sideEffect false rs

/-- A list of n cube numbers read at issue, line by line (R24, R145). -/
def State.readCubes (s : State) (va : Word) (n : Nat) : Res (State × List Byte) :=
  s.readBlocks ((cutRuns [⟨va, 0, 4 * n, 0, .none⟩]).map fun r => (r.va, r.n, 0))

/-- The part of an exchange (OP 3, OP 4) that member p sends member q, as (source bytes from, how many, the result's bytes from): elements,
then headers. -/
def Coll.slices (c : Coll) (p q : Nat) : List (Nat × Nat × Nat) :=
  let n := c.members.length
  let e := c.elements
  let h := c.size - e
  if c.op = 3 then [(0, e, p * e), (e, h, n * e + p * h)]
  else [(q * e / n, e / n, p * e / n), (e + q * h / n, h / n, e + p * h / n)]

/-- Result bytes stand in the operation's buffer from here on; and an exchanged line's destination is its place in the peer's result. -/
def resultIdx : Nat := 2 ^ 40
def resultAddr : Nat := 2 ^ 60

/-- Bytes for a peer as moves, cut at the lines of its result. -/
def peerMoves (cube : Nat) (sl : Nat × Nat × Nat) : List Move :=
  (cutRun (sl.2.1 / 64 + 2) ⟨BitVec.ofNat 64 sl.2.2, sl.1, sl.2.1, 0, .none⟩).map fun r => { place := .remote cube (resultAddr + r.va.toNat) 0, idx := r.idx, n := r.n, spoil := .none }

/-- Bytes of this member's own part, from the source into the result. -/
def ownPart (buf : Tab (Option Byte)) : List (Nat × Nat × Nat) → Tab (Option Byte)
  | [] => buf
  | (a, n, d) :: t => ownPart (match bufGet buf a n, bufGet buf (resultIdx + d) n with
    | some bs, none => bufPut buf (resultIdx + d) bs
    | _, _ => buf) t

/-- COLL (R210). -/
def execColl (d sz : Fin 16) (k : Fin 32) (s : State) : Outcome State Fault Refusal :=
  finish s (do
    let md := s.map d
    let ms := s.map sz
    let at_ := s.me.readX k
    roomIn s.me.copies
    need (!md.misshapen && !ms.misshapen && !(md.trans && isQ md.fmt) && !(ms.trans && isQ ms.fmt)) .tshape 0
    let maps : Res (List Placed × List Placed) := do
      need (!ms.misaligned) .align ms.base
      need (!md.misaligned) .align md.base
      let src ← s.collPlaces .read (s.mapTag ms) false (collRuns ms)
      let dst ← s.collPlaces .write (s.mapTag md) true (collRuns md)
      .ok (src, dst)
    let (s1, bs) ← beforeAccess (s.readBlock at_ 64 0) maps
    let b := leWords bs
    let op := cdOp b
    let n := cdCount b
    need (decide (5 ≤ op) || collShape op n md ms) .tshape 0
    need (decide (5 ≤ op) || decide (md.fmt = ms.fmt) && (!isQ md.fmt || decide (md.gsz = ms.gsz)) && (decide (op ≠ 1) && decide (op ≠ 2) || decide (ms.fmt = cdFmt b))) .fmtmis 0
    need (descriptorOk b) .perm at_
    let list := wordAt b 1
    need (decide (list.toNat % 4 = 0)) .align list
    let (s2, raw) ← beforeAccess (s1.readCubes list n) (maps.bind fun _ => s1.check (wordAt b 4) 8 .write 0 false 0)
    let cubes := words32 raw
    let root := bits (wordAt b 2).toNat 19 0
    need (cubes.all (fun c => decide (c < 2 ^ 20)) && noTwice cubes && cubes.contains s.cubeNum && (decide (2 ≤ op) || cubes.contains root)) .perm at_
    let (src, dst) ← maps
    let l ← s2.check (wordAt b 4) 8 .write 0 false 0
    need (s.isLocal l) .perm (wordAt b 4)
    let me := cubes.findIdx (· == s.cubeNum)
    let open_ := decide (op = 4) && isQ ms.fmt && decide (ms.ndim = 0)
    let c : Coll := { op := op, fmt := cdFmt b, members := cubes, root := root, tmo := bits (wordAt b 3).toNat 31 0, cid := (wordAt b 5).setWidth 24,
                      size := ms.size + ms.headers, elements := ms.size, sent := [], parts := [] }
    let peers := if op < 3 ∨ open_ then [] else
      (cubes.mapIdx fun q x => (q, x)).flatMap fun e => if e.1 = me then [] else groupMoves ((c.slices me e.1).flatMap (peerMoves e.2))
    let writes := if op = 1 ∧ root ≠ s.cubeNum then []
      else groupMoves ((dst.map (s.moveOf 0)).map fun m => { m with idx := resultIdx + m.idx })
    let reads := if op = 0 ∧ root ≠ s.cubeNum then [] else groupMoves (src.map (s.moveOf 0))
    let free := if open_ then bufPut [] resultIdx ((List.range (md.size + md.headers)).map fun i => Config.spoiledByte s2.fresh i) else []
    .ok ((s2.addOp { s2.newOp (.coll c) .copies with reads := reads, writes := peers ++ writes, buf := free, done := some l.key
                                                     conf := src.any fun p => p.loc.conf }).retire
      (s2.me.raiseCtr .copies) 4))

/-! ## The tree (R300) -/

def Coll.count (c : Coll) : Nat := c.members.length
/-- A broadcast's tree has ROOT at its head (DESIGN CHOICE, log entry 23). -/
def Coll.shift (c : Coll) : Nat := if c.op = 0 then c.members.findIdx (· == c.root) else 0
/-- The cube at a place of the tree, and a cube's place. -/
def Coll.at (c : Coll) (r : Nat) : Nat := c.members.getD ((r + c.shift) % c.count) 0
def Coll.place (c : Coll) (cube : Nat) : Nat := (c.members.findIdx (· == cube) + c.count - c.shift) % c.count
/-- The places whose ranges join the range that begins at p, in the order in which they join it. -/
def Coll.children (c : Coll) (p : Nat) : List Nat :=
  (((List.range 16).filter fun j => decide (p + 2 ^ j < c.count) && decide (p % 2 ^ (j + 1) = 0)).map fun j => p + 2 ^ j)
/-- The place whose range p's range joins; none for place 0. -/
def Coll.parent (_c : Coll) (p : Nat) : Option Nat := if p = 0 then none else ((List.range 16).find? fun j => decide (p % 2 ^ (j + 1) ≠ 0)).map fun j => p - 2 ^ j

def Coll.chunks (c : Coll) : Nat := (c.size + 4095) / 4096
/-- Bytes of a chunk (R302). -/
def Coll.chunkLen (c : Coll) (i : Nat) : Nat := min 4096 (c.size - 4096 * i)
/-- Keys of `parts`: a child's chunk by its order among the children, the combination, the result. -/
def partKey (j chunk : Nat) : Nat := j * 2 ^ 32 + chunk
def formedPart : Nat := 32
def resultPart : Nat := 33
/-- The routers' word that a chunk is complete at every member that gets it. -/
def donePart : Nat := 40
def Coll.part (c : Coll) (j chunk : Nat) : Option (List Byte) := Tab.read none c.parts (partKey j chunk)
def Coll.setPart (c : Coll) (j chunk : Nat) (bs : List Byte) : Coll := { c with parts := Tab.write none c.parts (partKey j chunk) (some bs) }

/-- This member has done its part of a chunk: it has the result, or of a sum to another cube has sent its combination. -/
def Coll.hasPart (c : Coll) (cube i : Nat) : Bool :=
  (c.part (if c.op = 1 ∧ cube ≠ c.root then formedPart else resultPart) i).isSome

/-- A chunk is complete (R302, R304): this member has done its part, and every other member its own, as the routers have said. -/
def Coll.chunkDone (c : Coll) (cube i : Nat) : Bool :=
  c.hasPart cube i && (decide (c.count = 1) || (c.part donePart i).isSome)
def Coll.base (c : Coll) (cube : Nat) : Nat := ((List.range c.chunks).find? fun i => !c.chunkDone cube i).getD c.chunks

/-- The sum of two chunks, element by element (R300). -/
def sumChunks (f : Fmt) (a b : List Byte) : List Byte :=
  let w := f.width / 8
  (List.range (a.length / w)).flatMap fun j =>
    leBytes w (engineAdd f (leVal ((a.drop (j * w)).take w)) (leVal ((b.drop (j * w)).take w)))

def Coll.format (c : Coll) : Fmt := if c.fmt = 1 then bf16 else if c.fmt = 3 then fp32 else fp64

/-! ## Collectives on this cube (R301) -/

def State.collAt (s : State) (n : Nat) : Option (Op × Coll) := match s.ops[n]? with
  | some o => match o.kind with
    | .coll c => some (o, c)
    | _ => none
  | none => none

/-- Context and tree id of a collective operation. -/
def treeOf (o : Op) : Option (Nat × Nat) := match o.kind with
  | .coll c => some (o.ctx, c.cid.toNat % 2 ^ 16)
  | _ => none

/-- The trees that hold an entry of the routers' table: the first of each context and tree id. -/
def liveTrees : List Op → List (Nat × Nat)
  | [] => []
  | o :: t => match treeOf o with
    | some k => k :: (liveTrees t).filter (· != k)
    | none => liveTrees t

/-- The collective has started: no live one has its tree id, and the table has an entry for it. -/
def State.collStarted (s : State) (n : Nat) (o : Op) : Bool :=
  let before := liveTrees (s.ops.take n)
  !(match treeOf o with
    | some k => before.contains k
    | none => true) && decide (before.length < 4096)

/-- A status after which the collective ends without its result. -/
def Op.cut (o : Op) : Bool := decide (o.status ≠ 0) && decide (o.status ≠ 4)

/-- A started collective that goes on, with its operation. -/
def State.collLive (s : State) (n : Nat) : Option (Op × Coll) := match s.collAt n with
  | some (o, c) => if s.collStarted n o && !o.cut then some (o, c) else none
  | none => none

/-- A packet of a collective's tree. -/
def ofTree (o : Op) (c : Coll) (p : Packet) : Bool := decide (p.ctx = o.ctx) && decide (p.aux.toNat = c.cid.toNat % 2 ^ 16)

/-- An operation may make its accesses: a collective has to have started (R301). -/
def State.opStarted (s : State) (n : Nat) : Bool := match s.collAt n with
  | some (o, _) => s.collStarted n o
  | none => true

/-- Send a chunk to a member (R294, R302). -/
def State.sendChunk (s : State) (o : Op) (c : Coll) (kind : PktKind) (cube i : Nat) (bs : List Byte) : State :=
  if s.sendState cube o.engineUnit 3 = .unreach then s
  else
    let p := s.packet kind o.engineUnit o.ctx cube o.engineUnit 0 3 0 (flitWords (leWords (bs ++ List.replicate ((8 - bs.length % 8) % 8) 0))) 0
    s.post { p with gen := o.gen, aux := BitVec.ofNat 16 c.cid.toNat, tspec := BitVec.ofNat 12 i, mcast := decide (kind = .multicast), conf := o.conf }

/-- Send a chunk to every child. -/
def State.sendDown (s : State) (o : Op) (c : Coll) (i : Nat) (bs : List Byte) : State :=
  (c.children (c.place s.cubeNum)).foldl (fun (t : State) q => t.sendChunk o c .multicast (c.at q) i bs) s

def Op.withColl (o : Op) (c : Coll) : Op := { o with kind := .coll c }

/-- What members' descriptors have to agree in: operation, format and count, ROOT of the operations that have one, CID, the list. -/
def Coll.agreed (c : Coll) : List Word :=
  [BitVec.ofNat 64 (c.op + c.fmt * 2 ^ 4 + c.count * 2 ^ 16), BitVec.ofNat 64 (if c.op < 2 then c.root else 0), c.cid.setWidth 64] ++ c.members.map (BitVec.ofNat 64)

/-- The routers of the tree report chunk i (R302, R304), an input with what they hold of the members' descriptors: this member's own, and the chunk
is complete at every member; or another, and the collective ends with status 5 (DESIGN CHOICE, log entry 23: how routers tell members). -/
def State.routersReport (s : State) (n : Nat) (o : Op) (c : Coll) (i : Nat) (words : List Word) : State :=
  if words ≠ c.agreed then s.setOp n (o.fail 5)
  else if i < c.chunks ∧ c.hasPart s.cubeNum i then s.setOp n (o.withColl (c.setPart donePart i []))
  else s

/-- The first packet of a kind that carries chunk i of a tree, and the others. -/
def takeChunk (o : Op) (c : Coll) (kind : PktKind) (i : Nat) (ps : List Packet) : Option (Packet × List Packet) :=
  takePacket (fun p => decide (p.kind = kind) && ofTree o c p && decide (p.tspec.toNat = i % 4096)) ps

/-- The chunk is one of those that can be outstanding (R302). -/
def Coll.inWindow (c : Coll) (cube i : Nat) : Bool := decide (c.base cube ≤ i + 2048) && decide (i < c.base cube + 2048)

/-- Bytes of a chunk's packet. -/
def Packet.chunk (p : Packet) (n : Nat) : List Byte := (bytesOfWords p.payload).take n

/-! ## One chunk of a sum (R300, R302) -/

/-- The source's bytes, read where they have not been. -/
def State.collSource (s : State) (o : Op) : State × Op := s.readLines o o.reads

/-- Every child's chunk, in the order in which they join. -/
def Coll.fromChildren (c : Coll) (p i : Nat) : Option (List (List Byte)) :=
  ((List.range (c.children p).length).foldr (fun j (r : Option (List (List Byte))) => match c.part j i, r with
    | some b, some t => some (b :: t)
    | _, _ => none) (some []))

/-- A sum's chunk of one member, its NaNs canonical (R68). -/
def canonChunk (f : Fmt) (a : List Byte) : List Byte :=
  let w := f.width / 8
  (List.range (a.length / w)).flatMap fun j =>
    let x := leVal ((a.drop (j * w)).take w)
    leBytes w (if (f.unpack x).isNan then f.qnan else x)

/-- A sum's chunk comes: to a node from one of its children, or to ROOT from the head of the tree; a second copy is discarded (R304). -/
def State.takeReduce (s : State) (n : Nat) (o : Op) (c : Coll) (i : Nat) (k : Packet) : State :=
  let p := c.place s.cubeNum
  let kids := (c.children p).map c.at
  let toRoot := decide (c.op = 1) && decide (s.cubeNum = c.root) && decide (p ≠ 0) && decide (k.scube = c.at 0)
  let j := if kids.contains k.scube then kids.findIdx (· == k.scube) else resultPart
  if (c.op ≠ 1 ∧ c.op ≠ 2) || !(kids.contains k.scube || toRoot) then s.setOp n (o.fail 5)
  else if (c.part j i).isSome then s
  else if c.chunks ≤ i || k.plen != (c.chunkLen i + 31) / 32 then s.setOp n (o.fail 5)
  else s.setOp n ({ o with conf := o.conf || k.conf }.withColl (c.setPart j i (k.chunk (c.chunkLen i))))

/-- REDUCE_CHUNK (R300, R302): the routers' report; or a child's chunk is taken in; or, with every child's there, the combination goes to the
parent, from the head of the tree to ROOT. -/
def execReduceChunk (s : State) : Outcome State Fault Refusal :=
  .next (
    let n := s.inp.index
    let i := s.inp.index2
    match s.collLive n with
    | none => s
    | some (o, c) =>
      let p := c.place s.cubeNum
      if s.inp.flag then s.routersReport n o c i s.inp.words
      else if !c.inWindow s.cubeNum i then s
      else match takeChunk o c .reduce i s.inner with
        | some (k, rest) => ({ s with inner := rest } : State).takeReduce n o c i k
        | none =>
          if (c.op ≠ 1 ∧ c.op ≠ 2) || c.chunks ≤ i || (c.part formedPart i).isSome then s
          else match c.fromChildren p i with
            | none => s
            | some parts =>
              let (s1, o1) := s.collSource o
              let own := (bufGet o1.buf (4096 * i) (c.chunkLen i)).getD []
              let sum := parts.foldl (sumChunks c.format) (if c.count = 1 then canonChunk c.format own else own)
              let c1 := { c.setPart formedPart i sum with sent := Tab.write none c.sent i (some s.gtime) }
              match c.parent p with
              | some q => (s1.sendChunk o c .reduce (c.at q) i sum).setOp n (o1.withColl c1)
              | none =>
                if c.op = 1 ∧ s.cubeNum ≠ c.root then (s1.sendChunk o c .reduce c.root i sum).setOp n (o1.withColl c1)
                else if c.op = 1 then s1.setOp n (o1.withColl (c1.setPart resultPart i sum))
                else s1.setOp n (o1.withColl c1))

/-! ## One chunk of a multicast (R303) -/

/-- A chunk comes down the tree: it goes on to the children, and this member takes it in; a second copy only goes on (R303, R304). -/
def State.takeMulticast (s : State) (n : Nat) (o : Op) (c : Coll) (i : Nat) (k : Packet) : State :=
  let up := (c.parent (c.place s.cubeNum)).map c.at
  if (c.op ≠ 0 ∧ c.op ≠ 2) || up.isNone || (up != some k.scube && k.scube != c.at 0) || c.chunks ≤ i || k.plen != (c.chunkLen i + 31) / 32 then s.setOp n (o.fail 5)
  else
    let s1 := ((c.children (c.place s.cubeNum)).map c.at).foldl (fun (t : State) q => if t.sendState q o.engineUnit 3 = .unreach then t else t.post { k with dcube := q }) s
    if (c.part resultPart i).isSome then s1
    else s1.setOp n ({ o with conf := o.conf || k.conf }.withColl (c.setPart resultPart i (k.chunk (c.chunkLen i))))

/-- MULTICAST_CHUNK (R303): the head of the tree sends a chunk down, or a chunk that has come is taken in and goes on down. -/
def execMulticastChunk (s : State) : Outcome State Fault Refusal :=
  .next (
    let n := s.inp.index
    let i := s.inp.index2
    match s.collLive n with
    | none => s
    | some (o, c) =>
      if !c.inWindow s.cubeNum i then s
      else match takeChunk o c .multicast i s.inner with
        | some (k, rest) => ({ s with inner := rest } : State).takeMulticast n o c i k
        | none =>
          if (c.op ≠ 0 ∧ c.op ≠ 2) || (c.parent (c.place s.cubeNum)).isSome || c.chunks ≤ i || (c.part resultPart i).isSome then s
          else
            let (s1, o1) := if c.op = 0 then s.collSource o else (s, o)
            match (if c.op = 0 then bufGet o1.buf (4096 * i) (c.chunkLen i) else c.part formedPart i) with
            | none => s
            | some bs => (s1.sendDown o c i bs).setOp n (o1.withColl { c.setPart resultPart i bs with sent := Tab.write none c.sent i (some s.gtime) }))

/-! ## Resends and the end -/

/-- CHUNK_RESEND (R304): a chunk sent 100 µs ago that is not complete is sent once more: from the head of the tree the result to its children, else
the combination to the parent, or from the head of a sum's tree to ROOT. -/
def execChunkResend (s : State) : Outcome State Fault Refusal :=
  .next (
    let n := s.inp.index
    let i := s.inp.index2
    match s.collLive n with
    | none => s
    | some (o, c) => match Tab.read none c.sent i with
      | none => s
      | some t =>
        if t + 100000 ≤ s.gtime ∧ !c.chunkDone s.cubeNum i then
          let s1 := match c.part resultPart i, c.part formedPart i with
            | some bs, _ => s.sendDown o c i bs
            | none, some bs => s.sendChunk o c .reduce (match c.parent (c.place s.cubeNum) with
                | some q => c.at q
                | none => c.root) i bs
            | none, none => s
          s1.setOp n (o.withColl { c with sent := Tab.write none c.sent i (some s.gtime) })
        else s)

/-- The end: the tree's packets that wait here are dropped, the completion word is written (R210, R302). -/
def State.endColl (s : State) (n : Nat) (o : Op) (c : Coll) : State :=
  ({ s with inner := s.inner.filter fun p => !((decide (p.kind = .reduce) || decide (p.kind = .multicast)) && ofTree o c p) } : State).endEngine n o
    (BitVec.ofNat 64 (o.status + c.cid.toNat * 2 ^ 8))

/-- COLLTMO (R210, R302): TMO µs after issue the member withdraws the tree with status 1. -/
def execColltmo (s : State) : Outcome State Fault Refusal :=
  .next (match s.collAt s.inp.index with
    | some (o, c) =>
      if c.tmo ≠ 0 ∧ c.tmo * 1800 ≤ s.cycle - o.since then s.endColl s.inp.index { o.fail 1 with reads := [], writes := [] } c else s
    | none => s)

/-- Exchanged lines that have come: into the buffer, each acknowledged (R294). -/
def State.takeExchanged (s : State) (o : Op) (c : Coll) : List Packet → State × Op
  | [] => (s, o)
  | p :: t =>
    if decide (p.kind = .engineData) && ofTree o c p && decide (resultAddr ≤ (wordAt p.payload 0).toNat) then
      let off := (wordAt p.payload 0).toNat - resultAddr
      let mask := wordAt p.payload 1
      let first := ((List.range 64).find? mask.getLsbD).getD 0
      let n := ((List.range 64).filter mask.getLsbD).length
      let bs := (bytesOfWords (p.payload.drop 3)).take n
      ((({ s with inner := s.inner.filter (· != p) } : State).performed p none).takeExchanged { o with buf := bufPut o.buf (resultIdx + off + first) bs } c t)
    else s.takeExchanged o c t

/-- The result in the operation's buffer. -/
def Coll.resultBuf (c : Coll) (buf : Tab (Option Byte)) : Tab (Option Byte) :=
  (List.range c.chunks).foldl (fun (b : Tab (Option Byte)) i => match c.part resultPart i with
    | some bs => bufPut b (resultIdx + 4096 * i) bs
    | none => b) buf

/-- COLL_COMPLETE (R210): the member's destination writes, its packets acknowledged, then the end. -/
def execCollComplete (s : State) : Outcome State Fault Refusal :=
  .next (
    let n := s.inp.index
    match s.collAt n with
    | none => s
    | some (o, c) =>
      if !s.collStarted n o then s
      else if o.cut then s.endColl n { o with reads := [], writes := [] } c
      else if c.members.any s.isRemoved then s.endColl n { o.fail 2 with reads := [], writes := [] } c
      else if c.op < 3 then
        if c.base s.cubeNum < c.chunks then s
        else s.finishWrites n { o with buf := c.resultBuf o.buf } fun t p => t.endColl n p c
      else
        let (s1, o1) := s.takeExchanged o c s.inner
        let (s2, o2) := s1.collSource o1
        s2.finishWrites n { o2 with buf := ownPart o2.buf (c.slices (c.place s.cubeNum) (c.place s.cubeNum)) } fun t p => t.endColl n p c)

end Sys2Proof.Machine
end

