-- ==== Sys2Proof/Machine/Events.lean ====
section
/-! DEFINITION. Events after the stop (R87 to R91, R246, R316): the event message at the service core, what its firmware answers, the
table walk, the reply at the stopped unit, and the ply pool's growth. -/

namespace Sys2Proof.Machine

open Sys2Proof Host

/-! ## The service core's inbox -/

/-- Event messages a service core's inbox holds: 16 KiB of 64 bytes each (R18, R30, R90). -/
def serviceRoom : Nat := 256

/-- EVPOL's field for an event code (R316); SVC is forwarded whatever it holds. -/
def Ctx.policy (k : Ctx) (c : EvCode) : Nat := if c = .svc then 3 else bits k.evpol.toNat (2 * c.num + 1) (2 * c.num)

/-- A further event to be forwarded waits in its slot while 64 wait for HEVT (R316); XMISS and PLYPOOL are handled before EVPOL is consulted. -/
def Ctx.hevtFull (k : Ctx) (c : EvCode) : Bool :=
  decide (c ≠ .xmiss) && decide (c ≠ .plypool) && decide (k.policy c = 3) && decide (64 ≤ k.hevt.length)

/-- EVENT_MESSAGE (R87, R90): the message in the event slot goes to the cluster's service core. -/
def execEventMessage (s : State) : Outcome State Fault Refusal :=
  .next (
    let key := unitKey s.inp.core s.inp.slot
    let u := s.unit key
    let k := s.cluster (clusterOf key)
    match u.event with
    | some e =>
      if u.st = .stopped ∧ !u.posted ∧ k.svc.length < serviceRoom ∧ !(s.ctx e.ctx).hevtFull e.code then
        (s.setCluster (clusterOf key) { k with svc := k.svc ++ [e] }).setUnit key { u with posted := true }
      else s
    | none => s)

/-- The first message of a service core that a test accepts, and the rest. -/
def takeEvent (p : EventMsg → Bool) : List EventMsg → Option (EventMsg × List EventMsg)
  | [] => none
  | e :: t => if p e then some (e, t) else (takeEvent p t).map fun r => (r.1, e :: r.2)

/-- Word 0 of a reply (R91). -/
def replyWord (e : EventMsg) (act : Nat) (wrd : Bool) : Word :=
  BitVec.ofNat 64 (act + (if wrd then 4 else 0) + e.strand * 2 ^ 8 + e.code.num * 2 ^ 16 + e.gen.toNat * 2 ^ 24)

/-- Send a reply to the unit that stopped (R91): HCLS 8, in class 4 at priority 3. -/
def State.reply (s : State) (e : EventMsg) (from_ : Nat) (w0 w1 : Word) : State :=
  s.post (s.packet .builtin from_ e.ctx s.cubeNum e.unit 8 4 3 [w0, w1, 0, 0] 0)

/-- R316: the pool grows by 1/16 of POOL, at least a line (DEDUCED, log entry 22), over the four parts, up to 2 × POOL; none past that bound. -/
def State.growPool (s : State) (ctx : Nat) : Option State :=
  let k := s.ctx ctx
  let n := max 1 (k.poolLines.toNat / 16)
  if 2 * k.poolLines.toNat < k.poolTotal + n then none
  else
    let free := (List.range 4).foldl (fun (t : Tab Nat) d => Tab.write 0 t d (Tab.read 0 t d + (n + 3 - d) / 4)) k.poolFree
    some (s.setCtx ctx { k with poolFree := free, poolTotal := k.poolTotal + n })

/-- An event waits in its strand's slot once more (R316); of a switched-out context that is the saved strand's. -/
def State.unpost (s : State) (e : EventMsg) : State :=
  let back (u : Strand) : Strand := if u.event = some e then { u with posted := false } else u
  if s.isOut e.ctx then s.setCtx e.ctx { s.ctx e.ctx with savedUnits := (s.ctx e.ctx).savedUnits.map fun u => if u.1 = e.party then (u.1, back u.2) else u }
  else s.setUnit e.party (back (s.unit e.party))

/-- Forward an event to the host (R316): queued for HEVT, vector 63 raised; past 64 it waits in its slot. -/
def State.forward (s : State) (e : EventMsg) : State :=
  let k := s.ctx e.ctx
  if k.hevt.length < 64 then ((s.setCtx e.ctx { k with hevt := k.hevt ++ [e] }).raiseVf e.ctx 63).2
  else s.unpost e

/-- Firmware answers an event by a policy value (R316). -/
def State.answer (s : State) (e : EventMsg) (policy : Nat) : State :=
  let me := unitNumber (serviceKey (clusterOf e.party))
  if policy = 0 then s.reply e me (replyWord e 2 false) 0
  else if policy = 1 then s.reply e me (replyWord e 1 false) 0
  else if policy = 2 then s.reply e me (replyWord e 0 false) 0
  else s.forward e

/-- EVENT_POLICY_REPLY (R316): the oldest message that is no XMISS. A note needs no reply. -/
def execEventPolicyReply (s : State) : Outcome State Fault Refusal :=
  .next (
    let c := s.inp.part
    let k := s.cluster c
    match (if s.plat.boot = .failed then none else takeEvent (fun e => e.note || decide (e.code ≠ .xmiss)) k.svc) with
    | none => s
    | some (e, rest) =>
      let s1 := s.setCluster c { k with svc := rest }
      if e.gen ≠ (s.ctx e.ctx).gen then s1
      else if e.code = .plypool then match s1.growPool e.ctx with
        | some s2 => if e.note then s2 else s2.answer e 2
        | none => if e.note then s1 else s1.answer e ((s.ctx e.ctx).policy e.code)
      else if e.note then s1
      else s1.answer e ((s.ctx e.ctx).policy e.code))

/-- An entry into the stopped core's TLB, at a place that firmware chooses, and the retry. -/
def State.fillTlb (s : State) (e : EventMsg) (i : Nat) (p : Pte) : State :=
  let q := s.core (coreOf e.party)
  (s.setCore (coreOf e.party) { q with tlb := Tab.write none q.tlb (i % 64) (some p) }).answer e 2

/-- Firmware writes an entry into the context's page table, at one of the places where a walk for the address looks (R246). -/
def State.mapPage (s : State) (ctx : Nat) (va : Word) (i : Nat) (w0 w1 : Word) : State :=
  match (walkPlaces (s.ctx ctx).ptbase.toNat (s.ctx ctx).ptlog.toNat va.toNat)[i]? with
  | some (_, gpa) => match s.localOf gpa with
    | some key => s.cubeWrite key (bytesOfWords [w0, w1])
    | none => s
  | none => s

/-- TLB_MISS_WALK (R246, R247): the oldest XMISS of a service core. One of another shard goes to that shard's service core, which makes the walk
(DEDUCED, log entry 85). An entry found is written into the stopped core's TLB and the instruction retried. Where the context's policy maps the page
on demand (the flag), the entry that firmware gives it is written into the page table first. Another missing page is answered by the
context's policy, in which retry is no answer. -/
def execTlbMissWalk (s : State) : Outcome State Fault Refusal :=
  .next (
    let c := s.inp.part
    let k := s.cluster c
    match (if s.plat.boot = .failed then none else takeEvent (fun e => !e.note && decide (e.code = .xmiss)) k.svc) with
    | none => s
    | some (e, rest) =>
      let s1 := s.setCluster c { k with svc := rest }
      let shard := (s.ctx e.ctx).shard e.addr
      if e.gen ≠ (s.ctx e.ctx).gen then s1
      else if c ≠ shard then s1.setCluster shard { s1.cluster shard with svc := (s1.cluster shard).svc ++ [e] }
      else match s1.walk e.ctx e.addr with
        | some p => s1.fillTlb e s.inp.index p
        | none =>
          if s.inp.flag then
            let s2 := s1.mapPage e.ctx e.addr s.inp.index2 s.inp.word0 s.inp.word1
            match s2.walk e.ctx e.addr with
            | some p => s2.fillTlb e s.inp.index p
            | none => s
          else
            let v := (s.ctx e.ctx).policy .xmiss
            s1.answer e (if v = 2 then 0 else v))

/-! ## The reply (R91, R268) -/

/-- WRD: the value into the destination of the instruction that stopped (R91); after an event of its fetch there is no instruction, and WRD is
ignored (DEDUCED, log entry 87). -/
def Strand.writeWrd (u : Strand) (v : Word) : Strand :=
  if u.fetchStop then u
  else match decodeFetched u.ir.toNat u.irLen with
  | some i => match wrdDest i with
    | .x r => u.setX r v
    | .f r => u.setF r v
    | .none => u
  | none => u

/-- The work of a unit ends as failed (R36, R91, R164): its request is withdrawn, a held record rejected, the launch's status noted. -/
def State.terminate (s : State) (key : Nat) : State :=
  let ctx := s.ctxOf key
  let s0 := s.withdraw key
  let s1 := s0.release ctx (s0.unit key) false
  let u := s1.unit key
  let s2 := if isSpindle key then s1.setUnit key { u.spindleStop with event := none, posted := false }
    else if isMsgStrand key then
      let s' := ({ s1 with cur := key } : State).endHandler
      { (s'.setUnit key { s'.unit key with event := none, posted := false }) with cur := s.cur }
    else s1.setUnit key u.vacate
  let k := s2.ctx ctx
  match k.launch with
  | some l => s2.setCtx ctx { k with launch := some { l with status := lowStatus l.status 4 } }
  | none => s2

/-- A reply acts on a STOPPED unit (R91); a HALT written meanwhile takes effect (R51). -/
def State.applyReply (s : State) (key : Nat) (w0 w1 : Word) : State :=
  let u := s.unit key
  let act := bits w0.toNat 1 0
  let go : Strand := { u with st := .run, event := none, posted := false, hold := none, wait := none }
  let s1 :=
    if act = 0 then
      let hover : Bool := match u.event with
        | some e => decide (e.code = .hoverrun)
        | none => false
      let now := if u.halted then u.haltedAt else s.cycle
      s.setUnit key (if hover then { go with handlerSince := now, ranBefore := u.ranBefore + (now - u.handlerSince) } else go)
    else if act = 1 then
      let v := if w0.getLsbD 2 then go.writeWrd w1 else go
      (s.withdrawWaiter key).setUnit key { v with wwait := none, pc := pcValue key (u.pc + BitVec.ofNat 64 (if u.irLen = 0 then 2 else u.irLen)) }
    else s.terminate key
  let v := s1.unit key
  if v.haltReq then s1.setUnit key v.spindleStop else s1

/-- The unit a reply names: a spindle core by its own slot, else the strand in word 0. -/
def replyKey (dunit : Nat) (w0 : Word) : Option Nat := (unitKeyOf dunit).map fun k =>
  if isService k || isSpindle k then k else k + bits w0.toNat 10 8

/-- The unit's event is the one a reply answers (R91). -/
def Strand.answers (u : Strand) (gen : BitVec 8) (spindle : Bool) (w0 : Word) : Bool :=
  decide (u.st = .stopped) && (!spindle || decide (bits w0.toNat 10 8 = 0)) && decide (bits w0.toNat 31 24 = gen.toNat) && (match u.event with
    | some e => decide (bits w0.toNat 23 16 = e.code.num)
    | none => false)

/-- The slot of a unit in the fault-reply area (R269). -/
def Ctx.faultSlot (k : Ctx) (key : Nat) : Nat := k.savebase.toNat + 0x10000 + key * 16

/-- A reply is checked and acts, or is discarded and counted (R91); that of a switched-out context goes into its slot (R268). -/
def State.takeReply (s : State) (ctx dunit : Nat) (w0 w1 : Word) : State :=
  match replyKey dunit w0 with
  | none => s.count ctx .discardedReply
  | some key =>
    let k := s.ctx ctx
    if k.state = .out then
      if (k.savedUnit key).answers k.gen (isSpindle key) w0 then
        s.putPhys (k.faultSlot key) 2 (bytesOfWords [(w0 &&& 0xFFFFFFFF) ||| 0x8000000000000000, w1])
      else s.count ctx .discardedReply
    else if s.inPartition ctx (coreOf key) && (s.unit key).answers k.gen (isSpindle key) w0 then s.applyReply key w0 w1
    else s.count ctx .discardedReply

/-- EVENT_REPLY (R91): the first reply on its way to a core's units. -/
def execEventReply (s : State) : Outcome State Fault Refusal :=
  .next (
    let mine (p : Packet) : Bool := decide (p.kind = .builtin) && decide (p.hcls = 8) && (match unitKeyOf p.dunit with
      | some k => !isService k && decide (coreOf k = s.inp.core)
      | none => false)
    match takePacket mine s.inner with
    | some (p, rest) => ({ s with inner := rest } : State).takeReply p.ctx p.dunit (wordAt p.payload 0) (wordAt p.payload 1)
    | none => s)

/-- HREPLY (R313, R316): the host's write of reply word 0 sends the reply, with word 1 as written before; a mismatch with the event in HEVT
is discarded and counted. -/
def execHreply (s : State) : Outcome State Fault Refusal :=
  .next (
    let ctx := s.inp.ctx
    let k := s.ctx ctx
    let w0 := s.inp.word0
    match (if s.inp.part ≠ 0 ∧ s.hostPending ctx then [] else k.hevt) with
    | e :: t =>
      if bits w0.toNat 10 8 = e.strand ∧ bits w0.toNat 23 16 = e.code.num ∧ bits w0.toNat 31 24 = e.gen.toNat then
        (s.setCtx ctx { k with hevt := t }).reply e (512 + 12) w0 k.hreply1
      else s.count ctx .discardedReply
    | [] => if s.inp.part ≠ 0 ∧ s.hostPending ctx then s else s.count ctx .discardedReply)

/-! ## The ply pool (R138, R207) -/

/-- PLYPOOL_TIMEOUT (R138): an access that has held issue for 4,096 cc for want of a pool line. -/
def execPlypoolTimeout (s : State) : Outcome State Fault Refusal :=
  .next (
    let key := unitKey s.inp.core s.inp.slot
    let u := s.unit key
    match u.hold with
    | some ⟨.plyPool va lane, since, _⟩ =>
      if u.st = .run ∧ !u.halted ∧ 4096 ≤ s.cycle - since then s.takeEventOf key .plypool va lane 0 else s
    | _ => s)

/-- A line that has come from another cube and waits for a pool line: its note, after 4,096 cc (R207). -/
def State.farLineNote (s : State) (n : Nat) : State := match s.net[n]? with
  | some p =>
    if p.kind = .engineData ∧ p.ord = 1 ∧ p.ply ≠ 0 ∧ p.dcube = s.cubeNum ∧ 4096 ≤ s.cycle - p.wid then
      ({ s with net := s.net.set n { p with wid := s.cycle } } : State).note (p.dunit / 1024 % 4 * 8 + p.dunit / 64 % 8) p.ctx p.dunit .plypool 0
    else s
  | none => s

/-- PLYPOOL_NOTE (R207, R316): an engine line that has waited 4,096 cc for a pool line posts a note, and its wait counts anew; with the flag, one that
has come from another cube. -/
def execPlypoolNote (s : State) : Outcome State Fault Refusal :=
  .next (if s.inp.flag then s.farLineNote s.inp.index else match s.ops[s.inp.index]? with
    | some o => match o.stuck with
      | some since =>
        if 4096 ≤ s.cycle - since then (s.setOp s.inp.index { o with stuck := some s.cycle }).note (clusterOf o.party) o.ctx o.engineUnit .plypool 0 else s
      | none => s
    | none => s)

end Sys2Proof.Machine
end

