-- ==== Sys2Proof/Machine/Reduce.lean ====
section
/-! DEFINITION. The reduction engine of a die (R286 to R288): the block, its pages, one line of the tree sum, the end. -/

namespace Sys2Proof.Machine

open Sys2Proof Host

def rdNsrc (b : List Word) : Nat := bits (wordAt b 0).toNat 12 8
def rdFmt (b : List Word) : Nat := bits (wordAt b 0).toNat 17 16
def rdLen (b : List Word) : Nat := (wordAt b 1).toNat
def rdSrc (b : List Word) (i : Nat) : Word := wordAt b (8 + i)

/-- The block's format (R286). -/
def redBlockOk (b : List Word) : Bool :=
  let w := (wordAt b 0).toNat
  decide (bits w 7 0 = 3) && decide (1 ≤ rdNsrc b) && decide (rdNsrc b ≤ 16) && decide (bits w 15 13 = 0) && decide (rdFmt b ≠ 3) && decide (bits w 63 18 = 0)
    && decide (rdLen b ≠ 0) && decide (rdLen b % 64 = 0) && decide (rdLen b ≤ 2 ^ 30) && decide ((wordAt b 2).toNat % 64 = 0)
    && ((List.range 4).all fun i => decide (wordAt b (4 + i) = 0))
    && ((List.range 16).all fun i => if i < rdNsrc b then decide ((rdSrc b i).toNat % 64 = 0) else decide (rdSrc b i = 0))

/-- The conditions on a page of a range (R286): its entry, or the status. -/
def State.redPage (s : State) (die : Nat) (c : EngCmd) (va : Nat) (written : Bool) : Except Nat Pte :=
  match tlbFind (s.core c.core).tlb c.ctx va with
  | none => .error 2
  | some p =>
    if !p.bank || p.plied || (p.ro && written) then .error 3
    else
      let base := p.pfn.toNat * 2 ^ 16
      if s.frameOn die none (base + 2 ^ p.shift) (2 ^ p.shift / 4096 + 1) base then .ok p else .error 3

/-- Every page of a range, in ascending address. -/
def State.redPages (s : State) (die : Nat) (c : EngCmd) (written : Bool) (stop : Nat) : Nat → Nat → Except Nat (List Pte)
  | 0, _ => .ok []
  | f + 1, va =>
    if stop ≤ va then .ok []
    else match s.redPage die c va written with
      | .error e => .error e
      | .ok p => match s.redPages die c written stop f ((va / 2 ^ p.shift + 1) * 2 ^ p.shift) with
        | .error e => .error e
        | .ok l => .ok (p :: l)

/-- The pages of every source, then the destination's. -/
def State.redAll (s : State) (die : Nat) (c : EngCmd) (b : List Word) : List (Nat × Bool) → Except Nat (List Pte)
  | [] => .ok []
  | (va, w) :: t => match s.redPages die c w (va + rdLen b) (rdLen b / 65536 + 2) va with
    | .error e => .error e
    | .ok l => match s.redAll die c b t with
      | .error e => .error e
      | .ok m => .ok (l ++ m)

/-- The ranges of a block: sources, then the destination. -/
def redRanges (b : List Word) : List (Nat × Bool) := (List.range (rdNsrc b)).map (fun i => ((rdSrc b i).toNat, false)) ++ [((wordAt b 2).toNat, true)]

/-- The end of a command: the completion word, then the join (R284, R288). -/
def State.endReduction (s : State) (die : Nat) (c : EngCmd) (done : Option Nat) (status : Nat) : State :=
  let s1 := s.setDie die { s.die die with redRun := none }
  let s2 := match done with
    | some key => s1.completeAt c.ctx key (BitVec.ofNat 64 status)
    | none => s1
  s2.joinCommand c (decide (status = 0))

/-- REDUCTION_COMMAND_START (R286). -/
def execReductionCommandStart (s : State) : Outcome State Fault Refusal :=
  .next (
    let d := s.inp.part
    let k := s.die d
    match k.redRun, k.redInbox with
    | none, c :: rest =>
      let s1 := s.setDie d { k with redInbox := rest }
      match s1.readCommand c 3 c.addr with
      | none => s1.joinCommand c false
      | some b =>
        let done := s.reportPlace c (wordAt b 3) 8
        if !redBlockOk b || done.isNone then s1.endReduction d c done 1
        else match s.redAll d c b (redRanges b) with
          | .error e => s1.endReduction d c done e
          | .ok ptes => s1.setDie d { s1.die d with redRun := some { cmd := c, block := b, ptes := ptes, todo := List.range (rdLen b / 64), status := 0, done := done } }
    | _, _ => s)

def redFormat (b : List Word) : Fmt := if rdFmt b = 0 then fp32 else if rdFmt b = 1 then bf16 else fp64

/-- Elements of a line. -/
def elems (f : Fmt) (bs : List Byte) : List Nat := (List.range (64 / (f.width / 8))).map fun i => leVal ((bs.drop (i * (f.width / 8))).take (f.width / 8))

/-- The element of the tree over the sources (R287). R76 passes a lone child on unchanged; a NaN is made the canonical one there too, since R68 has this
engine produce no other (DEDUCED, log entry 92). -/
def redElement (f : Fmt) (xs : List Nat) : Nat :=
  let v := ((treeSum (fun x y => (engineAdd f x y, 0)) 4 (xs.map some ++ List.replicate (16 - xs.length) none)).1).getD 0
  if (f.unpack v).isNan then f.qnan else v

/-- The sum of source lines (R287); a line with uncorrectable data gives the canonical NaN (R288). -/
def redLine (f : Fmt) (lines : List (Option (List Byte))) : List Byte :=
  if lines.any (·.isNone) then nanBytes f 64
  else
    let es := lines.map fun l => elems f (l.getD [])
    (List.range (64 / (f.width / 8))).flatMap fun j => leBytes (f.width / 8) (redElement f (es.map fun e => e.getD j 0))

/-- A place of a range under the translations the engine holds; a page it has lost is translated anew (R288). -/
def State.redPlace (s : State) (die : Nat) (r : RedRun) (va : Nat) (written : Bool) : Except Nat (Nat × Option Pte) :=
  let at_ (p : Pte) : Except Nat Nat := match s.resolveDram (p.map va) with
    | some (cube, a) => if cube = s.cubeNum ∧ a / 2 ^ 37 = die ∧ dramExists a then .ok a else .error 3
    | none => .error 3
  match r.ptes.find? fun p => p.hits r.cmd.ctx va with
  | some p => (at_ p).map fun a => (a, none)
  | none => match s.redPage die r.cmd va written with
    | .error e => .error e
    | .ok p => (at_ p).map fun a => (a, some p)

/-- Every place of a line, and the translations it added. -/
def State.redPlaces (s : State) (die : Nat) (r : RedRun) (line : Nat) : List (Nat × Bool) → Except Nat (List Nat × RedRun)
  | [] => .ok ([], r)
  | (va, w) :: t => match s.redPlace die r (va + 64 * line) w with
    | .error e => .error e
    | .ok (a, p) => match s.redPlaces die { r with ptes := r.ptes ++ p.toList } line t with
      | .error e => .error e
      | .ok (l, r1) => .ok (a :: l, r1)

/-- Pages that a TLBI has dropped are translated anew through the issuing core's TLB, whatever the line (R288). -/
def State.regain (s : State) (die : Nat) (r : RedRun) : List Pte → Except Nat RedRun
  | [] => .ok { r with lost := [] }
  | p :: t =>
    let lo := p.vpn.toNat * 2 ^ 16
    let hi := lo + 2 ^ p.shift
    let found := (redRanges r.block).findSome? fun e =>
      if e.1 < hi ∧ lo < e.1 + rdLen r.block then (match s.redPage die r.cmd (max lo e.1) e.2 with
        | .error c => some (Except.error c)
        | .ok q => if e.2 then some (.ok q) else none) else none
    match found with
    | some (.error c) => .error c
    | some (.ok q) => s.regain die { r with ptes := r.ptes ++ [q] } t
    | none => s.regain die r t

/-- The line that the engine works on: number k of those under way, taken out of them; else the one it begins, once its pages are translated. -/
def State.redBegin (s : State) (die : Nat) (r : RedRun) (k n : Nat) : Except Nat (Option (RedRun × RedStep)) := match r.now[k]? with
  | some w => .ok (some ({ r with now := r.now.eraseIdx k }, w))
  | none => match r.todo[n]? with
    | none => .ok none
    | some line => match s.regain die r r.lost with
      | .error e => .error e
      | .ok r1 => match s.redPlaces die r1 line (redRanges r.block) with
        | .error e => .error e
        | .ok (places, r2) => .ok (some ({ r2 with todo := r.todo.eraseIdx n }, ⟨line, places, []⟩))

/-- Sources of a line that are not read yet. -/
def RedStep.unread (w : RedStep) (n : Nat) : List Nat := (List.range n).filter fun i => (Tab.read none w.got i).isNone

/-- The source lines read, in order. -/
def RedStep.lines (w : RedStep) (n : Nat) : List (Option (List Byte)) := (List.range n).map fun i => (Tab.read none w.got i).getD none

/-- The next access of a line (R288): a source read, the one named or the first, or at last the destination written. -/
def State.redAccess (s : State) (r : RedRun) (w : RedStep) (i : Nat) : State × RedRun × Option RedStep :=
  let n := rdNsrc r.block
  let left := w.unread n
  let dst := w.places.getD n 0
  if left ≠ [] then
    let j := if left.contains i then i else left.headD 0
    let a := w.places.getD j 0
    let (pts, s1) := s.stampLoad r.cmd.pts (stampOf a)
    (s1, { r with cmd := { r.cmd with pts := pts } }, some { w with got := Tab.write none w.got j (some (if s.uncorrectable a then none else some (s.bytes a 64))) })
  else
    let (pts, s1) := (s.putBase dst (redLine (redFormat r.block) (w.lines n))).stampStore r.cmd.pts (stampOf dst)
    (s1, { r with cmd := { r.cmd with pts := pts }, status := if (w.lines n).any (·.isNone) then 4 else r.status }, none)

/-- Accesses of a line, at most n of them. -/
def State.redGo (s : State) (r : RedRun) (w : RedStep) (i : Nat) : Nat → State × RedRun × Option RedStep
  | 0 => (s, r, some w)
  | n + 1 => match s.redAccess r w i with
    | (s1, r1, some w1) => s1.redGo r1 w1 i n
    | done => done

/-- REDUCTION_LINE (R287, R288): a line under way or the one that the engine begins, or with the second flag one access of it, of the source named;
after the last line the command ends. -/
def execReductionLine (s : State) : Outcome State Fault Refusal :=
  .next (
    let d := s.inp.part
    match (s.die d).redRun with
    | none => s
    | some r => match s.redBegin d r s.inp.index s.inp.index2 with
      | .error e => s.endReduction d r.cmd r.done e
      | .ok none => s
      | .ok (some (r1, w)) =>
        let (s1, r2, now) := s.redGo r1 w s.inp.slot (if s.inp.flag2 then 1 else 17)
        let r3 := { r2 with now := r2.now ++ now.toList }
        if r3.now = [] ∧ r3.todo = [] then s1.endReduction d r3.cmd r3.done r3.status else s1.setDie d { s1.die d with redRun := some r3 })

/-- The lines under way are ended (R315: a reset takes effect at a line's boundary). -/
def State.endLine (s : State) (d : Nat) : State := match (s.die d).redRun with
  | some r =>
    let (s1, r1) := r.now.foldl (fun (q : State × RedRun) w =>
      let (t, x, _) := q.1.redGo q.2 w 0 17
      (t, x)) (s, { r with now := [] })
    s1.setDie d { s1.die d with redRun := some r1 }
  | none => s

end Sys2Proof.Machine
end

