-- ==== Sys2Proof/Machine/Special.lean ====
section
/-! DEFINITION. SRW (R46, R115), with the halting of a spindle core and the loading of its instruction store (R51). -/

namespace Sys2Proof.Machine

open Sys2Proof Host

/-- The image an instruction store receives: 4,096 bytes from a local address. -/
def State.imageAt (s : State) (key : Nat) : Tab Byte := putBytes [] 0 (s.bytes key 4096)

/-- A spindle core halts at an instruction boundary (R51): what its instruction has made of its accesses is done, and its requests are withdrawn. -/
def State.haltSpindle (s : State) (key : Nat) : State :=
  let s1 := ((s.endVec key).dropTaken key).withdraw key
  s1.setUnit key (s1.unit key).spindleStop

/-- LOADIMG or STORIMG (R51): 4 KiB of the core's own scratchpad, 4 KiB-aligned, into the store; a busy core is halted first, as HALT does: one that is
stopped on an event when the reply arrives, so that it executes nothing more. -/
def State.loadImage (s : State) (core slot : Nat) (va : Word) : Res State := do
  need (decide (va.toNat % 4096 = 0)) .align va
  let v := va.toNat
  need (isScratchVa va && decide (bits v 59 56 = 0) && decide (bits v 27 20 = 0) && decide (bits v 55 36 = s.cubeNum)
    && decide (bits v 35 28 = core)) .perm va
  let key := unitKey core slot
  let u := s.unit key
  let s1 := if !u.busy then s else if u.event.isSome then s.setUnit key { u with haltReq := true } else s.haltSpindle key
  .ok (s1.setUnit key { s1.unit key with imem := s1.imageAt (scratchKey core (bits v 19 0)) })

/-- SRW of a register that may be written (R115). -/
def State.writeSpecialReg (s : State) (i : Nat) (v : Word) : Res State :=
  let core := coreOf s.cur
  if i = 0x08 then s.setPly v
  else if i = 0x40 then
    let c := clusterOf s.cur
    let k := s.cluster c
    .ok ((s.setCluster c { k with astat := astatWrite k.astat v ||| k.justSet s.cycle }).retire s.me 4)
  else if i = 0x50 || i = 0x51 then
    let key := unitKey core (if i = 0x50 then 8 else 9)
    let s1 := s.setUnit key ((s.unit key).writeCtl v s.fresh)
    .ok ({ s1 with fresh := s1.fresh + 1 }.retire s1.me 4)
  else if i = 0x52 || i = 0x53 then do
    let s1 ← s.loadImage core (if i = 0x52 then 8 else 9) v
    .ok (s1.retire s1.me 4)
  else .ok (s.retire (s.me.writeSpecial i v) 4)

/-- SRW (R46, R115). -/
def execSrw (a : Fin 32) (im : Fin 1024) (s : State) : Outcome State Fault Refusal :=
  finish s (
    if 0x200 ≤ im.val then (if isService s.cur then .ok (s.retire s.me 4) else raise .priv 0)
    else if !isWritable im.val || isSpindle s.cur then raise .undef 0
    else s.writeSpecialReg im.val (s.me.readX a))

end Sys2Proof.Machine
end

