-- ==== Sys2Proof/Machine/Context.lean ====
section
/-! DEFINITION. A context's life (R266 to R271, R312 to R315, R323): creation, release, reset, switching out and in with the save area, the
debugger's stops, and the host's control of spindle cores (R51). -/

namespace Sys2Proof.Machine

open Sys2Proof Host

/-! ## Spindle cores (R51) -/

/-- The spindle core a step names: the storer with the flag, else the loader. -/
def Input.spindle (i : Input) : Nat := unitKey i.core (if i.flag then 9 else 8)

/-- SPINDLE_GO (R51): an idle spindle core starts at START. -/
def execSpindleGo (s : State) : Outcome State Fault Refusal :=
  .next (
    let key := s.inp.spindle
    if (s.unit key).busy ∨ s.ctxOf key = 16 then s
    else { s.setUnit key ((s.unit key).spindleGo s.fresh) with fresh := s.fresh + 1 })

/-- SPINDLE_HALT (R51): a HALT that has been written takes effect at an instruction boundary. -/
def execSpindleHalt (s : State) : Outcome State Fault Refusal :=
  .next (
    let key := s.inp.spindle
    let u := s.unit key
    if u.haltReq ∧ u.event.isNone then s.haltSpindle key else s)

/-- SPINDLE_IMAGE_LOAD (R51): 4 KiB of the core's own scratchpad into the instruction store. -/
def execSpindleImageLoad (s : State) : Outcome State Fault Refusal :=
  .next (match s.loadImage s.inp.core (if s.inp.flag then 9 else 8) s.inp.word0 with
    | .ok t => t
    | .error _ => s)

/-! ## Creation, release and reset (R314, R315) -/

/-- The clusters of a CLMASK. -/
def maskClusters (m : BitVec 32) : List Nat := (List.range 32).filter m.getLsbD

/-- The cores of some clusters. -/
def coresOfClusters (ks : List Nat) : List Nat := ks.flatMap fun k => (List.range 8).map fun i => k * 8 + i

/-- Scratchpads zero and empty, strands and spindle cores as at creation; no TLB of the cube keeps an entry of the context (R314). -/
def State.clearCores (s : State) (ctx : Nat) (cores : List Nat) : State :=
  let mine (key : Nat) : Bool := isScratchKey key && cores.contains (scratchCore key)
  let keep (e : Nat × Option Pte) : Bool := match e.2 with
    | some p => decide (p.ctx.toNat ≠ ctx)
    | none => false
  let s1 := { s with
    mem := s.mem.filter fun e => !mine e.1
    full := s.full.filter fun e => !mine (e.1 * 8)
    units := s.units.filter fun e => isService e.1 || !cores.contains (coreOf e.1)
    cores := Tab.remap (fun _ => {}) (fun k => { k with tlb := k.tlb.filter keep }) s.cores }
  cores.foldl (fun (t : State) c => t.setCore c { tlb := (t.core c).tlb }) s1

/-- The ply domain from NTAGS, POOL and the quotas, and empty queue rings (R137, R250, R28). -/
def Ctx.build (k : Ctx) : Ctx :=
  { k with
    tags := []
    poolFree := (List.range 4).foldl (fun (t : Tab Nat) d => Tab.write 0 t d ((k.poolLines.toNat + 3 - d) / 4)) []
    poolTotal := k.poolLines.toNat
    queues := k.queues.map fun e => (e.1, e.2.map fun q => { q with items := [] }) }

/-- A context without work: what creation and reset leave of it (R314, R315). Writes of L fields that wait for the next launch wait on. -/
def Ctx.clear (k : Ctx) : Ctx :=
  { k.build with
    remasked := [], htab := [], launch := none, submissions := [], engagers := [], skeins := [], stopped := false, thermal := 0, hevt := []
    spoolWrite := 0, spoolRead := 0, spool := [], spoolSeq := 0, withdrawn := [], saved := [], savedUnits := [], savedClusters := [] }

/-- CONTEXT_CREATE (R314), through the physical function (0) alone (R313). -/
def execContextCreate (s : State) : Outcome State Fault Refusal :=
  .next (
    let ctx := s.inp.ctx
    let k := s.ctx ctx
    let ks := maskClusters k.clmask
    if 16 ≤ ctx ∨ s.plat.boot = .failed then s
    else if s.inp.part ≠ 0 ∨ k.state ≠ .free ∨ ks = [] ∨ ks.any (fun c => (s.cluster c).ctx.isSome) then s.setCtx ctx k.refuse
    else
      let s1 := ks.foldl (fun (t : State) c => t.setCluster c { ctx := some ctx, svc := (t.cluster c).svc, idleSince := s.cycle }) s
      let s2 := s1.clearCores ctx (coresOfClusters ks)
      s2.setCtx ctx { k.clear with state := .idle })

/-- The near-bank commands of a context come to their element's or line's end (R284, R315). -/
def State.endNear (s : State) (ctx : Nat) : State :=
  let s1 := (s.banks.map (·.1)).foldl (fun (t : State) c => match (t.bank c).run with
    | some r => if r.cmd.ctx = ctx then t.endElement c else t
    | none => t) s
  (s1.dies.map (·.1)).foldl (fun (t : State) d => match (t.die d).redRun with
    | some r => if r.cmd.ctx = ctx then t.endLine d else t
    | none => t) s1

/-- The task cores of a context with the messages that their strand 0 has or is handling; of one that is switched out, as they were saved. -/
def State.inboxesOf (s : State) (ctx : Nat) : List (List InMsg × Option InMsg) :=
  let k := s.ctx ctx
  if k.state = .out then
    k.saved.map fun e => (e.2.inbox.flatMap (·.2), (Tab.read {} k.savedUnits (unitKey e.1 0)).inMsg)
  else (s.coresOf ctx).map fun c => ((s.core c).inbox.flatMap (·.2), (s.unit (unitKey c 0)).inMsg)

/-- Requests and messages of other cubes that have reached this one for a context and are not performed: at a reset they bear the old generation (R299,
R315). -/
def State.unperformedOf (s : State) (ctx : Nat) : List Packet :=
  let far (p : Packet) : Bool := decide (p.ctx = ctx) && decide (p.scube ≠ s.cubeNum)
  (s.inner ++ (s.ctx ctx).spool.map (·.1)).filter (fun p => far p && (decide (p.kind = .user) || decide (p.kind = .builtin)))
    ++ (s.inboxesOf ctx).flatMap fun e => (e.1.map (·.pkt)).filter fun p => far p && decide (p.kind = .builtin)

/-- Cubes whose engagements of a context reset here are still owed an acknowledgement, one entry for each: launch starts and messages that wait, messages
under way (R35, R315). -/
def State.owedAcks (s : State) (ctx : Nat) : List Nat :=
  (s.mgmt.filter fun p => decide (p.ctx = ctx) && decide (p.kind = .launchStart)).map (·.scube)
    ++ (s.inboxesOf ctx).flatMap fun e =>
      (e.1.filter fun m => decide (m.pkt.kind = .user) && decide (m.pkt.scube ≠ s.cubeNum) && m.pkt.engages).map (·.pkt.scube)
        ++ (e.2.toList.filter (·.owes)).map (·.pkt.scube)

/-- A service core discards the events of a context that is reset (R315); those of others stay. -/
def Cluster.without (k : Cluster) (ctx : Nat) : Cluster := { k with svc := k.svc.filter fun e => e.ctx != ctx }

/-- Steps 1 to 4 of a reset (R315): GEN, the strands, reservations and commands, and everything the partition holds. -/
def State.resetSteps (s : State) (ctx : Nat) : State :=
  let s := s.endNear ctx
  let k := s.ctx ctx
  let ks := if k.state = .out then (k.savedClusters.map (·.1)).filter fun c => (s.cluster c).ctx.isNone else s.clustersOf ctx
  let s0 := { s with
    inner := s.inner.filter fun p => p.ctx != ctx
    clusters := Tab.remap (fun _ => {}) (fun c => c.without ctx) s.clusters
    mgmt := s.mgmt.filter fun p => p.ctx != ctx
    outbox := s.outbox.filter fun p => p.ctx != ctx
    ops := s.ops.filter fun o => o.ctx != ctx
    cells := s.cells.filter fun e => e.1 / 2 ^ 56 != ctx
    banks := Tab.remap (fun _ => {}) (fun b => { b with inbox := b.inbox.filter (fun c => c.ctx != ctx), run := b.run.filter fun r => r.cmd.ctx != ctx }) s.banks
    dies := Tab.remap (fun _ => {}) (fun d => { d with gangs := d.gangs.filter (fun g => g.ctx != ctx), redInbox := d.redInbox.filter (fun c => c.ctx != ctx),
                                                       redRun := d.redRun.filter fun r => r.cmd.ctx != ctx }) s.dies }
  let s1 := ks.foldl (fun (t : State) c => t.setCluster c { ctx := some ctx, svc := (t.cluster c).svc, trace := (t.cluster c).trace, idleSince := s.cycle }) s0
  let s2 := s1.clearCores ctx (coresOfClusters ks)
  let s3 := s2.setCtx ctx { k.clear with gen := k.gen + 1, state := .idle }
  let s4 := (s.unperformedOf ctx).foldl State.refuseStale s3
  s4.ackEngagers ctx (s.owedAcks ctx) 3

/-- CONTEXT_FREE (R314): from STATE 1 and through the physical function alone. -/
def execContextFree (s : State) : Outcome State Fault Refusal :=
  .next (
    let ctx := s.inp.ctx
    let k := s.ctx ctx
    if s.inp.part ≠ 0 ∨ k.state ≠ .idle then s.setCtx ctx k.refuse
    else
      let ks := s.clustersOf ctx
      let s1 := s.resetSteps ctx
      let s2 := ks.foldl (fun (t : State) c => t.setCluster c { svc := (t.cluster c).svc }) s1
      s2.setCtx ctx { (s2.ctx ctx).configured with state := .free })

/-- CONTEXT_RESET (R315): the live launch and every waiting submission complete with status 3; another cube's launch is acknowledged. -/
def execContextReset (s : State) : Outcome State Fault Refusal :=
  .next (
    let ctx := s.inp.ctx
    let k := s.ctx ctx
    if k.state = .free ∨ (s.inp.part ≠ 0 ∧ s.hostPending ctx) ∨ k.submissions.any (fun b => s.mgmtHeld ctx (wordAt b.words 2)) ∨ (k.launch.any fun l => l.root && s.mgmtHeld ctx (wordAt l.words 2)) then s
    else
      let s1 := s.resetSteps ctx
      let s2 := match k.launch with
        | some l =>
          let s2 := s1.ackEngagers ctx k.engagers 3
          if l.root then s2.writeDone ctx l.words 3 else s2
        | none => s1
      k.submissions.foldl (fun (t : State) sub => t.writeDone ctx sub.words 3) s2)

/-! ## The save area (R269, R270) -/

/-- Write n pages of 4 KiB from a global physical address: the bytes of a table from key `from_` on, unlisted ones zero. -/
def State.putPages (s : State) (gpa n : Nat) (t : Tab Byte) (from_ : Nat) : State :=
  (List.range n).foldl (fun (q : State) i => match q.localOf (gpa + 4096 * i) with
    | some key =>
      let lo := from_ + 4096 * i
      let part := t.filter fun e => decide (lo ≤ e.1) && decide (e.1 < lo + 4096)
      { q with mem := part.foldl (fun (m : List Host.Cell) e => Tab.write (0 : Byte) m (e.1 - lo + key) e.2) (clearMem q.mem key 4096) }
    | none => q) s

/-- Read n pages as a table of bytes from key `to_` on. -/
def State.getPages (s : State) (gpa n to_ : Nat) : Tab Byte :=
  (List.range n).flatMap fun i => match s.localOf (gpa + 4096 * i) with
    | some key => (s.mem.filter fun e => decide (key ≤ e.1) && decide (e.1 < key + 4096)).map fun e => (e.1 - key + to_ + 4096 * i, e.2)
    | none => []

/-- The full bits of a scratchpad (R269): bit w of byte w ÷ 8 for word w. -/
def State.fullBytes (s : State) (core : Nat) : List Byte := (List.range 16384).map fun i =>
  BitVec.ofNat 8 ((List.range 8).foldl (fun n j => if s.isFull (scratchKey core ((8 * i + j) * 8)) then n + 2 ^ j else n) 0)

/-- A spindle core's state (R269), 39 words. -/
def Strand.spindleWords (u : Strand) : List Word :=
  (u.pc :: (List.range 15).map fun i => Tab.read 0 u.x (i + 1))
    ++ (List.range 4).flatMap (fun i => (lineWords ((Tab.read 0 u.tm i).setWidth 512)).take 4)
    ++ u.counterWords ++ [u.mstat, BitVec.ofNat 64 ((if u.busy then 1 else 0) + (if u.event.isSome then 2 else 0) + u.code.toNat * 2 ^ 8)]

/-- A spindle core's state loaded (R269). -/
def Strand.loadSpindle (u : Strand) (ws : List Word) : Strand :=
  let ms := wordAt ws 37
  { u with
    pc := wordAt ws 0, x := tabOfWords 1 ((ws.drop 1).take 15), tm := wideTab 4 4 256 (ws.drop 16)
    loads := (wordAt ws 32).toNat, stores := (wordAt ws 33).toNat, copies := (wordAt ws 34).toNat, tiles := (wordAt ws 35).toNat, msgs := (wordAt ws 36).toNat
    last := ms.setWidth 8, major := (ms >>> 8).setWidth 6, err := ms.getLsbD 16, engerr := ms.getLsbD 17
    busy := (wordAt ws 38).getLsbD 0, code := (wordAt ws 38 >>> 8).setWidth 8
    st := if !(wordAt ws 38).getLsbD 0 then .idle else if (wordAt ws 38).getLsbD 1 then .stopped else .run }

/-- Core block k (R269). -/
def State.saveCore (s : State) (gpa core : Nat) : State :=
  let s1 := s.putPages gpa 252 s.mem (scratchKey core 0)
  let s2 := s1.putPhys (gpa + runListBase) 6 (s.bytes (scratchKey core runListBase) 16384)
  let s3 := s2.putPhys (gpa + 0x100000) 6 (s.fullBytes core)
  let k := s.core core
  let s4 := (s3.putPages (gpa + 0x104000) 28 [] 0).putPhys (gpa + 0x104000) 2
    (bytesOfWords [BitVec.ofNat 64 core, BitVec.ofNat 64 k.blktmo, spindleCtl (s.unit (unitKey core 8)), spindleCtl (s.unit (unitKey core 9))])
  let s5 := (List.range 8).foldl (fun (t : State) j => t.putPhys (gpa + recordPlace j) 3 (bytesOfWords (s.saveRecord (unitKey core j)))) s4
  (List.range 2).foldl (fun (t : State) j =>
    let u := s.unit (unitKey core (8 + j))
    (t.putPhys (gpa + recordPlace (8 + j)) 3 (bytesOfWords u.spindleWords)).putPages (gpa + 0x10F000 + 0x1000 * j) 1 u.imem 0) s5

/-- Array block j (R269). -/
def State.saveArray (s : State) (gpa cluster : Nat) : State :=
  let k := s.cluster cluster
  let acc : Tab Byte := k.acc.flatMap fun e => (leBytes 8 e.2.toNat).mapIdx fun i b => (e.1 * 8 + i, b)
  let s1 := (s.putPages gpa 512 k.tiles 0).putPages (gpa + 0x200000) 512 acc 0
  let words := (List.range 32).map (Tab.read 0 k.tcfg) ++ (List.range 4).map (fun i => (Tab.read 0 k.accCfg i).setWidth 64) ++ [k.astat.setWidth 64, 0, 0, 0]
  let states := (List.range 32).map fun i => BitVec.ofNat 8 ((Tab.read TileState.empty k.tstate i).code)
  (s1.putPages (gpa + 0x400000) 16 [] 0).putPhys (gpa + 0x400000) 2 (bytesOfWords words ++ states)

/-- The context header's words (R269). -/
def State.headerWords (s : State) (ctx : Nat) (done : Bool) : List Word :=
  let k := s.ctx ctx
  [BitVec.ofNat 64 (ctx + k.gen.toNat * 2 ^ 8 + (if done then 2 ^ 16 else 0) + (maskClusters k.clmask).length * 2 ^ 24), k.clmask.setWidth 64,
   BitVec.ofNat 64 k.spoolWrite, BitVec.ofNat 64 k.spoolRead, BitVec.ofNat 64 (min k.withdrawn.length 64)]

/-- Step 3 to 6 of a switch-out (R267): the save area is written, then the cores may run another context. A packet that waits since the last switch-in
is an arrival once more. -/
def State.saveCtx (s : State) (ctx : Nat) : State :=
  let k := s.ctx ctx
  let cores := s.coresOf ctx
  let ks := s.clustersOf ctx
  let base := k.savebase.toNat
  let s1 := (s.putPages base 32 [] 0).putPhys base 2 (bytesOfWords (s.headerWords ctx true))
  let s2 := (k.withdrawn.take 64).mapIdx (fun i g => (i, g)) |>.foldl (fun (t : State) e => t.putPhys (base + 0x1000 + 64 * e.1) 2 (bytesOfWords e.2.2.descriptor)) s1
  let s3 := (cores.mapIdx fun i c => (i, c)).foldl (fun (t : State) e => t.saveCore (base + 0x20000 + e.1 * 0x120000) e.2) s2
  let s4 := (ks.mapIdx fun j c => (j, c)).foldl (fun (t : State) e => t.saveArray (base + 0x20000 + cores.length * 0x120000 + e.1 * 0x410000) e.2) s3
  let s5 := ({ s4 with inner := k.spool.map (·.1) ++ s4.inner } : State).setCtx ctx { k with
    state := .out
    spool := []
    outSince := s.cycle
    saved := cores.map fun c => (c, { s.core c with tlb := [] })
    savedUnits := (cores.flatMap unitsOfCore).map fun key => (key, s.unit key)
    savedClusters := ks.map fun c => (c, s.cluster c) }
  let s6 := ks.foldl (fun (t : State) c => t.setCluster c { svc := (t.cluster c).svc }) s5
  s6.clearCores 16 cores

/-- CONTEXT_SWITCH_OUT (R267): the gang stop first; once it is complete, the save. -/
def execContextSwitchOut (s : State) : Outcome State Fault Refusal :=
  .next (
    let ctx := s.inp.ctx
    let k := s.ctx ctx
    if k.state ≠ .idle ∧ k.state ≠ .running then s
    else if !k.stopped then s.stopCtx ctx
    else if s.quietCtx ctx then s.saveCtx ctx
    else s)

/-- A scratchpad and its full bits from the image (R271). -/
def State.loadScratch (s : State) (gpa core : Nat) : State :=
  let img := (s.getPages gpa 252 (scratchKey core 0)).filter fun e => e.2 != 0
  let fulls := s.getPhys (gpa + 0x100000) 16384
  let s1 := { s with mem := img.foldl (fun (m : List Host.Cell) e => Tab.write (0 : Byte) m e.1 e.2) (clearMem s.mem (scratchKey core 0) 0x100000) }
  (fulls.mapIdx fun i b => (i, b)).foldl (fun (t : State) e => (List.range 8).foldl (fun (q : State) j =>
    q.setFull (scratchKey core ((8 * e.1 + j) * 8)) (e.2.getLsbD j)) t) s1

/-- An array block read back (R271). -/
def State.loadArray (s : State) (gpa cluster : Nat) (old : Cluster) : State :=
  let accBytes := s.getPages (gpa + 0x200000) 512 0
  let acc := accBytes.foldl (fun (t : Tab Word) e => Tab.write (0 : Word) t (e.1 / 8) (Tab.read (0 : Word) t (e.1 / 8) + BitVec.ofNat 64 (e.2.toNat * 2 ^ (8 * (e.1 % 8))))) []
  let ws := leWords (s.getPhys (gpa + 0x400000) 320)
  let sts := s.getPhys (gpa + 0x400140) 32
  s.setCluster cluster { old with
    svc := (s.cluster cluster).svc
    gated := false
    idleSince := s.cycle
    tiles := (s.getPages gpa 512 0).filter fun e => e.2 != 0
    acc := acc
    tcfg := tabOfWords 0 (ws.take 32)
    accCfg := (List.range 4).foldl (fun (t : Tab (BitVec 5)) i => Tab.write 0 t i ((wordAt ws (32 + i)).setWidth 5)) []
    astat := (wordAt ws 36).setWidth 9
    tstate := (List.range 32).foldl (fun (t : Tab TileState) i => Tab.write .empty t i (if sts.getD i 0 = 2 then .ready else .empty)) [] }

/-- A place for a message in its region: the first that is free. -/
def inboxPlace (ms : List InMsg) (p : Packet) : Option Nat :=
  (0 :: ms.map fun m => m.off - 32 - (inboxBase + p.pri * 16384) + inboxBytes m.pkt).find? fun off => regionFree ms p.pri off (inboxBytes p)

/-- Spooled packets enter their inboxes in arrival order; those without room, and those behind one of them, wait in the fabric, before any new arrival
(R271). `late` has those that wait; the answer has them all. -/
def State.unspool (s : State) (late : List (Packet × Nat)) : List (Packet × Nat) → State × List (Packet × Nat)
  | [] => (s, late)
  | (p, n) :: t =>
    if late.any fun e => s.sameWay e.1 p then s.unspool (late ++ [(p, n)]) t
    else match s.serverCore p with
      | some c =>
        if !s.inPartition p.ctx c ∨ s.noEntry p then (s.discardPacket p).unspool late t
        else match inboxPlace (s.regionMsgs c p.pri) p with
          | some off => (s.enterInbox c p off).unspool late t
          | none => s.unspool (late ++ [(p, n)]) t
      | none => (s.discardPacket p).unspool late t

/-- The spooled packets of a context that is in enter where there is room. -/
def State.unspoolCtx (s : State) (ctx : Nat) : State :=
  let k := s.ctx ctx
  if k.spool = [] ∨ s.isOut ctx then s
  else
    let (s1, late) := s.unspool [] k.spool
    s1.setCtx ctx { s1.ctx ctx with spool := late }

/-- The reassignment timers of a context's skeins have not run for some cycles (R267). -/
def Ctx.shiftSkeins (k : Ctx) (d : Nat) : Ctx :=
  { k with skeins := k.skeins.map fun e => (e.1, e.2.map fun x => { x with reassigned := x.reassigned + d }) }

/-- Fault replies act on the strands they are for (R268, R271). -/
def State.applyFaults (s : State) (ctx : Nat) (keys : List Nat) : State := keys.foldl (fun (t : State) key =>
  match leWords (t.getPhys ((t.ctx ctx).faultSlot key) 16) with
  | [w0, w1] => if w0.getLsbD 63 ∧ (t.unit key).answers (t.ctx ctx).gen (isSpindle key) w0 then t.applyReply key w0 w1 else t
  | _ => t) s

/-- Items that came to a queue meanwhile go to the DEQs that wait for them (R28). -/
def State.serveQueue (s : State) (ctx q : Nat) : Nat → State
  | 0 => s
  | f + 1 => match firstParked (s.parked ctx fun p => match p with
      | .queue q' _ => decide (q' = q)
      | _ => false), s.takeItem ctx q with
    | some _, some (item, s1) => (s1.offerItem ctx q item).2.serveQueue ctx q f
    | _, _ => s

/-- CONTEXT_SWITCH_IN (R271), onto the clusters of CLMASK. -/
def execContextSwitchIn (s : State) : Outcome State Fault Refusal :=
  .next (
    let ctx := s.inp.ctx
    let k := s.ctx ctx
    let ks := k.savedClusters.map (·.1)
    if k.state ≠ .out ∨ ks.any (fun c => (s.cluster c).ctx.isSome) then s
    else
      let base := k.savebase.toNat
      let n := k.saved.length
      let s1 := (k.savedClusters.mapIdx fun j e => (j, e)).foldl (fun (t : State) e =>
        t.loadArray (base + 0x20000 + n * 0x120000 + e.1 * 0x410000) e.2.1 { e.2.2 with ctx := some ctx }) s
      let s2 := (k.saved.mapIdx fun i e => (i, e)).foldl (fun (t : State) e =>
        (t.loadScratch (base + 0x20000 + e.1 * 0x120000) e.2.1).setCore e.2.1 { e.2.2 with tlb := (s.core e.2.1).tlb }) s1
      let s3 := k.savedUnits.foldl (fun (t : State) e => t.setUnit e.1 e.2) s2
      let s4 := k.savedUnits.foldl (fun (t : State) e => match k.blockPlace (coreOf e.1) (recordPlace (slotOf e.1)) with
        | some gpa =>
          if isSpindle e.1 then
            let u := (t.unit e.1).loadSpindle (leWords (s.getPhys gpa 312))
            t.setUnit e.1 { u with imem := (s.getPages (gpa + 0x2000) 1 0).filter fun b => b.2 != 0 }
          else t.loadRecord e.1 (leWords (s.getPhys gpa 4096))
        | none => t) s3
      let s5 := s4.setCtx ctx { k.shiftSkeins (s.cycle - k.outSince) with
        state := if k.launch.isSome then .running else .idle, spoolRead := k.spoolWrite, saved := [], savedUnits := [], savedClusters := [] }
      let s7 := (s5.unspoolCtx ctx).applyFaults ctx (k.savedUnits.map (·.1))
      let s8 := k.queues.foldl (fun (t : State) e => t.serveQueue ctx e.1 65536) s7
      s8.resumeCtx ctx)

/-! ## The debugger (R323) -/

/-- The cores DCORES selects in a partition. -/
def State.selected (s : State) (ctx : Nat) : List Nat := (s.coresOf ctx).filter (s.ctx ctx).dcores.getLsbD

/-- DHALT (R323), written through function `part`, whose earlier posted writes come first (R311): the selected cores stop as at a gang stop; clearing the bit resumes them. -/
def execDhalt (s : State) : Outcome State Fault Refusal :=
  .next (
    let ctx := s.inp.ctx
    let k := s.ctx ctx
    if k.dhalt = s.inp.flag ∨ (s.inp.part ≠ 0 ∧ s.hostPending ctx) then s else (s.setCtx ctx { k with dhalt := s.inp.flag }).applyDhalt ctx)

/-- PSTOP (R323): the selected cores take up no activation, record or spill entry while it is set. -/
def execPstop (s : State) : Outcome State Fault Refusal :=
  .next (if s.inp.part ≠ 0 ∧ s.hostPending s.inp.ctx then s else s.setCtx s.inp.ctx { s.ctx s.inp.ctx with pstop := s.inp.flag })

/-- HALTED (R313, R323): every selected core has stopped. -/
def State.isHalted (s : State) (ctx : Nat) : Bool :=
  let k := s.ctx ctx
  let cores := s.selected ctx
  (k.dhalt && s.quietCores cores)
    || (k.pstop && cores.all fun c => (List.range 8).all fun j =>
        let u := s.unit (unitKey c j)
        decide (u.st = .idle) || decide (u.st = .stopped))

end Sys2Proof.Machine
end

