-- ==== Sys2Proof/Machine/Control.lean ====
section
/-! DEFINITION. Branches and jumps (R110 to R112) and the deliberate stops TRAP, SVC, BKPT (R114). -/

namespace Sys2Proof.Machine

open Sys2Proof Host

/-- A branch: PC + 2 × offset where taken, else past the instruction's `len` bytes (R110). -/
def State.branch (s : State) (taken : Bool) (off : Word) (len : Nat) : State :=
  if taken then s.retireTo s.me (s.me.pc + off + off) else s.retire s.me len

/-- A conditional branch on x[ra] and x[rb]. -/
def State.branchIf (s : State) (a b : Fin 32) (o : BitVec 12) (c : Word → Word → Bool) : State :=
  s.branch (c (s.me.readX a) (s.me.readX b)) (o.signExtend 64) 4

/-- BC.EQ (R110). -/
def execBcEq (a b : Fin 32) (o : BitVec 12) (s : State) : Outcome State Fault Refusal :=
  .next (s.branchIf a b o (fun x y => x == y))

/-- BC.NE (R110). -/
def execBcNe (a b : Fin 32) (o : BitVec 12) (s : State) : Outcome State Fault Refusal :=
  .next (s.branchIf a b o (fun x y => x != y))

/-- BC.LT (R110): signed. -/
def execBcLt (a b : Fin 32) (o : BitVec 12) (s : State) : Outcome State Fault Refusal :=
  .next (s.branchIf a b o (fun x y => x.slt y))

/-- BC.GE (R110): signed. -/
def execBcGe (a b : Fin 32) (o : BitVec 12) (s : State) : Outcome State Fault Refusal :=
  .next (s.branchIf a b o (fun x y => !x.slt y))

/-- BC.LTU (R110): unsigned. -/
def execBcLtu (a b : Fin 32) (o : BitVec 12) (s : State) : Outcome State Fault Refusal :=
  .next (s.branchIf a b o (fun x y => x.ult y))

/-- BC.GEU (R110): unsigned. -/
def execBcGeu (a b : Fin 32) (o : BitVec 12) (s : State) : Outcome State Fault Refusal :=
  .next (s.branchIf a b o (fun x y => !x.ult y))

/-- JL (R110): x[rd] := PC + 4; PC := PC + 2 × offset. -/
def execJl (d : Fin 32) (o : BitVec 20) (s : State) : Outcome State Fault Refusal :=
  .next (s.retireTo (s.me.setX d (s.me.pc + 4)) (s.me.pc + o.signExtend 64 + o.signExtend 64))

/-- JLR (R110): an odd target raises ALIGN with ADDR = target; else the link is written and PC is the target. -/
def execJlr (d a : Fin 32) (im : BitVec 15) (s : State) : Outcome State Fault Refusal :=
  let t := s.me.readX a + imm15 im
  finish s (if t.getLsbD 0 then raise .align t else .ok (s.retireTo (s.me.setX d (s.me.pc + 4)) t))

/-- LOOP (R111): x[ra] falls by one; taken while it is not zero. -/
def execLoop (a : Fin 32) (o : BitVec 12) (s : State) : Outcome State Fault Refusal :=
  let n := s.me.readX a - 1
  let u := s.me.setX a n
  .next (if n = 0 then s.retire u 4 else s.retireTo u (s.me.pc + o.signExtend 64 + o.signExtend 64))

/-- The bits of a mask at and below VL − 1 (R112). -/
def Strand.testedBits (u : Strand) (m : Fin 8) : List Bool := (List.range u.vl.toNat).map (u.readM m).getLsbD

/-- BM.ANY (R112): some tested bit is 1. -/
def execBmAny (m : Fin 8) (o : BitVec 12) (s : State) : Outcome State Fault Refusal :=
  .next (s.branch ((s.me.testedBits m).any id) (o.signExtend 64) 4)

/-- BM.ALL (R112): every tested bit is 1. -/
def execBmAll (m : Fin 8) (o : BitVec 12) (s : State) : Outcome State Fault Refusal :=
  .next (s.branch ((s.me.testedBits m).all id) (o.signExtend 64) 4)

/-- BM.NONE (R112): no tested bit is 1. -/
def execBmNone (m : Fin 8) (o : BitVec 12) (s : State) : Outcome State Fault Refusal :=
  .next (s.branch (!(s.me.testedBits m).any id) (o.signExtend 64) 4)

/-- TRAP (R114): an event with AUX the code and ADDR x[ra]. -/
def execTrap (a : Fin 32) (k : BitVec 10) (s : State) : Outcome State Fault Refusal :=
  .next (s.takeEvent .trap (s.me.readX a) 0 k)

/-- SVC (R114): an event with AUX the code and ADDR x[ra]; the reply may write x[rd] (R91). -/
def execSvc (_d a : Fin 32) (k : BitVec 10) (s : State) : Outcome State Fault Refusal :=
  .next (s.takeEvent .svc (s.me.readX a) 0 k)

/-- BKPT (R114): an event with AUX and ADDR zero. -/
def execBkpt (s : State) : Outcome State Fault Refusal :=
  .next (s.takeEvent .bkpt 0 0 0)

end Sys2Proof.Machine
end

