-- ==== Sys2Proof/Machine/Link.lean ====
section
/-! DEFINITION. Links (R289 to R292, R305, R306, R309): flits sent and received, acknowledgements and replays, training, keys. -/

namespace Sys2Proof.Machine

open Sys2Proof Host

/-! ## Times that a reconfiguration window does not count (R309) -/

/-- The pauses so far: every reconfiguration window, each for at most 50 ms. -/
def State.pauses (s : State) : List (Nat × Nat) :=
  s.plat.windows ++ (match s.plat.winOpen with
    | some b => [(b, min s.gtime (b + 50000000))]
    | none => [])

/-- Nanoseconds since a time, without those of reconfiguration windows. -/
def State.elapsed (s : State) (t : Nat) : Nat := (s.gtime - t) - (s.pauses.map fun w => w.2 - max t w.1).sum

/-! ## Ports (R289) -/

/-- The gateway core that serves a port: its group is port / 4, on die group / 4, gateway core group mod 4. -/
def gatewayUnit (port : Nat) : Nat := port / 16 * 1024 + 512 + 8 + port / 4 % 4

/-- A sequenced packet is past the age limit (R298). TS has 32 bits: one that lies up to half their range ahead of this cube's GTIME is not old. -/
def State.tooOld (s : State) (p : Packet) : Bool :=
  let age := (s.gtime + 2 ^ 32 - p.ts.toNat) % 2 ^ 32
  sequenced p.ocls && decide (age < 2 ^ 31) && decide (500000 < s.elapsed (s.gtime - age))

/-! ## Keys (R305, R306, R321) -/

/-- A link's key: transmit or receive, by epoch. -/
def Link.key (l : Link) (rx epoch : Bool) : Option (BitVec 256) := Tab.read none l.keys ((if rx then 2 else 0) + epoch.toNat)
def Link.setKey (l : Link) (rx epoch : Bool) (k : Option (BitVec 256)) : Link := { l with keys := Tab.write none l.keys ((if rx then 2 else 0) + epoch.toNat) k }
/-- KEYED (R290): both keys of the epoch in use are installed (R318). -/
def Link.keyed (l : Link) : Bool := (l.key false l.epoch).isSome && (l.key true l.epoch).isSome

/-- The IV of a packet on a link: link id, packet counter. -/
def linkIv (link : Nat) (counter : Word) : Nat := link * 2 ^ 64 + counter.toNat
/-- What is authenticated beside the cipher text: header and link id. -/
def linkAad (link : Nat) (header : List Byte) : List Byte := header ++ leBytes 4 link

/-! ## Sending -/

def flit32 (bs : List Byte) : BitVec 256 := BitVec.ofNat 256 (leVal bs)

/-- 32-byte pieces. -/
def flitsOf : Nat → List Byte → List (BitVec 256)
  | 0, _ => []
  | n + 1, bs => flit32 (bs.take 32) :: flitsOf n (bs.drop 32)

/-- The flits of a packet on a link (R293, R305), and the link's packet counter after it. -/
def Link.dataOf (l : Link) (link : Nat) (p : Packet) : List (BitVec 256) × Word :=
  let bs := p.bytes
  if p.conf then match l.key false l.epoch with
    | some k =>
      let (c, tag) := Config.gcmSeal k (linkIv link l.counterTx) (linkAad link (bs.take 16)) (bs.drop 16)
      (flitsOf (1 + p.plen) (bs.take 16 ++ c) ++ [tag.setWidth 256], l.counterTx + 1)
    | none => (flitsOf (1 + p.plen) bs, l.counterTx)
  else (flitsOf (1 + p.plen) bs, l.counterTx)

/-- Put flits into the replay buffer, numbered on, in a virtual channel (R291, R296). -/
def Link.push (l : Link) (vc head : Bool) : List (BitVec 256) → Link
  | [] => l
  | d :: t =>
    let f : Flit := ⟨l.txLsn, l.epoch, head, 0, d, vc⟩
    Link.push { l with buffer := l.buffer ++ [{ f with crc := f.crcOf }], txLsn := l.txLsn + 1 } vc false t

/-- A packet can leave on the link now: UP, not held, room in the replay buffer (R291, R309). -/
def Link.open (l : Link) (p : Packet) : Bool :=
  decide (l.state = .up) && !l.hold && decide (l.buffer.length + 1 + p.plen + (if p.conf then 1 else 0) ≤ 2048)

/-- Send a packet on a link. -/
def State.sendOn (s : State) (link : Nat) (p : Packet) : State :=
  let l := s.link link
  let (ds, ctr) := l.dataOf link p
  s.setLink link ({ l with counterTx := ctr, lastAck := if l.buffer = [] then s.gtime else l.lastAck }.push p.vc true ds)

/-! ## Receiving (R292) -/

/-- A link-layer note to management (R292, R305), from the gateway core that serves the link's first port. -/
def State.noteLink (s : State) (link : Nat) : State :=
  { s with mgmt := s.mgmt ++ [{ s.packet .management (gatewayUnit link) 0 s.cubeNum dieManagement 0 7 0 [] 0 with aux := BitVec.ofNat 16 link }] }

/-- What a packet's first flit says: payload flits, CONF. -/
def headPlen (d : BitVec 256) : Nat := bits d.toNat 54 47
def headConf (d : BitVec 256) : Bool := d.toNat.testBit 24

/-- Flits that a packet takes on a link. -/
def headFlits (d : BitVec 256) : Nat := 1 + headPlen d + (if headConf d then 1 else 0)

/-- The packet of a list of whole flits; none where it is discarded (R293); false where its tag fails (R305). -/
def Link.assemble (l : Link) (link : Nat) (epoch : Bool) (ds : List (BitVec 256)) : Option (Option Packet) :=
  let first := ds.headD 0
  let bs := ds.flatMap fun d => leBytes 32 d.toNat
  let n := headPlen first
  let make (body : List Byte) : Option Packet :=
    if 128 < n then none else packetOf (first.toNat % 2 ^ 128) (leVal (body.take 16)) (leWords (body.drop 16))
  if headConf first then match l.key true epoch with
    | none => none
    | some k => (Config.gcmOpen k (linkIv link l.counterRx) (linkAad link (bs.take 16)) ((bs.drop 16).take (16 + 32 * n)) ((ds.getLastD 0).setWidth 128)).map make
  else some (make (bs.drop 16))

/-- A flit is discarded: a NAK with the LSN expected, once (R292). -/
def Link.reject (l : Link) : Link := if l.nakked then l else { l with nakked := true, sideband := l.sideband ++ [(true, l.rxLsn)] }

/-- The cumulative acknowledgement of every flit accepted (R291). -/
def Link.ack (l : Link) (now : Nat) : Link := { l with sideband := l.sideband ++ [(false, l.rxLsn - 1)], unacked := 0, rxSince := now }

/-- A flit is accepted (R291, R292). -/
def Link.accept (l : Link) (now : Nat) : Link :=
  let m := { l with rxLsn := l.rxLsn + 1, nakked := false, unacked := l.unacked + 1, rxSince := if l.unacked = 0 then now else l.rxSince }
  if 64 ≤ m.unacked then m.ack now else m

/-- Relock and retrain (R292, R305). -/
def Link.toRetrain (l : Link) (now : Nat) : Link := { l with state := .retrain, retrainSince := now, failed := 0, tagFails := 0 }

/-- FLIT_RECEIVE (R292, R305): the last flit of a packet hands the packet to the router. -/
def execFlitReceive (s : State) : Outcome State Fault Refusal :=
  .next (
    let n := s.inp.part
    let l := s.link n
    let f := s.inp.flit
    if l.state ≠ .up ∧ l.state ≠ .replay then s
    else if f.crc ≠ f.crcOf ∨ f.lsn ≠ l.rxLsn then s.setLink n l.reject
    else
      let ds := l.rxFlits ++ [f.data]
      let m := l.accept s.gtime
      if ds.length < headFlits (ds.headD 0) then s.setLink n { m with rxFlits := ds }
      else match l.assemble n f.epoch ds with
        | none =>
          let t := l.reject
          if t.tagFails = 3 then (s.setLink n (t.toRetrain s.gtime)).noteLink n else s.setLink n { t with tagFails := t.tagFails + 1 }
        | some got =>
          let s1 := s.setLink n { m with rxFlits := [], tagFails := 0, counterRx := if headConf (ds.headD 0) then l.counterRx + 1 else l.counterRx }
          match got with
          | none => s1.countCube .routerDiscard
          | some p => { s1 with net := s1.net ++ [{ p with vc := f.vc, req := if p.kind = .drain then n + 1 else 0 }] })

/-! ## Acknowledgements and replays (R291, R292) -/

/-- The flits of the replay buffer from the one with an LSN on; none where no flit has it. -/
def fromLsn (lsn : BitVec 12) : List Flit → Option (List Flit)
  | [] => none
  | f :: t => if f.lsn = lsn then some (f :: t) else fromLsn lsn t

/-- A link that has resent everything is UP again; the resending lasts until time passes (DESIGN CHOICE, log entry 24). -/
def Link.settle (l : Link) : Link := if l.state = .replay then { l with state := .up } else l

/-- A replay begins; 16 in a row without progress retrain the link (R292). -/
def Link.replay (l : Link) (now : Nat) : Link :=
  let m := { l with state := .replay, replays := min 65535 (l.replays + 1), stuck := l.stuck + 1, lastAck := now }
  if 16 ≤ m.stuck then m.toRetrain now else m

/-- NAK_RECEIVE (R292): every flit before the one named has arrived; the rest is resent, which may be none. -/
def execNakReceive (s : State) : Outcome State Fault Refusal :=
  .next (
    let n := s.inp.part
    let l := s.link n
    if l.state ≠ .up ∧ l.state ≠ .replay then s
    else
      let lsn := BitVec.ofNat 12 s.inp.index
      match (if lsn = l.txLsn then some [] else fromLsn lsn l.buffer) with
      | some rest =>
        let progress := decide (rest.length < l.buffer.length)
        s.setLink n ({ l with buffer := rest, stuck := if progress then 0 else l.stuck }.replay s.gtime)
      | none => s)

/-- LINK_ACK_RECEIVE (R291): a cumulative acknowledgement. -/
def execLinkAckReceive (s : State) : Outcome State Fault Refusal :=
  .next (
    let n := s.inp.part
    let l := s.link n
    match fromLsn (BitVec.ofNat 12 s.inp.index) l.buffer with
    | some rest => s.setLink n { l with buffer := rest.drop 1, stuck := 0, lastAck := s.gtime }
    | none => s)

/-- LINK_ACK_INTERVAL (R291): 200 ns since the last acknowledgement while flits arrive. -/
def execLinkAckInterval (s : State) : Outcome State Fault Refusal :=
  .next (
    let n := s.inp.part
    let l := s.link n
    if l.unacked ≠ 0 ∧ l.rxSince + 200 ≤ s.gtime then s.setLink n (l.ack s.gtime) else s)

/-- REPLAY_TIMEOUT (R292): 2 µs without an acknowledgement while flits wait for one. -/
def execReplayTimeout (s : State) : Outcome State Fault Refusal :=
  .next (
    let n := s.inp.part
    let l := s.link n
    if (l.state = .up ∨ l.state = .replay) ∧ l.buffer ≠ [] ∧ l.lastAck + 2000 ≤ s.gtime then s.setLink n (l.replay s.gtime) else s)

/-! ## Training (R292) -/

/-- The receiver of a link holds the keys of both epochs: a rotation is under way (R306). -/
def Link.rxRotating (l : Link) : Bool := (l.key true false).isSome && (l.key true true).isSome

/-- A link goes DOWN: the replay buffer is discarded, and the keys where a rotation is under way at either end of it (R292, R306). -/
def Link.down (l : Link) : Link :=
  { l with state := .down, ports := 0, buffer := [], stuck := 0, failed := 0, rxFlits := [], nakked := false, unacked := 0, sideband := []
           keys := if l.rotating || l.rxRotating then [] else l.keys, rotating := false }

/-- RETRAIN_TIMEOUT (R292): a training that failed, where the flag says so; the third failure, or 1 ms, takes the link DOWN. -/
def execRetrainTimeout (s : State) : Outcome State Fault Refusal :=
  .next (
    let n := s.inp.part
    let l := s.link n
    if l.state ≠ .retrain then s
    else
      let failed := l.failed + s.inp.flag.toNat
      if 3 ≤ failed ∨ l.retrainSince + 1000000 ≤ s.gtime then (s.setLink n l.down).noteLink n else s.setLink n { l with failed := failed })

/-- TRAINING_COMPLETE (R289, R292): the ports that work, at least one; from RETRAIN the link replays from the oldest flit. -/
def execTrainingComplete (s : State) : Outcome State Fault Refusal :=
  .next (
    let n := s.inp.part
    let l := s.link n
    if s.inp.amount = 0 ∨ l.size < s.inp.amount then s
    else match l.state with
      | .train => s.setLink n { l with state := .up, ports := s.inp.amount, nbr := BitVec.ofNat 20 s.inp.index, lastAck := s.gtime }
      | .retrain => s.setLink n { l with state := .replay, ports := s.inp.amount, stuck := 0, failed := 0, lastAck := s.gtime }
      | _ => s)

/-- A size a link may have, from its first port (R289). -/
def bundleOk (link size : Nat) : Bool := [1, 2, 4, 8, 16].contains size && decide (link % size = 0) && decide (link + size ≤ 64)

/-- A link that trains anew: LSN 0 at both ends. -/
def Link.restart (l : Link) (size : Nat) : Link :=
  { l with state := .train, size := size, txLsn := 0, rxLsn := 0, nakked := false, unacked := 0, rxFlits := [], buffer := [], stuck := 0, tagFails := 0
           counterTx := 0, counterRx := 0, markerSent := false, drained := false }

/-- A port of a range belongs to another link that is not DOWN (R289). -/
def State.portsTaken (s : State) (link size : Nat) : Bool :=
  s.links.any fun e => decide (e.1 ≠ link) && decide (e.2.state ≠ .down) && decide (e.1 < link + size) && decide (link < e.1 + e.2.size)

/-- LINK_RESTART (R292): management restarts a DOWN link, with the bundle it says (R289), whose ports are no other link's. -/
def execLinkRestart (s : State) : Outcome State Fault Refusal :=
  .next (
    let n := s.inp.part
    let l := s.link n
    let size := if bundleOk n s.inp.amount then s.inp.amount else l.size
    if l.state = .down ∧ n < 64 ∧ !s.portsTaken n size then s.setLink n (l.restart size) else s)

/-! ## Keys (R306, R318) -/

/-- KEY_INSTALL (R306, R318, R321): `flag` the direction (true: receive), `flag2` the epoch. A transmit key beside the one in use begins a
rotation, at the next packet boundary, where none is under way; a receiver that holds both epochs' keys takes no further one until the
rotation has completed. -/
def execKeyInstall (s : State) : Outcome State Fault Refusal :=
  .next (
    let n := s.inp.part
    let l := s.link n
    let e := s.inp.flag2
    let k : BitVec 256 := s.inp.wide.setWidth 256
    if s.inp.flag then (if l.rxRotating then s else s.setLink n (l.setKey true e (some k)))
    else if e = l.epoch ∨ (l.key false l.epoch).isNone then
      s.setLink n { l.setKey false e (some k) with epoch := e }
    else if l.rotating then s
    else s.setLink n { l.setKey false e (some k) with epoch := e, rotating := true })

/-- KEY_ROTATION_COMPLETE (R306): the sender's buffer holds no flit of the old epoch; or, with the flag, the neighbour has reported so, and the
receive key of the other epoch than `flag2` goes. -/
def execKeyRotationComplete (s : State) : Outcome State Fault Refusal :=
  .next (
    let n := s.inp.part
    let l := s.link n
    if s.inp.flag then s.setLink n (if (l.key true s.inp.flag2).isSome then l.setKey true (!s.inp.flag2) none else l)
    else if l.rotating ∧ l.buffer.all (fun f => f.epoch == l.epoch) then s.setLink n { l.setKey false (!l.epoch) none with rotating := false }
    else s)

/-! ## Reconfiguration (R309) -/

/-- RECONFIGURATION_WINDOW (R309), by step: 1 the window begins, 2 a sender's marker and HOLD, 4 a link is DARK, 5 it relocks and trains,
6 HOLD is cleared and the window ends. -/
def execReconfigurationWindow (s : State) : Outcome State Fault Refusal :=
  .next (
    let n := s.inp.part
    let l := s.link n
    let open_ := s.plat.winOpen.isSome
    match s.inp.amount with
    | 1 => if open_ then s else { s with plat := { s.plat with winOpen := some s.gtime } }
    | 2 =>
      let p := { s.packet .drain (gatewayUnit n) 0 l.nbr.toNat (gatewayUnit n) 0 6 0 [] 0 with aux := BitVec.ofNat 16 s.inp.index }
      if open_ ∧ l.open p then
        let s1 := s.sendOn n p
        s1.setLink n { s1.link n with hold := true, markerSent := true }
      else s
    | 4 => if open_ ∧ l.hold ∧ l.buffer = [] then s.setLink n { l with state := .dark, ports := 0, keys := [], rotating := false } else s
    | 5 => if open_ ∧ l.state = .dark then s.setLink n (l.restart l.size) else s
    | 6 =>
      if open_ then
        { s with links := Tab.remap (fun _ => {}) (fun k => { k with hold := false }) s.links
                 plat := { s.plat with winOpen := none, windows := s.pauses } }
      else s
    | _ => s)

/-- DRAIN_MARKER (R309): a marker that has come on this link: every flit before it is delivered and is acknowledged. -/
def execDrainMarker (s : State) : Outcome State Fault Refusal :=
  .next (
    let n := s.inp.part
    let l := s.link n
    match takePacket (fun p => decide (p.kind = .drain) && decide (p.req = n + 1)) s.net with
    | some (_, rest) => { s with net := rest }.setLink n { l.ack s.gtime with drained := true }
    | none => s)

end Sys2Proof.Machine
end

