-- ==== Sys2Proof/Machine/EndToEnd.lean ====
section
/-! DEFINITION. Packets between cubes (R296 to R299, R307, R308): routing, the destination's window, retries, UNREACH and RESYNC, a removed
cube, a re-striping. -/

namespace Sys2Proof.Machine

open Sys2Proof Host

/-! ## Routing (R297) -/

/-- The route entry of a destination: the group table stands at 0, the local table at 1,024. -/
def State.route (s : State) (dcube : Nat) : BitVec 128 :=
  Tab.read 0 s.routes (if bits dcube 19 10 = bits s.cubeNum 19 10 then 1024 + bits dcube 9 0 else bits dcube 19 10)

def routeValid (e : BitVec 128) : Bool := e.getLsbD 7 && decide (bits e.toNat 63 8 = 0)
def routeFixed (e : BitVec 128) : Nat := bits e.toNat 5 0

/-- The links that may carry an adaptive packet now. -/
def State.adaptive (s : State) (e : BitVec 128) (p : Packet) : List Nat :=
  (List.range 64).filter fun l => e.getLsbD (64 + l) && (s.link l).open p && (!p.conf || (s.link l).keyed)

/-- The link with the most free credits, ties to the one named first, which is the lower (R297). -/
def mostCredits (credits : Nat → Nat) : List Nat → Nat → Nat
  | [], best => best
  | l :: t, best => mostCredits credits t (if credits best < credits l then l else best)

/-- Adaptive classes (R296). -/
def isAdaptive (ocls : Nat) : Bool := ocls = 1 || ocls = 2 || ocls = 5

/-- ROUTER_FORWARD (R293, R297, R298, R305, R307): a packet for another cube leaves on a link, waits, or is discarded and counted. DATE moves a
packet that leaves on FIXED to virtual channel 1. -/
def execRouterForward (s : State) : Outcome State Fault Refusal :=
  .next (match s.net[s.inp.index]? with
    | none => s
    | some p =>
      if p.dcube = s.cubeNum then s
      else
        let gone := { s with net := s.net.eraseIdx s.inp.index }
        let drop := gone.countCube .routerDiscard
        let e := s.route p.dcube
        if s.isRemoved p.dcube || decide (128 < p.plen) || s.tooOld p || !routeValid e then drop
        else if isAdaptive p.ocls then
          let ls := s.adaptive e p
          if ls = [] then s else ({ gone with fresh := gone.fresh + 1 } : State).sendOn (mostCredits (Config.freeCredits s.fresh p.ocls) ls (ls.headD 0)) p
        else
          let n := routeFixed e
          let l := s.link n
          if l.state = .down ∨ (p.conf ∧ !l.keyed) then drop else if l.open p then gone.sendOn n { p with vc := p.vc || e.getLsbD 6 } else s)

/-! ## At the source: what an answer acknowledges (R298) -/

/-- A source key's state under its number. -/
def State.setSrc (s : State) (key : Nat) (k : SrcKey) : State := { s with srcKeys := Tab.write none s.srcKeys key (some k) }

/-- The unacknowledged packet of a key with a sequence number, and the key without it. -/
def SrcKey.take (k : SrcKey) (seq : Nat) : Option (Packet × SrcKey) :=
  (k.unacked.find? fun u => decide (u.pkt.seq = seq)).map fun u => (u.pkt, { k with unacked := k.unacked.filter fun v => !decide (v.pkt.seq = seq) })

/-- The request that an answer acknowledges, and its key: a response's first word names it; an acknowledgement carries only the number, and
the class is the first in which the unit that answers was sent that number (DESIGN CHOICE, log entry 18). -/
def State.requestOf (s : State) (p : Packet) : Option (Nat × Packet) :=
  let w := (wordAt p.payload 0).toNat
  let (cube, seq, classes) := if p.kind = .response then (bits w 51 32, bits w 15 0, [bits w 18 16]) else (p.scube, p.seq, [0, 2, 4, 5])
  classes.findSome? fun c =>
    let key := (p.dunit * 2 ^ 20 + cube) * 8 + c
    ((Tab.read none s.srcKeys key).bind fun k => (k.unacked.find? fun u =>
      decide (u.pkt.seq = seq) && (decide (p.kind = .response) || decide (u.pkt.dunit = p.sunit))).map fun u => (key, u.pkt))

/-- A request is acknowledged. -/
def State.settled (s : State) (key seq : Nat) : State := match Tab.read none s.srcKeys key with
  | some k => s.setSrc key { k with unacked := k.unacked.filter fun v => !decide (v.pkt.seq = seq) }
  | none => s

/-- An answer as the source's units take it: with the work, class and number of its request, and without the word that names it. -/
def Packet.answering (p q : Packet) : Packet :=
  { p with
    wid := q.wid, hcls := q.hcls, ord := q.ord, ctx := q.ctx, awaited := q.awaited, major := q.major
    payload := if p.kind = .response then p.payload.drop 1 else p.payload
    req := if p.kind = .ack then q.req else if q.req ≠ 0 then q.req else q.ord }

/-- The acknowledgement of a RESYNC names the number that the RESYNC named. -/
def State.resynced (s : State) (p : Packet) : State :=
  [0, 2, 4, 5].foldl (fun (t : State) c =>
    let key := (p.dunit * 2 ^ 20 + p.scube) * 8 + c
    match Tab.read none t.srcKeys key with
    | some k => if k.resync.isSome && decide (k.next.toNat = p.seq) then t.setSrc key { k with resync := none } else t
    | none => t) s

/-- GEN older than the context's (R299). -/
def State.stale (s : State) (p : Packet) : Bool :=
  let g := (s.ctx p.ctx).gen
  decide (g ≠ p.gen) && decide ((g - p.gen).toNat < 128)

/-- The record of the request that a word describes, at this cube's window (R308). -/
def State.recordOrigin (s : State) (w : Word) (q : Packet) : State :=
  let key := (bits w.toNat 51 32 * 2 ^ 12 + bits w.toNat 31 20) * 8 + bits w.toNat 18 16
  match Tab.read none s.dstKeys key with
  | some k => { s with dstKeys := Tab.write none s.dstKeys key (some (k.mark (BitVec.ofNat 16 (bits w.toNat 15 0)) (some q))) }
  | none => s

/-- The address that a packet accesses, where it is an access to memory. -/
def Packet.target (p : Packet) : Option Nat :=
  let w := (wordAt p.payload 0).toNat
  if p.kind = .builtin ∧ p.hcls ≤ 2 then some w
  else if p.kind = .engineData ∧ w < resultAddr then some (w / 64 * 64)
  else none

/-- A cluster of the context's partition, or of the one it has given up for as long as it is switched out (R267). -/
def State.holdsCluster (s : State) (ctx c : Nat) : Bool :=
  if s.isOut ctx then (s.ctx ctx).savedClusters.any fun e => decide (e.1 = c) else decide ((s.cluster c).ctx = some ctx)

/-- A unit number that R295 lists. -/
def unitListed (u : Nat) : Bool :=
  let slot := u % 64
  let d := u % 512
  if u / 512 % 2 = 0 then decide (slot ≤ 8) || (decide (16 ≤ slot) && decide (slot ≤ 34)) || (decide (40 ≤ slot) && decide (slot ≤ 47))
  else decide (d ≤ 4) || (decide (8 ≤ d) && decide (d ≤ 11)) || (decide (d = 12) && decide (u / 1024 % 4 = 0)) || (decide (64 ≤ d) && decide (d ≤ 127))

/-- A unit number that R295 lists; a cluster's units must lie in the context's partition, but an access that its cube checks itself (R245) needs only
that the context has a partition there. -/
def State.listed (s : State) (p : Packet) : Bool :=
  let u := p.dunit
  unitListed u && (decide (u / 512 % 2 = 1) || s.holdsCluster p.ctx (u / 1024 % 4 * 8 + u / 64 % 8)
    || (p.target.isSome && (List.range 32).any (s.holdsCluster p.ctx)))

/-- A spawn is refused here, and its core holds as many refused spawns as it can (R22): the answer waits. -/
def State.spawnFull (s : State) (p q : Packet) : Bool :=
  decide (p.kind = .response) && decide (q.hcls = 3) && decide (p.aux.toNat % 256 = 3) && (match coreOfUnit q.sunit with
    | some c => !(s.core c).holdsSpawn q
    | none => false)

/-- An answer arrives at its source; one to a request of an older generation is dropped and counted (R315), and so is one for a unit that is not
there or not the context's (R295); none where it must wait. -/
def State.takeAnswer (s : State) (p : Packet) : Option State :=
  if p.kind = .response ∧ p.reply ≠ 0 then
    some (if s.stale p then s.count p.ctx .staleGeneration else { s with inner := s.inner ++ [{ p with ord := s.fresh }], fresh := s.fresh + 1 })
  else match s.requestOf p with
    | none => some (if !unitListed p.dunit then s.count p.ctx .discardedMessage else if p.kind = .ack then s.resynced p else s)
    | some (key, q) =>
      let s1 := s.settled key q.seq
      if s.stale q || s.stale p then some (s1.count p.ctx .staleGeneration)
      else if !s.listed p then some (s.count p.ctx .discardedMessage)
      else match q.origin with
        | some w => some (s1.recordOrigin w q)
        | none =>
          if s.spawnFull p q then none
          else if q.hcls = 3 ∧ q.kind = .builtin ∧ p.kind = .response ∧ p.aux.toNat % 256 = 3 then some (s1.holdSpawn q)
          else some { s1.dropSpawn q with inner := s1.inner ++ [p.answering q] }

/-! ## At the destination: the window of a key (R299) -/

def newKey (seq : BitVec 16) : DstKey := ⟨seq, [], [], [], 0⟩

/-- A number has been handed on or performed. -/
def DstKey.seen (k : DstKey) (seq : BitVec 16) : Bool := k.taken.contains seq || k.performed.any fun e => e.1 == seq

/-- The next number not yet received, past those that are seen. -/
def DstKey.advance (k : DstKey) : Nat → DstKey
  | 0 => k
  | f + 1 => if k.seen k.next then DstKey.advance { k with next := k.next + 1 } f else k

/-- What a window does with an arrival. -/
inductive Verdict where
  /-- handed on. -/
  | take
  /-- held, or discarded, or lost with a note. -/
  | hold | drop | lost
  /-- performed before: its answer again. -/
  | again (resp : Option Packet)
  deriving DecidableEq, Repr

/-- How far a number lies ahead of another, modulo 2^16. -/
def ahead (seq next : BitVec 16) : Nat := (seq - next).toNat

/-- What becomes of an arrival (R299). A class-0 packet is held first: those that are next are then performed in order. -/
def DstKey.judge (k : DstKey) (p : Packet) : Verdict :=
  let seq := BitVec.ofNat 16 p.seq
  match k.performed.find? fun e => e.1 == seq with
  | some e => .again e.2
  | none =>
    let d := ahead seq k.next
    if k.taken.contains seq || k.held.any (fun q => decide (q.seq = p.seq)) then .drop
    else if d < 2 ^ 15 then
      if 1024 < d then .lost else if p.ocls = 0 then .hold else .take
    else if p.ocls ≠ 0 ∧ 2 ^ 16 - d ≤ 1024 ∧ k.performed.length + k.taken.length < 1024 then .take
    else .drop

/-- The held packet that a class-0 window performs next: the earliest, unless a number before it is missing. -/
def DstKey.due (k : DstKey) : Option Packet :=
  let place (q : Packet) : Nat := ahead (BitVec.ofNat 16 q.seq) (k.next - 2 ^ 15)
  (k.held.filter fun q => decide (place q ≤ 2 ^ 15)).foldl (fun (b : Option Packet) q => match b with
    | some x => if place q < place x then some q else b
    | none => some q) none

/-- The window once a held packet is handed on. -/
def DstKey.handOn (k : DstKey) (p : Packet) : DstKey :=
  let seq := BitVec.ofNat 16 p.seq
  { k with held := k.held.filter (fun q => !decide (q.seq = p.seq)), taken := k.taken ++ [seq], next := if seq = k.next then k.next + 1 else k.next }

/-! ## Performing what has come -/

/-- Engine data for this cube's memory (R207, R294): the marked bytes of a line, under the packet's tag, read or written, with this cube's own
checks (R234, R235, R245); none where a write must wait for a pool line. A tag that is not live is refused (R207: status 3). -/
def State.engineAccess (s : State) (p : Packet) : Option State :=
  let w := (wordAt p.payload 0).toNat
  let mask := (wordAt p.payload 1).toNat
  match (s.present p.ctx).farCheck p.ctx (w / 64 * 64) (wordAt p.payload 2).toNat (!w.testBit 0) with
  | .error c => some (s.performed p (some (s.eventResponse p c)))
  | .ok key =>
    let l := s.engineLoc (s.redirect p.ctx (key / 64 * 64)) p.ply
    if !s.tagLive p.ctx p.ply then some (s.performed p (some (s.responseTo p 5 [])))
    else if w.testBit 0 then
      if s.uncorrectable l.key then some (s.performed p (some (s.eventResponse p .eccu)))
      else
        let s1 := (s.stampLoad s.floor (s.stampKey p.ctx l p.ply)).2
        some (s1.performed p (some (s1.responseTo p 0 (wordsOf (maskedBytes mask (s.view p.ctx l 64 p.ply))))))
    else
      (((List.range 64).filter mask.testBit).zip (bytesOfWords (p.payload.drop 3))).foldl
        (fun (t : Option State) e => t.bind fun x => x.put p.ctx { l with key := l.key + e.1 } [e.2] p.ply) (some s)
      |>.map fun t => ((t.stampWrite (s.makesCell p.ctx l p.ply) t.floor p.ctx l p.ply).2).performed p none

/-- Where an access of another cube to a range that is being re-striped goes (R308). -/
inductive Striping where
  | here | wait | forward (cube : Nat)
  deriving DecidableEq, Repr

def State.striping (s : State) (p : Packet) : Striping := match p.target with
  | some gpa => match (if gpa < 2 ^ 59 then s.resolveOld gpa else none), s.resolveDram gpa with
    | some (old, a, stripe), some (new, b) =>
      let copying := match s.amapOf gpa with
        | some a => a.copying.contains stripe
        | none => false
      if new = s.cubeNum then (if (decide (old = s.cubeNum) && decide (a = b)) || !s.unmoved gpa stripe then .here else .wait)
      else if old ≠ s.cubeNum then .here
      else if !s.unmoved gpa stripe then .forward new
      else if copying then .wait
      else .here
    | _, _ => .here
  | none => .here

/-- A request that an old home forwards (R308), in class 0 from the unit that received it: a flit before its payload says who sent it, and marks
it (DESIGN CHOICE, log entry 13). -/
def State.forwarded (s : State) (p : Packet) (cube : Nat) : Packet :=
  let w := wordAt p.payload 0
  { p with
    scube := s.cubeNum, sunit := p.dunit, dcube := cube, ocls := 0, seq := 0, ts := BitVec.ofNat 32 s.gtime, awaited := true, origin := some (originWord p)
    payload := (if p.kind = .engineData then w ||| 2 else w) :: 256 :: originWord p :: 0 :: p.payload, wid := 0, req := 0, vc := false }

/-- A forwarded request as its new home takes it. -/
def Packet.unwrap (p : Packet) : Packet :=
  if (p.kind = .engineData ∧ (wordAt p.payload 0).getLsbD 1) ∨ (p.kind = .builtin ∧ p.hcls ≤ 2 ∧ (wordAt p.payload 1).getLsbD 8) then
    { p with origin := some (wordAt p.payload 2), payload := p.payload.drop 4 }
  else p

/-- A packet handed on by its window; none where it cannot be taken now. -/
def State.deliver (s : State) (p : Packet) : Option State :=
  if s.stale p then some (s.refuseStale p)
  else if !s.listed p then some (s.discardPacket p)
  else match p.kind with
  | .launchStart => some (({ s with mgmt := s.mgmt ++ [p] } : State).performed p none)
  | .engagementAck => some (({ s with mgmt := s.mgmt ++ [p] } : State).performed p none)
  | _ => match s.striping p with
    | .wait => none
    | .here =>
      if p.kind = .engineData ∧ p.target.isSome then (if p.ocls = 0 ∧ s.unperformed p s.fresh then none else s.engineAccess p)
      else some { s with inner := s.inner ++ [{ p with ord := s.fresh }], fresh := s.fresh + 1 }
    | .forward cube =>
      let q := s.forwarded p cube
      some ((s.recordOrigin (originWord p) { q with ord := s.fresh }).post q)

def State.setDst (s : State) (key : Nat) (k : DstKey) : State := { s with dstKeys := Tab.write none s.dstKeys key (some k) }

/-- Packets of a class-0 window that are next are performed in order (R299), as far as they can be taken now. -/
def State.pump (s : State) (key : Nat) : Nat → State
  | 0 => s
  | f + 1 => match Tab.read none s.dstKeys key with
    | none => s
    | some k => match k.due with
      | none => s
      | some p => match (s.setDst key (k.handOn p)).deliver p with
        | some s1 => s1.pump key f
        | none => s

/-- Every class-0 window goes on where it had to wait. -/
def State.retryWindows (s : State) : State :=
  s.dstKeys.foldl (fun (t : State) e => t.pump e.1 (match e.2 with
    | some k => k.held.length
    | none => 0)) s

/-- A packet of class 2, 4 or 5 is performed on arrival; one that cannot be taken now waits at the window again, with the time since when. -/
def State.deliverOne (s : State) (p : Packet) : State := match s.deliver { p with ord := 0, wid := 0 } with
  | some s1 => s1
  | none => { s with net := s.net ++ [{ p with ord := 1, wid := if p.ord = 1 then p.wid else s.cycle }] }

/-- A note that packets of a key are lost (R88), at the destination unit's cluster. -/
def State.noteLost (s : State) (p : Packet) : State :=
  s.note (p.dunit / 1024 % 4 * 8 + p.dunit / 64 % 8) p.ctx p.dunit .e2elost 0

/-- RESYNC naming a number for a key (R299); its payload names the key's class (DESIGN CHOICE, log entry 18). -/
def State.takeResync (s : State) (p : Packet) : State :=
  let key := (p.scube * 2 ^ 12 + p.sunit) * 8 + (wordAt p.payload 0).toNat % 8
  let upTo := BitVec.ofNat 16 p.seq
  if !unitListed p.dunit then s.count p.ctx .discardedMessage
  else match Tab.read none s.dstKeys key with
  | none => (s.setDst key { newKey upTo with last := s.gtime }).post (s.ackPacket p)
  | some k =>
    let gap := ahead upTo k.next
    if 2 ^ 15 ≤ gap then s.post (s.ackPacket p)
    else
      let missing := (List.range gap).any fun i =>
        let seq := k.next + BitVec.ofNat 16 i
        !k.seen seq && !k.held.any fun q => decide (BitVec.ofNat 16 q.seq = seq)
      let s1 := (s.setDst key { k with next := upTo, last := s.gtime }).pump key k.held.length
      (if missing then s1.noteLost p else s1).post (s.ackPacket p)

/-- The answer of a request that was performed before, once more (R299): the recorded response, or the acknowledgement; a forwarded request goes on
its way once more, unless its own number is unacknowledged. -/
def State.answerAgain (s : State) (p : Packet) (r : Option Packet) : State := match r with
  | none => s.post (s.ackPacket p)
  | some r =>
    if r.kind = .response then (if p.origin.isSome then s.post (s.ackPacket p) else s).post r
    else if s.outbox.any (fun q => decide (q.ord = r.ord)) || s.srcKeys.any (fun e => match e.2 with
        | some k => k.unacked.any fun u => decide (u.pkt.ord = r.ord)
        | none => false) then s
    else { s with net := s.net ++ [r] }

/-- A sequenced packet at its window. -/
def State.atWindow (s : State) (p : Packet) : State :=
  let key := dstKeyOf p
  let k := { (Tab.read none s.dstKeys key).getD (newKey (BitVec.ofNat 16 p.seq)) with last := s.gtime }
  if p.kind = .resync then s.takeResync p
  else if p.ord = 1 then s.deliverOne p
  else match k.judge p with
    | .take =>
      let k1 := { k with taken := k.taken ++ [BitVec.ofNat 16 p.seq] }
      (s.setDst key (k1.advance (k1.taken.length + k1.performed.length))).deliverOne p
    | .hold => (s.setDst key { k with held := k.held ++ [p] }).pump key (k.held.length + 1)
    | .drop => if s.stale p then (s.setDst key k).refuseStale p else s.setDst key k
    | .lost => (s.setDst key k).noteLost p
    | .again r => (s.setDst key k).answerAgain p r

/-- A packet outside the sequenced classes (R294, R295): one of an older generation, or for a unit that is not there, is discarded and counted. -/
def State.unsequenced (s : State) (p : Packet) : State :=
  if s.stale p then s.count p.ctx .staleGeneration
  else if !s.listed p then s.count p.ctx .discardedMessage
  else if p.kind = .management then { s with mgmt := s.mgmt ++ [p] }
  else { s with inner := s.inner ++ [p] }

/-- PACKET_ARRIVAL (R299): a packet for this cube. -/
def execPacketArrival (s : State) : Outcome State Fault Refusal :=
  .next (match s.net[s.inp.index]? with
    | none => s
    | some p =>
      if p.dcube ≠ s.cubeNum ∨ p.kind = .drain then s
      else
        let s1 := { s with net := s.net.eraseIdx s.inp.index }
        if 128 < p.plen || (s.tooOld p && decide (p.ord ≠ 1)) || s.isRemoved p.scube then s1.countCube .routerDiscard
        else if p.kind = .ack ∨ p.kind = .response then (s1.takeAnswer p).getD s
        else if sequenced p.ocls then s1.atWindow p.unwrap
        else s1.unsequenced p)

/-! ## Retries (R298) -/

/-- E2E_RETRY_TIMEOUT (R298): 12.5 µs after the last send, at most eight times. -/
def execE2eRetryTimeout (s : State) : Outcome State Fault Refusal :=
  .next (
    let key := s.inp.index
    match Tab.read none s.srcKeys key with
    | none => s
    | some k => match k.unacked[s.inp.index2]? with
      | none => s
      | some u =>
        if k.resync.isNone ∧ 12500 ≤ s.elapsed u.last ∧ u.resent < 8 then
          { s.setSrc key { k with unacked := k.unacked.set s.inp.index2 { u with last := s.gtime, resent := u.resent + 1 } } with net := s.net ++ [u.pkt] }
        else s)

/-- The RESYNC of a key: the next number; the payload names the class (DESIGN CHOICE, log entry 18). -/
def State.resyncPacket (s : State) (key : Nat) (k : SrcKey) : Packet :=
  { s.packet .resync (key / 2 ^ 23) 0 (key / 8 % 2 ^ 20) (key / 2 ^ 23) 0 4 0 (flitWords [BitVec.ofNat 64 (key % 8)]) 0 with seq := k.next.toNat, aux := 3 }

/-- What UNREACH does to the operation of a packet (R88, R121): as an answer with status 1; an engaging message is settled with status 6 (R35); of
a request that was forwarded for another cube only the record stays. -/
def State.unreached (s : State) (q : Packet) : State :=
  match q.origin with
  | some w => s.recordOrigin w q
  | none =>
    let s1 := (if q.engages then s.settleOn q.ctx q.dcube 6 1 else s).dropSpawn q
    if q.kind = .launchStart ∨ q.kind = .engagementAck then s1
    else
      let p := { s.packet .response q.dunit q.ctx s.cubeNum q.sunit q.hcls 1 q.pri [] q.wid with
        scube := q.dcube, aux := 1, ord := q.ord, awaited := q.awaited, major := q.major, req := if q.req ≠ 0 then q.req else q.ord }
      { s1 with inner := s1.inner ++ [p] }

/-- SPAWN_RESEND (R22): a refused spawn goes out again every 1,024 cc; one whose cube has been removed since ends in UNREACH (R307). -/
def execSpawnResend (s : State) : Outcome State Fault Refusal :=
  .next (
    let core := s.inp.core
    let k := s.core core
    match k.spawns.find? fun p => !p.awaited && decide (1024 ≤ s.cycle - p.req)
        && (s.isRemoved p.dcube || decide (s.sendState p.dcube p.sunit 0 = .ready)) with
    | some p =>
      if s.isRemoved p.dcube then s.unreached { p with req := 0 }
      else
        let n := s.fresh
        let s1 := (s.setCore core { k with spawns := k.spawns.map fun q => if q.ord = p.ord then { q with ord := n, awaited := true } else q }).post
          { p with req := 0, seq := 0 }
        s1.renameAwaits core p.ord n
    | none => s)

/-- A packet that waited in its core ends in UNREACH without being sent, once its key awaits a RESYNC or its cube is removed, and no PLYRET of its
sender is under way any more (R146, R298, R307). -/
def State.failOutbox (s : State) : State :=
  s.outbox.foldl (fun (t : State) p =>
    if sequenced p.ocls ∧ t.packetState p = .unreach ∧ !(p.isMessage && (match coreOfUnit p.sunit with
        | some c => t.plyretsOf c p.wid p.ord
        | none => false)) then { t with outbox := t.outbox.filter fun q => q.ord != p.ord }.unreached p
    else t) s

/-- E2E_UNREACH_TIMEOUT (R298): 100 µs after the first send. -/
def execE2eUnreachTimeout (s : State) : Outcome State Fault Refusal :=
  .next (
    let key := s.inp.index
    match Tab.read none s.srcKeys key with
    | none => s
    | some k => match k.unacked[s.inp.index2]? with
      | none => s
      | some u =>
        if 100000 ≤ s.elapsed u.first then
          let k1 := { k with unacked := k.unacked.eraseIdx s.inp.index2 }
          let s1 := match k.resync with
            | some _ => s.setSrc key k1
            | none =>
              let p := s.resyncPacket key k
              let s2 := s.setSrc key { k1 with resync := some ⟨p, s.gtime, s.gtime, 0⟩ }
              { s2 with net := s2.net ++ [p] }
          s1.unreached u.pkt
        else s)

/-- RESYNC_RETRY (R298): resent like a sequenced packet, the same packet every 12.5 µs and at most eight times; a new round begins every 100 µs
while it is unanswered. -/
def execResyncRetry (s : State) : Outcome State Fault Refusal :=
  .next (
    let key := s.inp.index
    match Tab.read none s.srcKeys key with
    | none => s
    | some k => match k.resync with
      | none => s
      | some r =>
        let again (x : Resync) : State := { s.setSrc key { k with resync := some x } with net := s.net ++ [x.pkt] }
        if 100000 ≤ s.elapsed r.first then again ⟨s.resyncPacket key k, s.gtime, s.gtime, 0⟩
        else if 12500 ≤ s.elapsed r.last ∧ r.resent < 8 then again { r with last := s.gtime, resent := r.resent + 1 }
        else s)

/-- KEY_RELEASE_TIMEOUT (R299): 1 ms without an arrival, nothing held. -/
def execKeyReleaseTimeout (s : State) : Outcome State Fault Refusal :=
  .next (
    let key := s.inp.index
    match Tab.read none s.dstKeys key with
    | none => s
    | some k => if k.held = [] ∧ 1000000 ≤ s.gtime - k.last then { s with dstKeys := Tab.write none s.dstKeys key none } else s)

/-! ## Removal (R307) -/

/-- An entry's list names a cube. -/
def State.lists (s : State) (a : AmapEntry) (cube : Nat) : Bool :=
  (List.range a.n.toNat).any fun i => decide (bits (leVal (s.bytes (a.list.toNat + 4 * i) 4)) 19 0 = cube)

/-- CUBE_REMOVAL (R307): the table, RMV in the map, packets for the cube, its keys' windows. -/
def execCubeRemoval (s : State) : Outcome State Fault Refusal :=
  .next (
    let c := s.inp.part % 2 ^ 20
    if s.isRemoved c || decide (4096 ≤ s.removed.length) then s
    else
      { s with
        removed := s.removed ++ [c]
        amap := Tab.remap (fun _ => none) (fun e => e.map fun a => if s.lists a c then { a with rmv := true } else a) s.amap
        net := s.net.filter fun p => !decide (p.dcube = c)
        counts := (s.net.filter fun p => decide (p.dcube = c)).foldl (fun (t : Tab Nat) _ =>
          Tab.write 0 t Count.routerDiscard.key (Tab.read 0 t Count.routerDiscard.key + 1)) s.counts
        dstKeys := s.dstKeys.filter fun e => !decide (e.1 / 2 ^ 15 = c) })

/-! ## Re-striping (R308) -/

/-- An address-map entry from its eight words (R248): one with a bit set that must be zero is treated as V = 0. -/
def amapEntryOf (ws : List Word) : AmapEntry :=
  let w (i : Nat) : Nat := (wordAt ws i).toNat
  let clean := decide (bits (w 0) 7 3 = 0) && decide (bits (w 0) 15 13 = 0) && decide (bits (w 1) 63 60 = 0) && decide (bits (w 2) 63 60 = 0)
    && decide (w 7 = 0)
  { v := (w 0).testBit 0 && clean, rmv := (w 0).testBit 1, fwd := (w 0).testBit 2, glog := BitVec.ofNat 5 (bits (w 0) 12 8), n := BitVec.ofNat 16 (bits (w 0) 31 16)
    gen := BitVec.ofNat 32 (bits (w 0) 63 32), base := BitVec.ofNat 60 (w 1), size := BitVec.ofNat 60 (w 2), lbase := BitVec.ofNat 39 (w 3)
    list := BitVec.ofNat 39 (w 4), olist := BitVec.ofNat 39 (w 5), on := BitVec.ofNat 16 (w 6), oglog := BitVec.ofNat 5 (bits (w 6) 20 16)
    ogen := BitVec.ofNat 32 (bits (w 6) 63 32), copying := [], moved := [], acked := true, since := 0 }

/-- A class-0 packet that this cube sent to an entry's range under the old fields is unacknowledged, or has not left (R308). -/
def State.rangeBusy (s : State) (a : AmapEntry) (before : Nat) : Bool :=
  let old (q : Packet) : Bool := decide (q.ocls = 0) && decide (q.ord < before) && (match q.target with
    | some gpa => decide (a.base.toNat ≤ gpa) && decide (gpa < a.base.toNat + a.size.toNat)
    | none => false)
  s.outbox.any old || s.srcKeys.any fun e => match e.2 with
    | some k => k.unacked.any fun u => old u.pkt
    | none => false

/-- A line of an engine command that was to be made at a stripe's old home goes to its new home (R308). -/
def State.rehome (s : State) (e : AmapEntry) (stripe : Nat) (m : Move) : Move := match m.place with
  | .mem key c tag => match s.oldStripe e stripe key with
    | some gpa => match s.resolveDram gpa with
      | some (cube, a) => { m with place := if cube = s.cubeNum then .mem a c tag else .remote cube gpa tag }
      | none => m
    | none => m
  | _ => m

/-- The lock word at which a WLK has added to WWAIT (R133) moves with its stripe. -/
def State.rehomeLock (s : State) (e : AmapEntry) (stripe : Nat) : Nat × Nat × BitVec 16 → Nat × Nat × BitVec 16
  | (cube, addr, tag) => match (if cube = s.cubeNum then s.oldStripe e stripe addr else none) with
    | some gpa => match s.resolveDram gpa with
      | some (c, a) => if c = s.cubeNum then (c, a, tag) else (c, gpa, tag)
      | none => (cube, addr, tag)
    | none => (cube, addr, tag)

/-- The data of a stripe has moved (R308): what this cube's parties would still do at its old home, they do at its new home. -/
def State.moveStripe (s : State) (e : AmapEntry) (stripe : Nat) : State :=
  { s with
    ops := s.ops.map fun o => { o with reads := o.reads.map (·.map (s.rehome e stripe)), writes := o.writes.map (·.map (s.rehome e stripe)) }
    units := s.units.map fun u => (u.1, { u.2 with wwait := u.2.wwait.map (s.rehomeLock e stripe) })
    cores := s.cores.map fun k => (k.1, { k.2 with spills := k.2.spills.map fun p =>
      (p.1, p.2.map fun q => { q with wwait := q.wwait.map (s.rehomeLock e stripe) }) }) }

/-- Two ranges, each a base and a size, have an address in common. -/
def rangesMeet (a n b m : Nat) : Bool := decide (a < b + m) && decide (b < a + n)

/-- A command in flight holds the local address of a completion, status or result word, or of a near-bank operand, in a stripe. The copy of the stripe begins
once it has ended: R308 forwards accesses that arrive, and says nothing of these (DESIGN CHOICE, log entry 114). -/
def State.stripeUsed (s : State) (e : AmapEntry) (stripe : Nat) : Bool :=
  let g := 2 ^ e.oglog.toNat
  let here := e.lbase.toNat + stripe / e.on.toNat * g
  let inside (k : Nat) : Bool := (s.oldStripe e stripe k).isSome
  inside here && (s.ops.any (fun o => o.done.any inside)
    || s.units.any (fun u => u.2.vec.any fun w => w.here.any fun g => g.any fun l => inside l.loc.key)
    || s.banks.any (fun b => match b.2.run with
      | some r => (r.done.toList ++ r.stat.getD [] ++ r.res.getD []).any inside || r.pages.any fun f => f.2.any fun k => rangesMeet k (2 ^ 21) here g
      | none => false)
    || s.dies.any fun d => match d.2.redRun with
      | some r => r.done.any inside || r.ptes.any fun p => rangesMeet (p.pfn.toNat * 2 ^ 16) (2 ^ p.shift) (e.base.toNat + stripe * g) g
      | none => false)

/-- RESTRIPE (R308), by step: 1 the entry is replaced as one unit, and new accesses to its range are held; 2 once no packet under the old fields is
unacknowledged, the generation is acknowledged to management, in a packet whose code and form are the model's (DESIGN CHOICE, log entry 13);
3 a stripe is being copied; 5 its data has moved, and lines that were to be made here go to the new home; 6 FWD is cleared, once this cube has acknowledged. -/
def execRestripe (s : State) : Outcome State Fault Refusal :=
  .next (
    let i := s.inp.index % 64
    match Tab.read none s.amap i with
    | none => s
    | some a =>
      let put (e : AmapEntry) : State := { s with amap := Tab.write none s.amap i (some e) }
      match s.inp.amount with
      | 1 =>
        if a.fwd then s
        else
          put { amapEntryOf s.inp.words with
            gen := a.gen + 1, fwd := true, olist := a.list, on := a.n, oglog := a.glog, ogen := a.gen, acked := false, since := s.fresh }
      | 2 =>
        if a.fwd && !a.acked && !s.rangeBusy a a.since then
          let p := s.packet .management 516 0 s.cubeNum 516 0 7 0 (flitWords [BitVec.ofNat 64 i, BitVec.ofNat 64 a.gen.toNat]) 0
          { put { a with acked := true } with mgmt := s.mgmt ++ [p] }
        else s
      | 3 => if a.fwd && !s.stripeUsed a s.inp.index2 then put { a with copying := a.copying ++ [s.inp.index2] } else s
      | 5 =>
        if a.fwd then
          (put { a with copying := a.copying.filter (· != s.inp.index2), moved := a.moved ++ [s.inp.index2] }).moveStripe a s.inp.index2
        else s
      | 6 => if a.acked then put { a with fwd := false, copying := [], moved := [] } else s
      | _ => s)

end Sys2Proof.Machine
end

