-- ==== Sys2Proof/Machine/Mask.lean ====
section
/-! DEFINITION. The mask instructions (R186): all 64 bits of their mask operands; MPOP and MFIRST look at bits 0 to VL − 1. -/

namespace Sys2Proof.Machine

open Sys2Proof Host

/-- Write m[d]; m0 discards (R38). -/
def State.writeM (s : State) (d : Fin 8) (v : Word) : State := s.retire (s.me.setM d v) 4

/-- MAND (R186). -/
def execMand (d a b : Fin 8) (s : State) : Outcome State Fault Refusal := .next (s.writeM d (s.me.readM a &&& s.me.readM b))

/-- MOR (R186). -/
def execMor (d a b : Fin 8) (s : State) : Outcome State Fault Refusal := .next (s.writeM d (s.me.readM a ||| s.me.readM b))

/-- MXOR (R186). -/
def execMxor (d a b : Fin 8) (s : State) : Outcome State Fault Refusal := .next (s.writeM d (s.me.readM a ^^^ s.me.readM b))

/-- MNOT (R186). -/
def execMnot (d a : Fin 8) (s : State) : Outcome State Fault Refusal := .next (s.writeM d (~~~s.me.readM a))

/-- MPOP (R186): the 1 bits below VL. -/
def execMpop (d : Fin 32) (a : Fin 8) (s : State) : Outcome State Fault Refusal :=
  .next (s.writeX d (BitVec.ofNat 64 (popcBelow (s.me.readM a) s.me.vl.toNat)) 4)

/-- The lowest 1 bit among the places from i on, n of them; 64 where there is none. -/
def firstOne (x : Word) (i : Nat) : Nat → Nat
  | 0 => 64
  | n + 1 => if x.getLsbD i then i else firstOne x (i + 1) n

/-- MFIRST (R186): the lowest 1 bit below VL; 64 when there is none. -/
def execMfirst (d : Fin 32) (a : Fin 8) (s : State) : Outcome State Fault Refusal :=
  .next (s.writeX d (BitVec.ofNat 64 (firstOne (s.me.readM a) 0 s.me.vl.toNat)) 4)

/-- MSET (R186). -/
def execMset (d : Fin 8) (a : Fin 32) (s : State) : Outcome State Fault Refusal := .next (s.writeM d (s.me.readX a))

/-- MGET (R186). -/
def execMget (d : Fin 32) (a : Fin 8) (s : State) : Outcome State Fault Refusal := .next (s.writeX d (s.me.readM a) 4)

end Sys2Proof.Machine
end

