-- ==== Sys2Proof/Machine/Order.lean ====
section
/-! DEFINITION. FENCE (R134) and WAIT (R135): they look at the strand's own counters and wait at issue. -/

namespace Sys2Proof.Machine

open Sys2Proof Host

/-- The counters that FENCE of kind k awaits are zero (R134). The model awaits every counted operation of the kind, whatever
its destination and whatever the scope, as the rule permits (DESIGN CHOICE, log entry 115). -/
def Strand.fenced (u : Strand) (k : Nat) : Bool :=
  match k with
  | 0 => decide (u.loads = 0) && decide (u.stores = 0) && decide (u.msgs = 0)
  | 1 => decide (u.stores = 0)
  | 2 => decide (u.msgs = 0)
  | _ => decide (u.copies = 0) && decide (u.tiles = 0)

/-- FENCE (R134). -/
def execFence (_c k : Fin 4) (s : State) : Outcome State Fault Refusal :=
  finish s (if s.me.fenced k.val then .ok (s.retire s.me 4) else stall .operations)

/-- A counter is at most its field; 15 does not wait (R79, R135). -/
def waitField (n : Nat) (f : Fin 16) : Bool := decide (f.val = 15) || decide (n ≤ f.val)

/-- Every counter is at most its field (R135). -/
def Strand.waited (u : Strand) (l sz c t m : Fin 16) : Bool :=
  waitField u.loads l && waitField u.stores sz && waitField u.copies c && waitField u.tiles t && waitField u.msgs m

/-- WAIT with an instruction length. -/
def State.waitForm (s : State) (l sz c t m : Fin 16) (len : Nat) : Res State :=
  if s.me.waited l sz c t m then .ok (s.retire s.me len) else stall .operations

/-- WAIT (R135). -/
def execWait (l sz c t m : Fin 16) (s : State) : Outcome State Fault Refusal :=
  finish s (s.waitForm l sz c t m 4)

end Sys2Proof.Machine
end

