-- ==== Sys2Proof/Machine/Platform.lean ====
section
/-! DEFINITION. The host port and the platform (R6, R290, R310, R311, R313, R317 to R321): registers written and read, the aperture, MSI-X,
boot and attestation, power and temperature. -/

namespace Sys2Proof.Machine

open Sys2Proof Host

/-! ## MSI-X (R118, R310) -/

/-- Write a vector's entry: unmasking sends a pending message (R118). -/
def State.setVector (s : State) (fn v : Nat) (e : Vector_) : State :=
  let (vs, enable, mask) := if fn = 0 then (s.plat.vectors, s.plat.msixEnable, s.plat.msixMask)
    else ((s.ctx (fn - 1)).vectors, (s.ctx (fn - 1)).msixEnable, (s.ctx (fn - 1)).msixMask)
  let send := enable && !mask && !e.masked && e.pending
  let vs1 := Tab.write {} vs v { e with pending := e.pending && !send }
  let s1 := if fn = 0 then { s with plat := { s.plat with vectors := vs1 } } else s.setCtx (fn - 1) { s.ctx (fn - 1) with vectors := vs1 }
  if send then { s1 with irqs := s1.irqs ++ [(fn, v)] } else s1

def State.vector (s : State) (fn v : Nat) : Vector_ := Tab.read {} (if fn = 0 then s.plat.vectors else (s.ctx (fn - 1)).vectors) v

/-- MSIX_UNMASK (R118): a vector's mask bit is cleared. -/
def execMsixUnmask (s : State) : Outcome State Fault Refusal :=
  .next (
    let v := s.inp.index % 64
    if s.inp.part ≤ 16 then s.setVector s.inp.part v { s.vector s.inp.part v with masked := false } else s)

/-- The function's enable and mask, which PCI Express keeps in configuration space (PRESUMED, log entry 81): a message pending under the mask goes. -/
def State.setMsix (s : State) (fn : Nat) (enable mask : Bool) : State :=
  let s1 := if fn = 0 then { s with plat := { s.plat with msixEnable := enable, msixMask := mask } }
    else s.setCtx (fn - 1) { s.ctx (fn - 1) with msixEnable := enable, msixMask := mask }
  (List.range 64).foldl (fun (t : State) v => t.setVector fn v (t.vector fn v)) s1

/-! ## The physical function (R290, R321) -/

/-- Tables that management writes and for which the spec gives no offset (DESIGN CHOICE, log entry 25): by number, 0 an address-map entry, 1 a route entry,
2 a BAR2 window, 3 a function's MSI-X enable and mask, 4 the fused minimum version, which becomes the running one's (R317), 5 a word of a member list or of another table in memory. -/
def State.writeTable (s : State) (table i : Nat) (ws : List Word) : State :=
  match table with
  | 0 => { s with amap := Tab.write none s.amap (i % 64) (some (amapEntryOf ws)) }
  | 1 => { s with routes := Tab.write 0 s.routes (i % 2048) ((wordAt ws 0).setWidth 128 ||| ((wordAt ws 1).setWidth 128 <<< 64)) }
  | 2 =>
    let c := i / 64 % 16
    s.setCtx c { s.ctx c with bar2 := Tab.write 0 (s.ctx c).bar2 (i % 64) (wordAt ws 0) }
  | 3 => if i ≤ 16 then s.setMsix i ((wordAt ws 0).getLsbD 0) ((wordAt ws 0).getLsbD 1) else s
  | 4 => if s.plat.boot = .running then { s with plat := { s.plat with minVersion := s.plat.version } } else s
  | 5 => s.putPhys i 2 (bytesOfWords ws)
  | _ => s

/-- A write to a platform register without a behaviour of its own. R239 and R321 say when LINBASE and CUBE are written and what LINBASE is a multiple of, and
give no outcome of another write: it is ignored (DESIGN CHOICE, log entry 110). -/
def State.writePlatform (s : State) (off : Nat) (v : Word) : State :=
  let p := s.plat
  if off = 0 then
    if s.links.all (fun e => decide (e.2.state = .down)) then { s with plat := { p with cube := BitVec.ofNat 20 (field v 47 28) } } else s
  else if 0x28 ≤ off ∧ off < 0x48 then
    if s.ctxs.all (fun e => decide (e.2.state = .free)) ∧ v.toNat % 2 ^ 27 = 0 then
      s.setDie ((off - 0x28) / 8) { s.die ((off - 0x28) / 8) with linbase := v.setWidth 37 } else s
  else if off = 0x48 then { s with plat := { p with plim := v.setWidth 12, guard := BitVec.ofNat 12 (field v 27 16) } }
  else if off = 0x58 then { s with plat := { p with twarn := v.setWidth 8, tcrit := BitVec.ofNat 8 (field v 15 8) } }
  else if 0x10000 ≤ off ∧ off < 0x20000 then { s with plat := { p with bootwin := p.bootwin ++ leBytes 8 v.toNat } }
  else if 0x20000 ≤ off ∧ off < 0x20200 then
    let n := (off - 0x20000) / 8
    let l := s.link n
    s.setLink n { l with hold := v.getLsbD 15, replays := field v 63 48 }
  else s

/-- A write to an MSI-X table word (R310, R311; the entry's layout is PCI Express's, PRESUMED, log entry 81). -/
def State.writeVector (s : State) (fn off : Nat) (v : Word) : State :=
  let n := off / 16
  let e := s.vector fn n
  if off % 16 = 0 then s.setVector fn n { e with addr := v } else s.setVector fn n { e with data := v.setWidth 32, masked := v.getLsbD 32 }

/-- A write to a context's window (R313), through the physical function or its own; another selection of cores acts at once on a debugger halt (R323). -/
def State.writeWindow (s : State) (pf : Bool) (ctx off : Nat) (v : Word) : State :=
  let s1 := s.setCtx ctx ((s.ctx ctx).write pf off v)
  if 0x088 ≤ off ∧ off < 0x0A8 ∧ (s.ctx ctx).dhalt then s1.applyDhalt ctx else s1

/-- REGISTER_WRITE (R6): a 64-bit write to a register without a behaviour of its own; with `flag`, to a table by number. -/
def execRegisterWrite (s : State) : Outcome State Fault Refusal :=
  .next (
    let fn := s.inp.part
    let off := s.inp.index / 8 * 8
    let v := s.inp.word0
    if s.inp.flag then s.writeTable s.inp.part s.inp.index s.inp.words
    else if fn ≠ 0 ∧ s.hostPending (fn - 1) then s
    else if 16 < fn then s
    else if 0x50000 ≤ off ∧ off < 0x50400 then s.writeVector fn (off - 0x50000) v
    else if fn ≠ 0 ∧ 0x100000 ≤ off ∧ off < 0x200000 then s.writeWindow false (fn - 1) (off - 0x100000) v
    else if fn ≠ 0 then s
    else if 0x200000 ≤ off ∧ off < 0x1200000 then
      s.writeWindow true (off / 0x100000 - 2) (off % 0x100000) v
    else s.writePlatform off v)

/-! ## Reads of registers (R290, R311, R313, R321) -/

/-- The payload of an event message (R90). -/
def EventMsg.words (e : EventMsg) : List Word :=
  [BitVec.ofNat 64 (e.code.num + (if e.note then 2 ^ 8 else 0) + e.strand % 8 * 2 ^ 9 + e.unit % 2 ^ 12 * 2 ^ 12 + e.ctx % 16 * 2 ^ 24 + e.gen.toNat * 2 ^ 28
      + e.major % 64 * 2 ^ 36 + e.ply.toNat * 2 ^ 48),
   e.pc, e.addr, BitVec.ofNat 64 (e.insn.toNat + e.lane % 256 * 2 ^ 32 + e.aux.toNat * 2 ^ 40)]

def CtxState.code : CtxState → Nat
  | .free => 0
  | .idle => 1
  | .running => 2
  | .out => 3

/-- Fields of up to 16 per word. -/
def packed (n width : Nat) (f : Nat → Nat) : Word := BitVec.ofNat 64 (((List.range n).map fun i => f i % 2 ^ width * 2 ^ (width * i)).sum)

/-- A word of a context's window; an L field shows what was written last (R314). -/
def State.readWindow (s : State) (ctx off : Nat) : Word :=
  let k := (s.ctx ctx).configured
  if off = 0x000 then BitVec.ofNat 64 (k.state.code + (if k.cfgerr then 8 else 0) + k.gen.toNat * 2 ^ 8)
  else if off = 0x008 then k.clmask.setWidth 64
  else if off = 0x010 then k.ptbase.setWidth 64
  else if off = 0x018 then k.ptlog.setWidth 64
  else if off = 0x020 then k.savebase.setWidth 64
  else if off = 0x028 then k.spoolbase.setWidth 64
  else if off = 0x030 then k.spoolsize.setWidth 64
  else if off = 0x038 then BitVec.ofNat 64 (k.ntags.toNat + k.poolLines.toNat * 2 ^ 32)
  else if off = 0x040 then packed 4 16 fun i => (Tab.read 0 k.quota i).toNat
  else if off = 0x048 then packed 4 16 fun i => (Tab.read 0 k.quota (4 + i)).toNat
  else if off = 0x050 then BitVec.ofNat 64 (k.qdram.toNat + k.qfab.toNat * 2 ^ 4)
  else if off = 0x058 then k.evpol
  else if off = 0x060 then k.trbase
  else if off = 0x068 then k.trsize
  else if off = 0x070 then k.trctl
  else if off = 0x078 then k.trlost
  else if off = 0x080 then BitVec.ofNat 64 (k.dhalt.toNat + k.pstop.toNat * 2 + (s.isHalted ctx).toNat * 2 ^ 8)
  else if 0x088 ≤ off ∧ off < 0x0A8 then (k.dcores >>> ((off - 0x088) * 8)).setWidth 64
  else if 0x0C0 ≤ off ∧ off < 0x0E0 then wordAt ((k.hevt.head?.map EventMsg.words).getD []) ((off - 0x0C0) / 8)
  else if 0x100 ≤ off ∧ off < 0x180 then packed 16 4 fun i => (Tab.read 0 k.lshare ((off - 0x100) * 2 + i)).toNat
  else if 0x1000 ≤ off ∧ off < 0x1200 then Tab.read 0 k.hmask ((off - 0x1000) / 8)
  else if 0x2000 ≤ off ∧ off < 0x2400 then
    let h := k.queue ((off - 0x2000) / 16)
    if off % 16 = 0 then h.base else BitVec.ofNat 64 (h.log2.toNat + h.overflow % 2 ^ 32 * 2 ^ 32)
  else if 0x80000 ≤ off ∧ off < 0x100000 then
    wordAt (Tab.read [] (s.core ((off - 0x80000) / 2048)).delay (off % 2048 / 32)) (off % 32 / 8)
  else 0

def BootState.code : BootState → Nat
  | .rom => 0
  | .awaiting => 1
  | .verifying => 2
  | .running => 3
  | .failed => 4

def LinkState.code : LinkState → Nat
  | .down => 0
  | .train => 1
  | .up => 2
  | .replay => 3
  | .retrain => 4
  | .dark => 5

/-- A link's status register (R290). -/
def Link.statusWord (l : Link) : Word :=
  BitVec.ofNat 64 (l.state.code + l.ports % 32 * 2 ^ 8 + l.epoch.toNat * 2 ^ 13 + l.keyed.toNat * 2 ^ 14 + l.hold.toNat * 2 ^ 15 + l.nbr.toNat * 2 ^ 16
    + l.replays % 2 ^ 16 * 2 ^ 48)

/-- A word of the physical function's registers; MIR is the lowest of the four dies' (DESIGN CHOICE, log entry 61). -/
def State.readPlatform (s : State) (off : Nat) : Word :=
  let p := s.plat
  if off = 0 then BitVec.ofNat 64 (p.boot.code + p.bfail.toNat * 2 ^ 8 + p.cube.toNat * 2 ^ 28)
  else if off < 0x28 then BitVec.ofNat 64 Config.stackBytes
  else if off < 0x48 then (s.die ((off - 0x28) / 8)).linbase.setWidth 64
  else if off = 0x48 then BitVec.ofNat 64 (p.plim.toNat + p.guard.toNat * 2 ^ 16)
  else if off = 0x50 then BitVec.ofNat 64 (p.pwr.toNat + ((List.range 4).foldl (fun m d => min m (s.die d).mir) 16) % 32 * 2 ^ 16
    + ((List.range 4).map fun d => (s.die d).tstop.toNat * 2 ^ (24 + d)).sum)
  else if off = 0x58 then BitVec.ofNat 64 (p.twarn.toNat + p.tcrit.toNat * 2 ^ 8)
  else if 0x60 ≤ off ∧ off < 0x80 then BitVec.ofNat 64 ((s.die ((off - 0x60) / 8)).rebases % 2 ^ 32)
  else if 0x100 ≤ off ∧ off < 0x200 then packed 8 8 fun i => (s.bank (off - 0x100 + i)).pab
  else if 0x200 ≤ off ∧ off < 0x220 then packed 8 8 fun i => Tab.read 0 p.temps (off - 0x200 + i)
  else if 0x300 ≤ off ∧ off < 0x310 then packed 2 32 fun i => (Tab.read 0xFFFFFFFF p.lifed ((off - 0x300) / 4 + i)).toNat
  else if 0x310 ≤ off ∧ off < 0x350 then packed 2 32 fun i => (Tab.read 0xFFFFFFFF p.lifeg ((off - 0x310) / 4 + i)).toNat
  else if 0x20000 ≤ off ∧ off < 0x20200 then (s.link ((off - 0x20000) / 8)).statusWord
  else 0

/-- What a host's 64-bit read of a register returns (R290, R311, R313, R321). -/
def State.readRegister (s : State) (fn off : Nat) : Word :=
  let vec (o : Nat) : Word :=
    let e := s.vector fn (o / 16)
    if o % 16 = 0 then e.addr else BitVec.ofNat 64 (e.data.toNat + e.masked.toNat * 2 ^ 32)
  if 0x50000 ≤ off ∧ off < 0x50400 then vec (off - 0x50000)
  else if off = 0x58000 then packed 64 1 fun v => (s.vector fn v).pending.toNat
  else if fn ≠ 0 ∧ 0x100000 ≤ off ∧ off < 0x200000 then s.readWindow (fn - 1) (off - 0x100000)
  else if fn ≠ 0 then
    if off = 0x40008 then BitVec.ofNat 64 ((s.ctx (fn - 1)).submissions.length % 16 + (s.ctx (fn - 1)).launch.isSome.toNat * 2 ^ 8) else 0
  else if 0x200000 ≤ off ∧ off < 0x1200000 then s.readWindow (off / 0x100000 - 2) (off % 0x100000)
  else s.readPlatform off

/-! ## The aperture (R311) -/

/-- The pieces of a host access: each lies in an aligned 8-byte word and is one access (DESIGN CHOICE, log entry 25). Where each begins, its bytes. -/
def hostPieces : Nat → Nat → Nat → List (Nat × Nat)
  | 0, _, _ => []
  | f + 1, off, n =>
    if n = 0 then []
    else
      let k := min n (8 - off % 8)
      (off, k) :: hostPieces f (off + k) (n - k)

/-- The address in the context's virtual space that an aperture offset stands for. -/
def Ctx.apertureVa (k : Ctx) (off : Nat) : Word := Tab.read 0 k.bar2 (off / 2 ^ 28) + BitVec.ofNat 64 (off % 2 ^ 28)

/-- One piece of a host write: here, or at another cube by a posted request (R121). -/
def State.hostWrite (s : State) (ctx : Nat) (bs : List Byte) : Reach → State
  | .here key => s.cubeWrite key bs
  | .far cube gpa homing conf =>
    let mask := maskAt (gpa % 64) bs.length
    s.post { s.packet .builtin hostPort ctx cube (unitNumber (unitKey (s.farHome ctx gpa homing) 0)) 1 0 2
      (flitWords (BitVec.ofNat 64 (gpa / 64 * 64) :: BitVec.ofNat 64 homing :: mask.setWidth 64 :: leWords (bs ++ List.replicate (8 - bs.length % 8) 0))) 0 with
      aux := accessAux 64 1, conf := conf }

/-- One piece of a host read; what another cube holds is what it answers. -/
def State.hostPiece (s : State) (n : Nat) : Reach → List Byte
  | .here key => s.bytes key n
  | .far _ gpa _ _ => (List.range n).map fun i => s.farByte (gpa + i)

/-- BAR2_ACCESS (R311): `flag` a write, of up to 64 bytes. A miss of any byte completes a read with all ones, drops a write, and is counted.
The access waits for the function's posted writes before it, and while its place is being re-striped (R308). -/
def execBar2Access (s : State) : Outcome State Fault Refusal :=
  .next (
    let ctx := s.inp.ctx
    let n := s.inp.amount
    let off := s.inp.index
    if n = 0 ∨ 64 < n ∨ 2 ^ 34 < off + n ∨ s.hostPending ctx ∨ (hostPieces 9 off n).any (fun e => s.mgmtHeld ctx ((s.ctx ctx).apertureVa e.1)) then s
    else
      let places := (hostPieces 9 off n).map fun e => (e, s.mgmtPlace ctx ((s.ctx ctx).apertureVa e.1) s.inp.flag)
      if places.any fun e => e.2.isNone then
        let s1 := s.count ctx .bar2Miss
        if s.inp.flag then s1 else { s1 with plat := { s1.plat with hostRead := BitVec.ofNat 512 (2 ^ (8 * n) - 1) } }
      else if s.inp.flag then
        places.foldl (fun (t : State) e => match e.2 with
          | some r => t.hostWrite ctx (((lineBytes s.inp.wide).drop (e.1.1 - off)).take e.1.2) r
          | none => t) s
      else
        let bs := places.flatMap fun e => match e.2 with
          | some r => s.hostPiece e.1.2 r
          | none => []
        let s1 := places.foldl (fun (t : State) e => match e.2 with
          | some (.here key) => (t.stampLoad t.floor (stampOf key)).2
          | _ => t) s
        { s1 with plat := { s1.plat with hostRead := BitVec.ofNat 512 (leVal bs) }, fresh := s1.fresh + 1 })

/-! ## Boot and identity (R317, R318) -/

/-- POWER_ON (R317): every field at its reset value, CYCLE from 0; the boot ROM waits for an image. What the fuses hold stays. -/
def execPowerOn (s : State) : Outcome State Fault Refusal :=
  .next { State.reset with
    plat := { State.reset.plat with boot := .awaiting, minVersion := s.plat.minVersion }
    agenda := s.agenda }

/-- Exactly n bytes of a list, zeros after its end. -/
def fitBytes (n : Nat) (bs : List Byte) : List Byte := (List.range n).map fun i => bs.getD i 0

/-- The image's header (DESIGN CHOICE, log entry 26): magic, version, body length, a reserved word, the key; then the body and the signature. -/
def imageKey (im : List Byte) : List Byte := (im.drop 16).take 1952
def imageVersion (im : List Byte) : Nat := leVal ((im.drop 4).take 4)
def imageBody (im : List Byte) : Nat := leVal ((im.drop 8).take 4)

/-- The failure code of the checks of an image; 0 where it passes. -/
def bootCheck (min : BitVec 32) (im : List Byte) : Nat :=
  if leVal (im.take 4) ≠ 0x4F4E414B ∨ im.length < 1968 + imageBody im + 3309 then 4
  else if (Config.shake256 (imageKey im)).take 32 ≠ Config.vendorKeyDigest then 1
  else if imageVersion im < min.toNat then 2
  else if !Config.imageVerifies (imageKey im) (fitBytes 64 (Config.shake256 (im.take (1968 + imageBody im))))
      ((im.drop (1968 + imageBody im)).take 3309) then 3
  else 0

/-- The verification of the boot window ends: FAILED with a code, or the firmware is loaded and runs (R317). -/
def State.endBoot (s : State) : State :=
  let p := s.plat
  if p.boot ≠ .verifying then s
  else
    let e := bootCheck p.minVersion p.bootwin
    if e ≠ 0 then { s with plat := { p with boot := .failed, bfail := BitVec.ofNat 8 e } }
    else { s with plat := { p with boot := .running, bfail := 0, version := BitVec.ofNat 32 (imageVersion p.bootwin), image := p.bootwin } }

/-- BOOT_GO (R317): GO starts the verification; a further one while it runs stands for its end. -/
def execBootGo (s : State) : Outcome State Fault Refusal :=
  .next (if s.plat.boot = .awaiting then { s with plat := { s.plat with boot := .verifying } } else s.endBoot)

/-- An attestation report (R318). -/
def State.report (s : State) (nonce : List Byte) : List Byte :=
  let body := leBytes 4 s.cubeNum ++ leBytes 4 s.plat.version.toNat ++ fitBytes 64 (Config.shake256 s.plat.image)
    ++ fitBytes 64 (Config.shake256 Config.identityKey) ++ fitBytes 32 nonce ++ leBytes 8 s.gtime
    ++ (List.range 16).flatMap fun c => [(s.ctx c).gen, BitVec.ofNat 8 (s.ctx c).state.code]
  body ++ fitBytes 3309 (Config.attestationSignature body)

/-- ATTESTATION (R318): the report goes into the buffer, a multiple of 64 KiB. -/
def execAttestation (s : State) : Outcome State Fault Refusal :=
  .next (if s.inp.word0.toNat % 65536 = 0 then s.putPhys s.inp.word0.toNat 2 (s.report (bytesOfWords s.inp.words)) else s)

/-! ## Power and temperature (R319, R320) -/

def allDies : List Nat := List.range 4
def controllersOf (dies : List Nat) : List Nat := dies.flatMap fun d => (List.range 64).map fun p => 64 * d + p

/-- Change PAB of every controller of some dies. -/
def State.mapPab (s : State) (dies : List Nat) (f : Nat → Nat) : State :=
  (controllersOf dies).foldl (fun (t : State) b => t.setBank b { t.bank b with pab := f (t.bank b).pab }) s
def State.mapMir (s : State) (dies : List Nat) (f : Nat → Nat) : State :=
  dies.foldl (fun (t : State) d => t.setDie d { t.die d with mir := f (t.die d).mir }) s

/-- Over the target (R319): MIR falls while it can, else every PAB halves. -/
def State.throttle (s : State) (dies : List Nat) : State :=
  if dies.any fun d => decide (4 < (s.die d).mir) then s.mapMir dies fun m => if 4 < m then m - 1 else m
  else s.mapPab dies fun p => max (p / 2) 1

/-- The end of 8 windows well under the target (R319). -/
def State.relax (s : State) : State :=
  if (controllersOf allDies).any fun b => decide ((s.bank b).pab < 16) then s.mapPab allDies fun p => min (2 * p) 16
  else s.mapMir allDies fun m => min (m + 1) 16

/-- POWER_WINDOW (R319): the power of the last 10 µs, in W. -/
def execPowerWindow (s : State) : Outcome State Fault Refusal :=
  .next (
    let w := s.inp.amount
    let p := s.plat
    let target := min 2800 p.plim.toNat - p.guard.toNat
    let s1 (n : Nat) : State := { s with plat := { p with pwr := BitVec.ofNat 12 w, lowWindows := n } }
    if target < w then (s1 0).throttle allDies
    else if w + 60 < target then (if p.lowWindows = 7 then (s1 0).relax else s1 (p.lowWindows + 1))
    else s1 0)

/-- A sensor's reading: kept, and the time since which every sensor of a stopped die has read at or below TWARN. -/
def State.readSensor (s : State) (cluster temp : Nat) : State :=
  let d := cluster / 8
  let temps := Tab.write 0 s.plat.temps cluster temp
  let cool := (List.range 8).all fun i => decide (Tab.read 0 temps (d * 8 + i) ≤ s.plat.twarn.toNat)
  let k := s.die d
  { s with plat := { s.plat with temps := temps } }.setDie d
    { k with coolSince := if k.tstop && cool then some (k.coolSince.getD s.gtime) else none }

/-- The context has cores on a die. -/
def State.onDie (s : State) (ctx d : Nat) : Bool := (s.clustersOf ctx).any fun c => decide (c / 8 = d)

/-- Every context with cores on a hot die is stopped, and vector 0 raised (R320). -/
def State.stopDie (s : State) (d : Nat) : State :=
  let s1 := (List.range 16).foldl (fun (t : State) x =>
    let k := t.ctx x
    if !t.onDie x d || decide (k.state = .out) || (k.stopped && decide (k.thermal = 0)) then t
    else
      let t1 := if k.stopped then t else t.stopCtx x
      t1.setCtx x { t1.ctx x with thermal := (t1.ctx x).thermal ||| BitVec.ofNat 4 (2 ^ d) }) s
  (s1.setDie d { s1.die d with tstop := true, coolSince := none }).raisePf 0

/-- A cluster's sensor reads: above TWARN the die's rates are lowered, above TCRIT its contexts stop (R319, R320). -/
def State.sense (s : State) (cluster temp : Nat) : State :=
  let s1 := s.readSensor cluster temp
  let s2 := if s.plat.twarn.toNat < temp then s1.throttle [cluster / 8] else s1
  if s.plat.tcrit.toNat < temp then s2.stopDie (cluster / 8) else s2

/-- THERMAL_WARN (R319): a sensor's reading. -/
def execThermalWarn (s : State) : Outcome State Fault Refusal := .next (s.sense (s.inp.part % 32) s.inp.amount)

/-- THERMAL_STOP (R320): a reading above TCRIT. -/
def execThermalStop (s : State) : Outcome State Fault Refusal :=
  .next (if s.inp.amount ≤ s.plat.tcrit.toNat then s else s.sense (s.inp.part % 32) s.inp.amount)

/-- THERMAL_RESUME (R320): after 100 ms at or below TWARN. -/
def execThermalResume (s : State) : Outcome State Fault Refusal :=
  .next (
    let d := s.inp.part % 4
    match (s.die d).coolSince with
    | none => s
    | some t0 =>
      if !(s.die d).tstop || decide (s.gtime < t0 + 100000000) then s
      else
        let s1 := (s.mapPab [d] fun _ => 1).setDie d { s.die d with mir := 4, tstop := false, coolSince := none }
        let s2 := (List.range 16).foldl (fun (t : State) x =>
          let k := t.ctx x
          if k.thermal.getLsbD d then
            let left := k.thermal &&& ~~~(BitVec.ofNat 4 (2 ^ d))
            if left = 0 ∧ k.state ≠ .out then t.resumeCtx x else t.setCtx x { k with thermal := left }
          else t) s1
        s2.raisePf 0)

/-- LIFE_UPDATE (R321): new estimates, in hours: for a die the least of its clusters' projections (`words`) and the retention trend; with the flag
an optical group's. -/
def execLifeUpdate (s : State) : Outcome State Fault Refusal :=
  .next (
    let p := s.plat
    let v := BitVec.ofNat 32 (if s.inp.flag then s.inp.amount else s.inp.words.foldl (fun m w => min m (w.toNat % 2 ^ 32)) s.inp.amount)
    { s with plat := if s.inp.flag then { p with lifeg := Tab.write 0xFFFFFFFF p.lifeg (s.inp.part % 16) v }
      else { p with lifed := Tab.write 0xFFFFFFFF p.lifed (s.inp.part % 4) v } })

end Sys2Proof.Machine
end

