-- ==== Sys2Proof/Machine/Priv.lean ====
section
/-! DEFINITION. Privileged instructions (R167 to R169). -/

namespace Sys2Proof.Machine

open Sys2Proof Host

/-- PRV instructions execute only on service cores (R167). -/
def State.onService (s : State) : Res Unit := need (isService s.cur) .priv 0

/-- TLBW (R169): the entry into that core's TLB; a malformed one is written with V = 0 (R242). -/
def execTlbw (a b c : Fin 32) (s : State) : Outcome State Fault Refusal :=
  finish s (do
    s.onService
    let w := (s.me.readX a).toNat
    let core := bits w 7 0
    let p := pteOf (s.me.readX b) (s.me.readX c)
    let k := s.core core
    let e := if p.v && !malformedPte (s.me.readX b) (s.me.readX c) then some p else none
    let s1 := s.setCore core { k with tlb := Tab.write none k.tlb (bits w 13 8) e }
    .ok (s1.retire s1.me 4))

/-- A TLBI names this entry (R169). -/
def dropsPte (ctx x n : Nat) (all : Bool) (p : Pte) : Bool :=
  decide (p.ctx.toNat = ctx) && (all || overlaps (p.vpn.toNat * 2 ^ 16) p.shift x n)

/-- Engine operations of a context with lines, or a completion word at a translated address, still to read or write (R245). -/
def State.enginesOf (s : State) (ctx : Nat) : Bool :=
  s.ops.any fun o => decide (o.ctx = ctx) && (decide (o.reads ≠ []) || decide (o.writes ≠ []) || decide (o.asked ≠ []) || o.done.any fun k => !isScratchKey k)

/-- An unperformed access to another cube of a context, at an address that an entry of the range maps (R245). -/
def State.throughEntry (s : State) (ctx x n : Nat) (all : Bool) (p : Packet) : Bool :=
  let w := (wordAt p.payload 0).toNat
  decide (p.ctx = ctx) && ((decide (p.kind = .builtin) && decide (p.hcls ≤ 2)) || decide (p.kind = .engineData))
    && s.cores.any fun k => k.2.tlb.any fun e => match e.2 with
      | some q => dropsPte ctx x n all q && decide (w / 2 ^ q.shift = q.pfn.toNat * 2 ^ 16 / 2 ^ q.shift)
      | none => false

/-- Accesses and engine lines of a context that may have been translated through an entry of the range and are not performed (R245): engine lines,
a vector instruction with accesses left, accesses to other cubes, a reduction's lines under way, and the DONE, STAT and RES of near-bank commands. -/
def State.inFlight (s : State) (ctx x n : Nat) (all : Bool) : Bool :=
  s.enginesOf ctx
    || s.units.any (fun e => e.2.vec.isSome && decide (s.ctxOf e.1 = ctx))
    || s.outbox.any (s.throughEntry ctx x n all)
    || s.srcKeys.any (fun e => match e.2 with
      | some k => k.unacked.any fun u => s.throughEntry ctx x n all u.pkt
      | none => false)
    || s.banks.any (fun e => match e.2.run with
      | some r => decide (r.cmd.ctx = ctx) && (r.done.toList ++ r.stat.getD [] ++ r.res.getD []).any fun k => !isScratchKey k
      | none => false)
    || s.dies.any fun e => match e.2.redRun with
      | some r => (decide (r.now ≠ []) && r.ptes.any (dropsPte ctx x n all)) || (decide (r.cmd.ctx = ctx) && r.done.any fun k => !isScratchKey k)
      | none => false

/-- The range is dropped in every TLB of the context (R168, R244); a reduction engine translates the pages it has lost again (R288). -/
def State.tlbi (s : State) (ctx x n : Nat) (all : Bool) : State :=
  { s with
    cores := s.cores.filterMap fun e =>
      let k := { e.2 with tlb := e.2.tlb.filter fun t => match t.2 with
        | some p => !dropsPte ctx x n all p
        | none => true }
      if k = {} then none else some (e.1, k)
    dies := s.dies.map fun e => (e.1, { e.2 with redRun := e.2.redRun.map fun r =>
      { r with ptes := r.ptes.filter (fun p => !dropsPte ctx x n all p), lost := r.lost ++ r.ptes.filter (dropsPte ctx x n all) } }) }

/-- A changed entry of the homing-mask table is settled once no TLB holds a translation by it (R236). -/
def State.settleMasks (s : State) (ctx : Nat) : State :=
  let k := s.ctx ctx
  if k.remasked = [] then s
  else s.setCtx ctx { k with remasked := k.remasked.filter fun e => s.cores.any fun c => c.2.tlb.any fun t => match t.2 with
    | some p => p.hmode && decide (p.ctx.toNat = ctx) && decide (p.hval.toNat = e.1)
    | none => false }

/-- TLBI (R168, R169, R245, R282): waits until every access through the range has been performed, then drops the range; bank commands that hold a page
of it stall, and the TLBI completes once they have. -/
def execTlbi (a b : Fin 32) (s : State) : Outcome State Fault Refusal :=
  finish s (do
    let w := (s.me.readX b).toNat
    let all := w.testBit 2
    s.onService
    need (all || decide (bits w 1 0 ≠ 3)) .undef 0
    let ctx := bits w 7 4
    let n := if bits w 1 0 = 0 then 16 else if bits w 1 0 = 1 then 21 else 30
    let x := (s.me.readX a).toNat
    let dropped := decide (s.me.hold.map (·.kind) = some .shootdown)
    if !dropped && s.inFlight ctx x n all then stall .operations
    let s1 := if dropped then s else ((s.tlbi ctx x n all).settleMasks ctx).stallBanks ctx x n all
    if s1.stallPending ctx x n all then .error (.await (s1.holdAt .shootdown 0))
    .ok (s1.retire s1.me 4))

/-- The oldest inbox message of a core's priority and context (R169), and the inbox without it. -/
def takeMessage (ctx : Nat) : List InMsg → Option (InMsg × List InMsg)
  | [] => none
  | m :: t => if m.pkt.ctx = ctx then some (m, t) else (takeMessage ctx t).map fun r => (r.1, m :: r.2)

/-- MBXR (R169): header, envelope and payload of the oldest matching message into the buffer; x[rd] := its length, or 0. -/
def execMbxr (d a b : Fin 32) (s : State) : Outcome State Fault Refusal :=
  finish s (do
    s.onService
    let w := (s.me.readX a).toNat
    let core := bits w 7 0
    let buf := s.me.readX b
    need (decide (buf.toNat % 64 = 0)) .align buf
    let k := s.core core
    match takeMessage (bits w 13 10) (Tab.read [] k.inbox (bits w 9 8)) with
    | none => .ok (s.writeX d 0 4)
    | some (m, rest) => match s.firmwarePlace buf with
      | none => raise .nopage buf
      | some key =>
        let bs := m.pkt.bytes
        let s1 := (s.setCore core { k with inbox := Tab.write [] k.inbox (bits w 9 8) rest }).putBase key bs
        .ok (s1.writeX d (BitVec.ofNat 64 bs.length) 4))

/-- The strand a CTXSV or CTXLD names: core [7:0], strand [10:8]. -/
def saveKey (w : Word) : Nat := unitKey (bits w.toNat 7 0) (bits w.toNat 10 8)

/-- CTXSV (R169, R270): the strand's save record into the slot; nothing else changes. -/
def execCtxsv (a b : Fin 32) (s : State) : Outcome State Fault Refusal :=
  finish s (do
    s.onService
    let slot := s.me.readX b
    match s.firmwarePlace slot with
    | none => raise .nopage slot
    | some key => let s1 := s.putBase key (bytesOfWords (s.saveRecord (saveKey (s.me.readX a))))
                  .ok (s1.retire s1.me 4))

/-- CTXLD (R168, R169, R270): PERM while the core still runs, with the slot's address as ADDR, which R168 leaves open (DESIGN CHOICE, log entry 112); else
the strand is restored. -/
def execCtxld (a b : Fin 32) (s : State) : Outcome State Fault Refusal :=
  finish s (do
    s.onService
    let key := saveKey (s.me.readX a)
    let slot := s.me.readX b
    need (s.unit key).halted .perm slot
    match s.firmwarePlace slot with
    | none => raise .nopage slot
    | some place => let s1 := s.loadRecord key (s.wordsAt place 512)
                    .ok (s1.retire s1.me 4))

/-- GSTOP (R169, R266): a stop begins at once and completes when every party has halted; a resumption completes at once. -/
def execGstop (a : Fin 32) (s : State) : Outcome State Fault Refusal :=
  finish s (do
    s.onService
    let w := (s.me.readX a).toNat
    let ctx := bits w 3 0
    if w.testBit 4 then
      let s1 := s.stopCtx ctx
      .ok (if s1.quietCtx ctx then s1.retire s1.me 4 else s1.holdAt .operations 0)
    else
      let s1 := s.resumeCtx ctx
      .ok (s1.retire s1.me 4))

end Sys2Proof.Machine
end

