-- ==== Sys2Proof/Machine/Quant.lean ====
section
/-! DEFINITION. Quantised blocks in vector registers: BADDQ, BQUANT, QDOT (R211 to R215), on the rule of R212. -/

namespace Sys2Proof.Machine

open Sys2Proof Host

/-- Q4 or Q8: element bits, elements of a block, the greatest element. -/
def blockBits (q4 : Bool) : Nat := if q4 then 4 else 8
def blockSize (q4 : Bool) : Nat := if q4 then 128 else 64
def blockMax (q4 : Bool) : Nat := if q4 then 15 else 255

/-- The headers of operands A and B in x[H] (R211). -/
def headerA (q4 : Bool) (w : Word) : Scale × Nat := if q4 then headerOf false (bits w.toNat 15 0) else headerOf true (bits w.toNat 31 0)
def headerB (q4 : Bool) (w : Word) : Scale × Nat := if q4 then headerOf false (bits w.toNat 47 32) else headerOf true (bits w.toNat 63 32)

/-- A header word of a scale and a zero point (R60). -/
def makeHeader (q4 : Bool) (s12 z : Nat) : Nat := if q4 then s12 * 16 + z else s12 + z * 4096

/-- x / d rounded to an integer, ties to even, d positive. -/
def roundDiv (x : Int) (d : Nat) : Int :=
  let q := x / d
  let r := (x % d).toNat
  if d < 2 * r ∨ (2 * r = d ∧ q % 2 = 1) then q + 1 else q

/-- (n × 2^e) / (m × 2^k) rounded to an integer (R70). -/
def quotient (n : Int) (e : Int) (m : Nat) (k : Int) : Int := roundDiv (n * pow2 (e - k)) (m * pow2 (k - e))

/-- The S12 code whose position among the nonzero scales is k. -/
def s12At (k : Nat) : Nat := 16 + k
/-- m and exponent of a nonzero S12 code (R62). -/
def s12Value (x : Nat) : Nat × Int := (16 + x % 16, (x / 16 : Nat) - 131)

/-- R212 on the exact values v × 2^e: the header, the elements, the flags. -/
def requantise (q4 : Bool) (vs : List Int) (e : Int) : Nat × List Nat × Flags :=
  let qmax := blockMax q4
  let lo := vs.foldl min 0
  let hi := vs.foldl max 0
  if hi = lo then (0, vs.map fun _ => 0, 0)
  else
    let span : Num := .fin false (hi - lo).toNat e
    let found := (List.range 4064).find? fun k =>
      let (m, x) := s12Value (s12At k)
      !(Num.fin false (m * qmax) x).lt span
    let s12 := match found with
      | some k => s12At k
      | none => 0xFEF
    let (m, x) := s12Value s12
    let z := (max 0 (min (qmax : Int) (quotient (-lo) e m x))).toNat
    let qs := vs.map fun v => (max 0 (min (qmax : Int) (quotient v e m x + z))).toNat
    let inexact := (vs.zip qs).any fun p => decide (p.1 * pow2 (e - x) ≠ (((p.2 : Nat) : Int) - z) * m * pow2 (x - e))
    (makeHeader q4 s12 z, qs, flagIf found.isNone flagOF ||| flagIf inexact flagNX)

/-- A poisoned result (R212). -/
def poisonedBlock (q4 : Bool) : Nat × List Nat × Flags := (makeHeader q4 0xFF0 0, List.replicate (blockSize q4) 0, flagNV)

/-- Write a block and its header (R211). -/
def State.writeBlock (s : State) (d : Fin 32) (h : Fin 16) (q4 : Bool) (r : Nat × List Nat × Flags) : State :=
  let u := (s.me.setV d (ofLanes (blockBits q4) r.2.1)).setX ⟨h.val, by omega⟩ (BitVec.ofNat 64 r.1)
  s.retire (u.addFlags r.2.2) 4

/-- Elements of a block. -/
def blockElems (q4 : Bool) (v : Line) : List Nat := (List.range (blockSize q4)).map (lane v (blockBits q4))

/-- A header's scale as m × 2^e; zero for the zero scale. -/
def scaleParts : Scale → Nat × Int
  | .value m e => (m, e)
  | _ => (0, 0)

/-- BADDQ (R213). -/
def execBaddq (d a b : Fin 32) (h : Fin 16) (q : Bool) (s : State) : Outcome State Fault Refusal :=
  let w := s.me.readX ⟨h.val, by omega⟩
  let ha := headerA q w
  let hb := headerB q w
  let r := if ha.1 = .poison ∨ hb.1 = .poison then poisonedBlock q
    else
      let (ma, ea) := scaleParts ha.1
      let (mb, eb) := scaleParts hb.1
      let e := min ea eb
      requantise q (((blockElems q (s.me.readV a)).zip (blockElems q (s.me.readV b))).map fun p =>
        ((p.1 : Int) - ha.2) * (ma * pow2 (ea - e) : Nat) + ((p.2 : Int) - hb.2) * (mb * pow2 (eb - e) : Nat)) e
  .next (s.writeBlock d h q r)

/-- BQUANT (R214): 2 or 4 source registers from `a`; `sz` is the source format, 0 BF16, 1 FP16. -/
def execBquant (d a : Fin 32) (sz : Bool) (h : Fin 16) (q : Bool) (s : State) : Outcome State Fault Refusal :=
  let f := if sz then fp16 else bf16
  let nums := (List.range (blockSize q)).map fun i => f.unpack (lane (s.me.readV ⟨(a.val + i / 32) % 32, by omega⟩) 16 (i % 32))
  let e0 := f.emin - f.mb
  let r := if nums.any (fun x => !x.isFinite) then poisonedBlock q
    else requantise q (nums.map fun x => match x with
      | .fin n m e => signed n (m * pow2 (e - e0))
      | _ => 0) e0
  .next (s.writeBlock d h q r)

/-- QDOT (R215). -/
def execQdot (d a b : Fin 32) (h : Fin 16) (q : Bool) (s : State) : Outcome State Fault Refusal :=
  let w := s.me.readX ⟨h.val, by omega⟩
  let pairs := (blockElems q (s.me.readV a)).zip (blockElems q (s.me.readV b))
  let old := fp64.opnd (s.me.readF d).toNat
  .next (s.writeF d (match groupTerm (headerA q w) (headerB q w) pairs with
    | none => (fp64.qnan, flagNV)
    | some e => fp64.compute s.me.rounding [old] (old.num.add s.me.rounding e)))

end Sys2Proof.Machine
end

