-- ==== Sys2Proof/Machine/Router.lean ====
section
/-! DEFINITION. The stage router (R257 to R262): a released record, a held one, and the reassignment of workers. -/

namespace Sys2Proof.Machine

open Sys2Proof Host

/-! ## Releases (R163, R257, R258) -/

/-- The stage's window after a record left it (R259). -/
def Stage.leave (t : Stage) (pass : Bool) (cycles : Nat) : Stage :=
  { t with window := (t.window ++ [(pass, cycles)]).drop (t.window.length - 255) }

/-- The router's AMO ADD of 1 to RCNT (R258). -/
def State.countReject (s : State) (k : Skein) : State := match k.rcnt with
  | some key => s.cubeWrite key (leBytes 8 (s.word64 key + 1).toNat)
  | none => s

/-- Route a passed record from its stage: its done bit is set; it goes on, or into the hold slot (R163, R257). -/
def Skein.route (k : Skein) (r : SkRec) : Skein :=
  let i := r.stage.toNat
  let r1 := { r with done := r.done ||| BitVec.ofNat 16 (2 ^ i) }
  match k.place (k.candidates i r1.done) with
  | some (j, k1) => k1.insert j r1
  | none => k.setStage i { k.stage i with hold := some r1 }

/-- Releases whose conditions hold, after the earlier ones of their work, reach the router: their points are numbered (R258). -/
def State.reach (s : State) (ctx sid : Nat) : State := match s.skein ctx sid with
  | none => s
  | some k =>
    let (rs, n) := k.releases.foldl (fun (q : List Release × Nat) r =>
      if r.point.isNone && !s.releaseWaits r && !(q.1.any fun x => decide (x.wid = r.wid) && x.point.isNone) then
        (q.1 ++ [{ r with point := some q.2 }], q.2 + 1)
      else (q.1 ++ [r], q.2)) ([], s.fresh)
    if rs = k.releases then s else { s.setSkein ctx sid { k with releases := rs } with fresh := n }

/-- A release that the router can take: its point is reached, and a pass finds its stage's hold slot free. -/
def Skein.takes (k : Skein) (r : Release) : Bool := r.point.isSome && !(r.pass && (k.stage r.record.stage.toNat).hold.isSome)

/-- Releases whose conditions now hold reach their routers (R258). -/
def State.settleRouters (s : State) : State :=
  s.ctxs.foldl (fun (t : State) c => c.2.skeins.foldl (fun (q : State) k => q.reach c.1 k.1) t) s

/-- The skeins that the stage router of a die serves (R255, R258): those whose SID is the die's number modulo 4, of every context that is in. -/
def State.routerSkeins (s : State) (d : Nat) : List Skein :=
  (s.ctxs.filter fun c => !s.isOut c.1).flatMap fun c => c.2.skeins.filterMap fun e => if e.1 % 4 = d then e.2 else none

/-- No release that a die's router could take has an earlier point. -/
def State.firstPoint (s : State) (d point : Nat) : Bool := (s.routerSkeins d).all fun k => k.releases.all fun x => !k.takes x || decide (point ≤ x.point.getD 0)

/-- The release of a skein that its router routes next (R258): the earliest of all the router's skeins by its point, one per cc. -/
def State.dueRelease (s : State) (sid : Nat) (k : Skein) : Option Nat :=
  if (s.die (sid % 4)).routedAt = some s.cycle then none
  else k.releases.findIdx? fun r => k.takes r && s.firstPoint (sid % 4) (r.point.getD 0)

/-- ROUTER_RELEASE (R163, R258): the release that is due is routed. -/
def execRouterRelease (s : State) : Outcome State Fault Refusal :=
  .next (
    let ctx := s.inp.ctx
    let sid := s.inp.index
    let n := s.inp.index2
    let s0 := s.settleRouters
    match s0.skein ctx sid with
    | none => s
    | some k =>
      if s.isOut ctx || decide (s0.dueRelease sid k ≠ some n) then s
      else match k.releases[n]? with
        | none => s
        | some rel =>
          let i := rel.record.stage.toNat
          let k1 := { k with releases := k.releases.eraseIdx n }
          let k2 := k1.setStage i ((k1.stage i).leave rel.pass (s.cycle - rel.since))
          let s1 := s0.setDie (sid % 4) { s0.die (sid % 4) with routedAt := some s.cycle }
          if rel.pass then s1.setSkein ctx sid (k2.flush.route rel.record)
          else ((s1.setSkein ctx sid k2).discardPly ctx rel.record.ply).countReject k)

/-- HOLD_SLOT_ROUTE (R257): room has appeared for a held record. -/
def execHoldSlotRoute (s : State) : Outcome State Fault Refusal :=
  .next (
    let ctx := s.inp.ctx
    let sid := s.inp.index
    let i := s.inp.slot
    match s.skein ctx sid with
    | none => s
    | some k => match (k.stage i).hold with
      | none => s
      | some r =>
        if s.isOut ctx then s
        else match k.place (k.candidates i r.done) with
          | some (j, k1) => s.setSkein ctx sid ((k1.setStage i { k1.stage i with hold := none }).insert j r)
          | none => s)

/-! ## Reassignment (R262) -/

/-- Stages with records, in descending occupancy, ties to the lower number. -/
def Skein.byOccupancy (k : Skein) : List Nat :=
  let occ (i : Nat) : Nat := (k.stage i).bobbin.length
  let ins (l : List Nat) (i : Nat) : List Nat := (l.takeWhile fun j => decide (occ i ≤ occ j)) ++ [i] ++ (l.dropWhile fun j => decide (occ i ≤ occ j))
  ((List.range k.nstg).filter fun i => decide (occ i ≠ 0)).foldl ins []

/-- Give one worker to each stage of a list for which a test holds, while workers are left. -/
def raiseOne (test : Nat → Bool) : List Nat → List Nat → Nat → List Nat × Nat
  | [], a, left => (a, left)
  | i :: t, a, left => if left ≠ 0 ∧ test (a.getD i 0) then raiseOne test t (a.set i (a.getD i 0 + 1)) (left - 1) else raiseOne test t a left

/-- Rounds over the occupied stages until no worker is left. -/
def raiseAll (order : List Nat) : Nat → List Nat → Nat → List Nat
  | 0, a, _ => a
  | f + 1, a, left => if left = 0 ∨ order = [] then a else
      let (b, l) := raiseOne (fun _ => true) order a left
      raiseAll order f b l

/-- The allotment of w workers (R262, steps 2 to 4). -/
def Skein.allotment (k : Skein) (w : Nat) : List Nat :=
  let occ (i : Nat) : Nat := (k.stage i).bobbin.length
  let sum := ((List.range k.nstg).map occ).sum
  let a := (List.range k.nstg).map fun i => w * occ i / sum
  let order := k.byOccupancy
  let (b, left) := raiseOne (fun n => decide (n = 0)) order a (w - a.sum)
  raiseAll order w b left

/-- Parked workers that move, one after the other (R262, step 5): the workers now at each stage, the allotment, the pool slots by core. -/
def moveParked (a : List Nat) : List Nat → List (Nat × Nat × Nat) → List (Nat × Nat × Nat)
  | _, [] => []
  | have_, (core, slot, i) :: t =>
    if a.getD i 0 < have_.getD i 0 then match (List.range a.length).find? fun j => decide (have_.getD j 0 < a.getD j 0) with
      | some j => (core, slot, j) :: moveParked a ((have_.set i (have_.getD i 0 - 1)).set j (have_.getD j 0 + 1)) t
      | none => moveParked a have_ t
    else moveParked a have_ t

/-- Workers parked at the skein's stages, in ascending order of core and slot, with their stages. -/
def State.parkedWorkers (s : State) (ctx sid : Nat) : List (Nat × Nat × Nat) :=
  s.cores.flatMap fun c => if s.inPartition ctx c.1 then c.2.slots.filterMap fun e => match e.2 with
    | some x => match x.park with
      | .bobbin sid' i => if sid' = sid ∧ i ≠ 16 then some (c.1, e.1, i) else none
      | _ => none
    | none => none else []

/-- WORKER_REASSIGNMENT (R262): 4,096 cc after the last one. -/
def execWorkerReassignment (s : State) : Outcome State Fault Refusal :=
  .next (
    let ctx := s.inp.ctx
    let sid := s.inp.index
    let s0 := s.settleRouters
    match s0.skein ctx sid with
    | none => s
    | some k =>
      if s.isOut ctx || decide (s.cycle < k.reassigned + 4096) || (s0.dueRelease sid k).isSome then s
      else
        let k1 := { k with reassigned := k.reassigned + 4096 }
        if k.byOccupancy = [] then s.setSkein ctx sid k1
        else
          let now := (List.range k.nstg).map (s.workersOf ctx sid)
          let a := k.allotment now.sum
          (moveParked a now (s.parkedWorkers ctx sid)).foldl (fun (t : State) m => match Tab.read none (t.core m.1).slots m.2.1 with
            | some e => t.setSlot m.1 m.2.1 (some { e with park := .bobbin sid m.2.2, worker := some ⟨sid, m.2.2⟩ })
            | none => t) (s.setSkein ctx sid { k1 with allot := a }))

end Sys2Proof.Machine
end

