-- ==== Sys2Proof/Machine/Short.lean ====
section
/-! DEFINITION. The 16-bit forms (R81): each performs the 32-bit instruction it expands to, with a length of 2 bytes. -/

namespace Sys2Proof.Machine

open Sys2Proof Host

/-- C.NOP (R81): ADDI x0, x0, 0. -/
def execCNop (s : State) : Outcome State Fault Refusal := .next (s.opImm 0 0 0 (fun x y => x + y) 2)

/-- C.MRET (R81, R151): MRET x0, x0. -/
def execCMret (s : State) : Outcome State Fault Refusal := finish s (s.mret 0 0)

/-- C.YIELD (R81, R158). -/
def execCYield (s : State) : Outcome State Fault Refusal := finish s (s.yieldForm 2)

/-- C.TEXIT (R81, R158). -/
def execCTexit (s : State) : Outcome State Fault Refusal := finish s s.texit

/-- C.MV (R81): OR rd, x0, rs. -/
def execCMv (d sz : Fin 32) (s : State) : Outcome State Fault Refusal := .next (s.op2 d 0 sz (fun x y => x ||| y) 2)

/-- C.ADD (R81): ADD rd, rd, rs. -/
def execCAdd (d sz : Fin 32) (s : State) : Outcome State Fault Refusal := .next (s.op2 d d sz (fun x y => x + y) 2)

/-- C.ADDI (R81): imm6 signed. -/
def execCAddi (d : Fin 32) (im : BitVec 6) (s : State) : Outcome State Fault Refusal :=
  .next (s.opImm d d (im.signExtend 64) (fun x y => x + y) 2)

/-- C.SUB (R81): SUB rd, rd, rs. -/
def execCSub (d sz : Fin 32) (s : State) : Outcome State Fault Refusal := .next (s.op2 d d sz (fun x y => x - y) 2)

/-- C.AND (R81): AND rd, rd, rs. -/
def execCAnd (d sz : Fin 32) (s : State) : Outcome State Fault Refusal := .next (s.op2 d d sz (fun x y => x &&& y) 2)

/-- C.SHLI (R81). -/
def execCShli (d : Fin 32) (h : Fin 64) (s : State) : Outcome State Fault Refusal := .next (s.op1 d d (fun x => x <<< h.val) 2)

/-- x8 to x15, as C.LD and C.ST name them (R81). -/
def shortReg (r : Fin 8) : Fin 32 := ⟨r.val + 8, by omega⟩

/-- C.LD (R81): LD.D with an offset of 0 to 248. -/
def execCLd (d b : Fin 8) (o : Fin 32) (s : State) : Outcome State Fault Refusal :=
  finish s (s.loadForm (s.ea (shortReg b) (BitVec.ofNat 64 (o.val * 8))) 8 true (.x (shortReg d)) s.myTag false 2)

/-- C.ST (R81): ST.D with an offset of 0 to 248. -/
def execCSt (d b : Fin 8) (o : Fin 32) (s : State) : Outcome State Fault Refusal :=
  finish s (s.storeForm (s.ea (shortReg b) (BitVec.ofNat 64 (o.val * 8))) 8 (s.me.readX (shortReg d)) s.myTag 2)

/-- C.BZ (R81): BC.EQ ra, x0. -/
def execCBz (a : Fin 32) (o : BitVec 6) (s : State) : Outcome State Fault Refusal :=
  .next (s.branch (s.me.readX a == 0) (o.signExtend 64) 2)

/-- C.BNZ (R81): BC.NE ra, x0. -/
def execCBnz (a : Fin 32) (o : BitVec 6) (s : State) : Outcome State Fault Refusal :=
  .next (s.branch (s.me.readX a != 0) (o.signExtend 64) 2)

/-- C.J (R81): JL x0. -/
def execCJ (o : BitVec 11) (s : State) : Outcome State Fault Refusal :=
  .next (s.retireTo s.me (s.me.pc + o.signExtend 64 + o.signExtend 64))

/-- A C.WAIT bit as a WAIT field: 0 or 15 (R81). -/
def shortWait (m : BitVec 5) (i : Nat) : Fin 16 := if m.getLsbD i then 0 else 15

/-- C.WAIT (R81): waits for zero on each selected counter. -/
def execCWait (m : BitVec 5) (s : State) : Outcome State Fault Refusal :=
  finish s (s.waitForm (shortWait m 0) (shortWait m 1) (shortWait m 2) (shortWait m 3) (shortWait m 4) 2)

/-- C.LDFE (R81): LDFE rd, 0(xB). -/
def execCLdfe (d b : Fin 32) (s : State) : Outcome State Fault Refusal := finish s (s.loadFull (s.me.readX b) d true 2)

/-- C.STEF (R81): STEF rs, 0(xB). -/
def execCStef (d b : Fin 32) (s : State) : Outcome State Fault Refusal := finish s (s.storeEmpty (s.me.readX b) (s.me.readX d) 2)

end Sys2Proof.Machine
end

