-- ==== Sys2Proof/Machine/TraceEv.lean ====
section
/-! DEFINITION. Trace buffers drained and sampled (R322), and the gating of clusters (R324, R325). -/

namespace Sys2Proof.Machine

open Sys2Proof Host

def TraceRec.bytes (r : TraceRec) : List Byte := bytesOfWords [r.w0, r.w1, r.w2, r.w3]

/-- One record into its context's ring; one that does not fit is lost (R324; when the ring is full is DEDUCED, log entry 27). -/
def State.drainRecord (s : State) (ctx : Nat) (r : TraceRec) : State :=
  let k := s.ctx ctx
  if k.trWrite + 32 ≤ k.trsize.toNat then
    (s.putPhys (k.trbase.toNat + k.trWrite) 2 r.bytes).setCtx ctx { k with trWrite := k.trWrite + 32 }
  else s.setCtx ctx { k with trlost := k.trlost + 1 }

/-- Every record of a cluster's buffer. -/
def State.drainTrace (s : State) (c : Nat) : State :=
  let k := s.cluster c
  match k.ctx with
  | some ctx => (k.trace.foldl (fun (t : State) r => t.drainRecord ctx r) s).setCluster c { k with trace := [] }
  | none => s.setCluster c { k with trace := [] }

/-- TRACE_DRAIN (R322). -/
def execTraceDrain (s : State) : Outcome State Fault Refusal := .next (s.drainTrace s.inp.part)

/-- Of every 2^TRCTL[15:8] instructions of a core the one that is tagged; which one is open (R322: at random). -/
def Core.tags (k : Core) (core : Nat) (trctl : Word) : Bool :=
  let n := 2 ^ bits trctl.toNat 15 8
  decide (k.sampled % n = Config.pick core (k.sampled / n) % n)

/-- An instruction of a task core has issued while its context samples (TRCTL [1]): it is counted, and tagged or not (R322). `pc` is its address,
`w0` word 0 of its record, with the activation during which it issued. -/
def State.countSample (s : State) (key : Nat) (pc w0 : Word) : State :=
  let trctl := (s.ctx (s.ctxOf key)).trctl
  if trctl.getLsbD 1 then
    let k := s.core (coreOf key)
    s.setCore (coreOf key) { k with sampled := k.sampled + 1, sampleDue := if k.tags (coreOf key) trctl then k.sampleDue ++ [(key, pc, w0)] else k.sampleDue }
  else s

/-- TRACE_SAMPLE (R322): the oldest tagged instruction of a core retires, once a result from another cube has come; its cycle counts are what the core
measured (word 1). -/
def execTraceSample (s : State) : Outcome State Fault Refusal :=
  .next (
    let core := s.inp.core
    match (s.core core).sampleDue with
    | (key, pc, w0) :: rest =>
      if (s.unit key).remote.isSome then s
      else (s.setCore core { s.core core with sampleDue := rest }).traceWith key w0 pc (s.inp.word1 &&& 0x0FFFFFFFFFFFFFFF)
    | [] => s)

/-- A cluster is idle (R325). -/
def State.clusterIdle (s : State) (c : Nat) : Bool :=
  let k := s.cluster c
  k.holder.isNone && ((List.range 8).all fun i =>
      let core := c * 8 + i
      let q := s.core core
      (unitsOfCore core).all (fun u => decide ((s.unit u).st = .idle) && !(s.unit u).busy)
        && q.runq.all (fun e => e.2.isEmpty) && (readySpills q).isEmpty && q.inbox.all fun e => e.2.isEmpty)
    && s.ops.all (fun o => !decide (clusterOf o.party = c))
    && s.banks.all (fun b => b.2.inbox.all (fun m => !decide (m.core / 8 = c)) && b.2.run.all fun r => !decide (r.cmd.core / 8 = c))
    && s.dies.all fun d => d.2.redInbox.all (fun m => !decide (m.core / 8 = c)) && d.2.redRun.all fun r => !decide (r.cmd.core / 8 = c)

/-- CLUSTER_GATE (R324, R325): without a context, or idle for 100 µs, after its trace buffer is drained. -/
def execClusterGate (s : State) : Outcome State Fault Refusal :=
  .next (
    let c := s.inp.part % 32
    let k := s.cluster c
    if k.gated then s
    else if k.ctx.isNone ∨ (s.clusterIdle c ∧ 180000 ≤ s.cycle - k.idleSince) then
      let s1 := s.drainTrace c
      s1.setCluster c { s1.cluster c with gated := true }
    else s)

/-- The cluster that an arrival is for: that of the core which takes it, where its address says so (R236), else that of the unit it names. -/
def State.arrivalCluster (s : State) (p : Packet) : Option Nat :=
  if p.homed.isSome then (s.serverCore p).map (· / 8) else (unitKeyOf p.dunit).map clusterOf

/-- An arrival is on its way to a unit of a cluster. -/
def State.arrivalFor (s : State) (c : Nat) : Bool := s.inner.any fun p => decide (s.arrivalCluster p = some c)

/-- CLUSTER_UNGATE (R325): the first arrival, or with the flag an access that reaches no unit's inbox. -/
def execClusterUngate (s : State) : Outcome State Fault Refusal :=
  .next (
    let c := s.inp.part % 32
    if (s.cluster c).gated ∧ (s.arrivalFor c ∨ s.inp.flag) then s.ungate c else s)

end Sys2Proof.Machine
end

