-- ==== Sys2Proof/Machine/Dispatch.lean ====
section
/-! DEFINITION. One arm for each row of the opcode table: the meaning it calls. -/

namespace Sys2Proof.Machine

open Sys2Proof

/-- What an instruction or a step of the machine does to a state. -/
def exec (i : Instr) (s : State) : Host.Outcome State Fault Refusal :=
  match i with
  | .add d a b => Sys2Proof.Machine.execAdd d a b s
  | .sub d a b => Sys2Proof.Machine.execSub d a b s
  | .and d a b => Sys2Proof.Machine.execAnd d a b s
  | .or d a b => Sys2Proof.Machine.execOr d a b s
  | .xor d a b => Sys2Proof.Machine.execXor d a b s
  | .andn d a b => Sys2Proof.Machine.execAndn d a b s
  | .shl d a b => Sys2Proof.Machine.execShl d a b s
  | .shr d a b => Sys2Proof.Machine.execShr d a b s
  | .sha d a b => Sys2Proof.Machine.execSha d a b s
  | .rot d a b => Sys2Proof.Machine.execRot d a b s
  | .min d a b => Sys2Proof.Machine.execMin d a b s
  | .max d a b => Sys2Proof.Machine.execMax d a b s
  | .minu d a b => Sys2Proof.Machine.execMinu d a b s
  | .maxu d a b => Sys2Proof.Machine.execMaxu d a b s
  | .slt d a b => Sys2Proof.Machine.execSlt d a b s
  | .sltu d a b => Sys2Proof.Machine.execSltu d a b s
  | .seq d a b => Sys2Proof.Machine.execSeq d a b s
  | .sel d a b c => Sys2Proof.Machine.execSel d a b c s
  | .mul d a b => Sys2Proof.Machine.execMul d a b s
  | .mulh d a b => Sys2Proof.Machine.execMulh d a b s
  | .mulhu d a b => Sys2Proof.Machine.execMulhu d a b s
  | .div d a b => Sys2Proof.Machine.execDiv d a b s
  | .divu d a b => Sys2Proof.Machine.execDivu d a b s
  | .rem d a b => Sys2Proof.Machine.execRem d a b s
  | .remu d a b => Sys2Proof.Machine.execRemu d a b s
  | .clz d a => Sys2Proof.Machine.execClz d a s
  | .ctz d a => Sys2Proof.Machine.execCtz d a s
  | .popc d a => Sys2Proof.Machine.execPopc d a s
  | .brev d a => Sys2Proof.Machine.execBrev d a s
  | .bext d a b => Sys2Proof.Machine.execBext d a b s
  | .bins d a b => Sys2Proof.Machine.execBins d a b s
  | .addi d a im => Sys2Proof.Machine.execAddi d a im s
  | .andi d a im => Sys2Proof.Machine.execAndi d a im s
  | .ori d a im => Sys2Proof.Machine.execOri d a im s
  | .xori d a im => Sys2Proof.Machine.execXori d a im s
  | .slti d a im => Sys2Proof.Machine.execSlti d a im s
  | .sltiu d a im => Sys2Proof.Machine.execSltiu d a im s
  | .shli d a sz => Sys2Proof.Machine.execShli d a sz s
  | .shri d a sz => Sys2Proof.Machine.execShri d a sz s
  | .shai d a sz => Sys2Proof.Machine.execShai d a sz s
  | .lih d im => Sys2Proof.Machine.execLih d im s
  | .adpc d im => Sys2Proof.Machine.execAdpc d im s
  | .bcEq a b o => Sys2Proof.Machine.execBcEq a b o s
  | .bcNe a b o => Sys2Proof.Machine.execBcNe a b o s
  | .bcLt a b o => Sys2Proof.Machine.execBcLt a b o s
  | .bcGe a b o => Sys2Proof.Machine.execBcGe a b o s
  | .bcLtu a b o => Sys2Proof.Machine.execBcLtu a b o s
  | .bcGeu a b o => Sys2Proof.Machine.execBcGeu a b o s
  | .jl d o => Sys2Proof.Machine.execJl d o s
  | .jlr d a im => Sys2Proof.Machine.execJlr d a im s
  | .loop a o => Sys2Proof.Machine.execLoop a o s
  | .bmAny m o => Sys2Proof.Machine.execBmAny m o s
  | .bmAll m o => Sys2Proof.Machine.execBmAll m o s
  | .bmNone m o => Sys2Proof.Machine.execBmNone m o s
  | .ld d b sz o => Sys2Proof.Machine.execLd d b sz o s
  | .ldPly d b sz p o => Sys2Proof.Machine.execLdPly d b sz p o s
  | .st d b sz o => Sys2Proof.Machine.execSt d b sz o s
  | .stPly d b sz p o => Sys2Proof.Machine.execStPly d b sz p o s
  | .ldfe d b o => Sys2Proof.Machine.execLdfe d b o s
  | .ldff d b o => Sys2Proof.Machine.execLdff d b o s
  | .feget d b o => Sys2Proof.Machine.execFeget d b o s
  | .ldx d b sz p o => Sys2Proof.Machine.execLdx d b sz p o s
  | .stef d b o => Sys2Proof.Machine.execStef d b o s
  | .stff d b o => Sys2Proof.Machine.execStff d b o s
  | .feset d b o => Sys2Proof.Machine.execFeset d b o s
  | .amoAdd d a b c z => Sys2Proof.Machine.execAmoAdd d a b c z s
  | .amoMin d a b c z => Sys2Proof.Machine.execAmoMin d a b c z s
  | .amoMax d a b c z => Sys2Proof.Machine.execAmoMax d a b c z s
  | .amoMinu d a b c z => Sys2Proof.Machine.execAmoMinu d a b c z s
  | .amoMaxu d a b c z => Sys2Proof.Machine.execAmoMaxu d a b c z s
  | .amoAnd d a b c z => Sys2Proof.Machine.execAmoAnd d a b c z s
  | .amoOr d a b c z => Sys2Proof.Machine.execAmoOr d a b c z s
  | .amoXor d a b c z => Sys2Proof.Machine.execAmoXor d a b c z s
  | .amoSwap d a b c z => Sys2Proof.Machine.execAmoSwap d a b c z s
  | .amoFadd d a b c z => Sys2Proof.Machine.execAmoFadd d a b c z s
  | .cas d a b c => Sys2Proof.Machine.execCas d a b c s
  | .rlk d a c => Sys2Proof.Machine.execRlk d a c s
  | .rlkT d a c => Sys2Proof.Machine.execRlkT d a c s
  | .wlk d a c => Sys2Proof.Machine.execWlk d a c s
  | .wlkT d a c => Sys2Proof.Machine.execWlkT d a c s
  | .runlk d a c => Sys2Proof.Machine.execRunlk d a c s
  | .wunlk d a c => Sys2Proof.Machine.execWunlk d a c s
  | .fence c k => Sys2Proof.Machine.execFence c k s
  | .wait l sz c t m => Sys2Proof.Machine.execWait l sz c t m s
  | .pref h a o => Sys2Proof.Machine.execPref h a o s
  | .tmld t a o => Sys2Proof.Machine.execTmld t a o s
  | .plynew d => Sys2Proof.Machine.execPlynew d s
  | .plynewNb d => Sys2Proof.Machine.execPlynewNb d s
  | .plyset a => Sys2Proof.Machine.execPlyset a s
  | .plyget d => Sys2Proof.Machine.execPlyget d s
  | .plyretC a => Sys2Proof.Machine.execPlyretC a s
  | .plyretD a => Sys2Proof.Machine.execPlyretD a s
  | .plyqry d a => Sys2Proof.Machine.execPlyqry d a s
  | .fadd d a b p => Sys2Proof.Machine.execFadd d a b p s
  | .fsub d a b p => Sys2Proof.Machine.execFsub d a b p s
  | .fmul d a b p => Sys2Proof.Machine.execFmul d a b p s
  | .fdiv d a b p => Sys2Proof.Machine.execFdiv d a b p s
  | .fsqrt d a p => Sys2Proof.Machine.execFsqrt d a p s
  | .fmin d a b p => Sys2Proof.Machine.execFmin d a b p s
  | .fmax d a b p => Sys2Proof.Machine.execFmax d a b p s
  | .fcmp d a b p k => Sys2Proof.Machine.execFcmp d a b p k s
  | .fsgn d a b p => Sys2Proof.Machine.execFsgn d a b p s
  | .fsgnN d a b p => Sys2Proof.Machine.execFsgnN d a b p s
  | .fsgnX d a b p => Sys2Proof.Machine.execFsgnX d a b p s
  | .fclass d a p => Sys2Proof.Machine.execFclass d a p s
  | .fmv d a => Sys2Proof.Machine.execFmv d a s
  | .fmvX d a => Sys2Proof.Machine.execFmvX d a s
  | .fmvF d a => Sys2Proof.Machine.execFmvF d a s
  | .fma d a b c p => Sys2Proof.Machine.execFma d a b c p s
  | .fms d a b c p => Sys2Proof.Machine.execFms d a b c p s
  | .fnma d a b c p => Sys2Proof.Machine.execFnma d a b c p s
  | .fnms d a b c p => Sys2Proof.Machine.execFnms d a b c p s
  | .fcvt d a t sz => Sys2Proof.Machine.execFcvt d a t sz s
  | .vaddI d a b w m => Sys2Proof.Machine.execVaddI d a b w m s
  | .vsubI d a b w m => Sys2Proof.Machine.execVsubI d a b w m s
  | .vmulI d a b w m => Sys2Proof.Machine.execVmulI d a b w m s
  | .vminI d a b w m => Sys2Proof.Machine.execVminI d a b w m s
  | .vmaxI d a b w m => Sys2Proof.Machine.execVmaxI d a b w m s
  | .vminUi d a b w m => Sys2Proof.Machine.execVminUi d a b w m s
  | .vmaxUi d a b w m => Sys2Proof.Machine.execVmaxUi d a b w m s
  | .vand d a b w m => Sys2Proof.Machine.execVand d a b w m s
  | .vor d a b w m => Sys2Proof.Machine.execVor d a b w m s
  | .vxor d a b w m => Sys2Proof.Machine.execVxor d a b w m s
  | .vshl d a b w m => Sys2Proof.Machine.execVshl d a b w m s
  | .vshr d a b w m => Sys2Proof.Machine.execVshr d a b w m s
  | .vsha d a b w m => Sys2Proof.Machine.execVsha d a b w m s
  | .vcmpI n k a b w m => Sys2Proof.Machine.execVcmpI n k a b w m s
  | .vcmpUi n k a b w m => Sys2Proof.Machine.execVcmpUi n k a b w m s
  | .vsel d a b w m => Sys2Proof.Machine.execVsel d a b w m s
  | .vaddF d a b w m => Sys2Proof.Machine.execVaddF d a b w m s
  | .vsubF d a b w m => Sys2Proof.Machine.execVsubF d a b w m s
  | .vmulF d a b w m => Sys2Proof.Machine.execVmulF d a b w m s
  | .vdiv d a b w m => Sys2Proof.Machine.execVdiv d a b w m s
  | .vsqrt d a w m => Sys2Proof.Machine.execVsqrt d a w m s
  | .vminF d a b w m => Sys2Proof.Machine.execVminF d a b w m s
  | .vmaxF d a b w m => Sys2Proof.Machine.execVmaxF d a b w m s
  | .vcmpF n k a b w m => Sys2Proof.Machine.execVcmpF n k a b w m s
  | .vfma d a b w m => Sys2Proof.Machine.execVfma d a b w m s
  | .vfms d a b w m => Sys2Proof.Machine.execVfms d a b w m s
  | .vdotBf16 d a b m => Sys2Proof.Machine.execVdotBf16 d a b m s
  | .vdotF16 d a b m => Sys2Proof.Machine.execVdotF16 d a b m s
  | .vdotI8 d a b m => Sys2Proof.Machine.execVdotI8 d a b m s
  | .vdotUi8 d a b m => Sys2Proof.Machine.execVdotUi8 d a b m s
  | .vdotF32 d a b m => Sys2Proof.Machine.execVdotF32 d a b m s
  | .vld d a w m => Sys2Proof.Machine.execVld d a w m s
  | .vst d a w m => Sys2Proof.Machine.execVst d a w m s
  | .vlds d a b w m => Sys2Proof.Machine.execVlds d a b w m s
  | .vsts d a b w m => Sys2Proof.Machine.execVsts d a b w m s
  | .vgath d a b w m => Sys2Proof.Machine.execVgath d a b w m s
  | .vscat d a b w m => Sys2Proof.Machine.execVscat d a b w m s
  | .vldx d a b w m => Sys2Proof.Machine.execVldx d a b w m s
  | .vperm d a b w m => Sys2Proof.Machine.execVperm d a b w m s
  | .vbcastX d a w m => Sys2Proof.Machine.execVbcastX d a w m s
  | .vbcastF d a w m => Sys2Proof.Machine.execVbcastF d a w m s
  | .vred d a o w m => Sys2Proof.Machine.execVred d a o w m s
  | .vext d a b w => Sys2Proof.Machine.execVext d a b w s
  | .vins d a b w => Sys2Proof.Machine.execVins d a b w s
  | .vcvt d a t sz m => Sys2Proof.Machine.execVcvt d a t sz m s
  | .mand d a b => Sys2Proof.Machine.execMand d a b s
  | .mor d a b => Sys2Proof.Machine.execMor d a b s
  | .mxor d a b => Sys2Proof.Machine.execMxor d a b s
  | .mnot d a => Sys2Proof.Machine.execMnot d a s
  | .mpop d a => Sys2Proof.Machine.execMpop d a s
  | .mfirst d a => Sys2Proof.Machine.execMfirst d a s
  | .mset d a => Sys2Proof.Machine.execMset d a s
  | .mget d a => Sys2Proof.Machine.execMget d a s
  | .send r a b c => Sys2Proof.Machine.execSend r a b c s
  | .sendv r a b => Sys2Proof.Machine.execSendv r a b s
  | .mret a b => Sys2Proof.Machine.execMret a b s
  | .enq d a b => Sys2Proof.Machine.execEnq d a b s
  | .deq a b => Sys2Proof.Machine.execDeq a b s
  | .deqNb d a b => Sys2Proof.Machine.execDeqNb d a b s
  | .esend a b => Sys2Proof.Machine.execEsend a b s
  | .tspawn b => Sys2Proof.Machine.execTspawn b s
  | .tspawnA a b => Sys2Proof.Machine.execTspawnA a b s
  | .tspawnW d b c => Sys2Proof.Machine.execTspawnW d b c s
  | .tspawnAW d a b c => Sys2Proof.Machine.execTspawnAW d a b c s
  | .tdec a b => Sys2Proof.Machine.execTdec a b s
  | .gang a => Sys2Proof.Machine.execGang a s
  | .mbxw a => Sys2Proof.Machine.execMbxw a s
  | .bobenq d a b c => Sys2Proof.Machine.execBobenq d a b c s
  | .bobdeq a => Sys2Proof.Machine.execBobdeq a s
  | .recqry d a => Sys2Proof.Machine.execRecqry d a s
  | .tcfg t a => Sys2Proof.Machine.execTcfg t a s
  | .tcfgr d t e => Sys2Proof.Machine.execTcfgr d t e s
  | .leaseT d => Sys2Proof.Machine.execLeaseT d s
  | .tstate d t => Sys2Proof.Machine.execTstate d t s
  | .tzero t => Sys2Proof.Machine.execTzero t s
  | .astat d a => Sys2Proof.Machine.execAstat d a s
  | .mmaBf16 c a b z => Sys2Proof.Machine.execMmaBf16 c a b z s
  | .mmaF16 c a b z => Sys2Proof.Machine.execMmaF16 c a b z s
  | .mmaF64 c a b z => Sys2Proof.Machine.execMmaF64 c a b z s
  | .mmaQ8 c a b z => Sys2Proof.Machine.execMmaQ8 c a b z s
  | .mmaQ4 c a b z => Sys2Proof.Machine.execMmaQ4 c a b z s
  | .mmaQ4b c a b z => Sys2Proof.Machine.execMmaQ4b c a b z s
  | .mmaQ8b c a b z => Sys2Proof.Machine.execMmaQ8b c a b z s
  | .mmaF32r c a b z => Sys2Proof.Machine.execMmaF32r c a b z s
  | .mmsBf16 c a b z p => Sys2Proof.Machine.execMmsBf16 c a b z p s
  | .mmsQ8 c a b z p => Sys2Proof.Machine.execMmsQ8 c a b z p s
  | .acvt t a o m r => Sys2Proof.Machine.execAcvt t a o m r s
  | .azero c a => Sys2Proof.Machine.execAzero c a s
  | .tld t m o => Sys2Proof.Machine.execTld t m o s
  | .tst t m o => Sys2Proof.Machine.execTst t m o s
  | .tstF t m o => Sys2Proof.Machine.execTstF t m o s
  | .cpy d sz c => Sys2Proof.Machine.execCpy d sz c s
  | .gath d sz im c => Sys2Proof.Machine.execGath d sz im c s
  | .coll d sz k => Sys2Proof.Machine.execColl d sz k s
  | .baddq d a b h q => Sys2Proof.Machine.execBaddq d a b h q s
  | .bquant d a sz h q => Sys2Proof.Machine.execBquant d a sz h q s
  | .qdot d a b h q => Sys2Proof.Machine.execQdot d a b h q s
  | .trap a k => Sys2Proof.Machine.execTrap a k s
  | .svc d a k => Sys2Proof.Machine.execSvc d a k s
  | .srr d im => Sys2Proof.Machine.execSrr d im s
  | .srw a im => Sys2Proof.Machine.execSrw a im s
  | .tstamp d a => Sys2Proof.Machine.execTstamp d a s
  | .idle a => Sys2Proof.Machine.execIdle a s
  | .hnote a => Sys2Proof.Machine.execHnote a s
  | .tlbw a b c => Sys2Proof.Machine.execTlbw a b c s
  | .tlbi a b => Sys2Proof.Machine.execTlbi a b s
  | .mbxr d a b => Sys2Proof.Machine.execMbxr d a b s
  | .ctxsv a b => Sys2Proof.Machine.execCtxsv a b s
  | .ctxld a b => Sys2Proof.Machine.execCtxld a b s
  | .gstop a => Sys2Proof.Machine.execGstop a s
  | .cMv d sz => Sys2Proof.Machine.execCMv d sz s
  | .cAdd d sz => Sys2Proof.Machine.execCAdd d sz s
  | .cAddi d im => Sys2Proof.Machine.execCAddi d im s
  | .cSub d sz => Sys2Proof.Machine.execCSub d sz s
  | .cAnd d sz => Sys2Proof.Machine.execCAnd d sz s
  | .cShli d h => Sys2Proof.Machine.execCShli d h s
  | .cLd d b o => Sys2Proof.Machine.execCLd d b o s
  | .cSt d b o => Sys2Proof.Machine.execCSt d b o s
  | .cBz a o => Sys2Proof.Machine.execCBz a o s
  | .cBnz a o => Sys2Proof.Machine.execCBnz a o s
  | .cJ o => Sys2Proof.Machine.execCJ o s
  | .cWait m => Sys2Proof.Machine.execCWait m s
  | .cLdfe d b => Sys2Proof.Machine.execCLdfe d b s
  | .cStef d b => Sys2Proof.Machine.execCStef d b s
  | .yield => Sys2Proof.Machine.execYield s
  | .texit => Sys2Proof.Machine.execTexit s
  | .recdoneP => Sys2Proof.Machine.execRecdoneP s
  | .recdoneJ => Sys2Proof.Machine.execRecdoneJ s
  | .lease => Sys2Proof.Machine.execLease s
  | .lrel => Sys2Proof.Machine.execLrel s
  | .bkpt => Sys2Proof.Machine.execBkpt s
  | .cNop => Sys2Proof.Machine.execCNop s
  | .cMret => Sys2Proof.Machine.execCMret s
  | .cYield => Sys2Proof.Machine.execCYield s
  | .cTexit => Sys2Proof.Machine.execCTexit s
  | .recordPickup => Sys2Proof.Machine.execRecordPickup s
  | .stealScan => Sys2Proof.Machine.execStealScan s
  | .stealScanRetry => Sys2Proof.Machine.execStealScanRetry s
  | .spill => Sys2Proof.Machine.execSpill s
  | .spillReadyTimeout => Sys2Proof.Machine.execSpillReadyTimeout s
  | .spillResume => Sys2Proof.Machine.execSpillResume s
  | .ageingPromotion => Sys2Proof.Machine.execAgeingPromotion s
  | .gangRequest => Sys2Proof.Machine.execGangRequest s
  | .gangStart => Sys2Proof.Machine.execGangStart s
  | .doorbell => Sys2Proof.Machine.execDoorbell s
  | .launchIngestion => Sys2Proof.Machine.execLaunchIngestion s
  | .launchStart => Sys2Proof.Machine.execLaunchStart s
  | .engagementAcknowledgement => Sys2Proof.Machine.execEngagementAcknowledgement s
  | .launchCompletion => Sys2Proof.Machine.execLaunchCompletion s
  | .taskSpawn => Sys2Proof.Machine.execTaskSpawn s
  | .spawnResend => Sys2Proof.Machine.execSpawnResend s
  | .dependenceDecrement => Sys2Proof.Machine.execDependenceDecrement s
  | .queueItem => Sys2Proof.Machine.execQueueItem s
  | .queueWindowWrite => Sys2Proof.Machine.execQueueWindowWrite s
  | .messageArrival => Sys2Proof.Machine.execMessageArrival s
  | .handlerEntry => Sys2Proof.Machine.execHandlerEntry s
  | .remoteLoad => Sys2Proof.Machine.execRemoteLoad s
  | .remoteStore => Sys2Proof.Machine.execRemoteStore s
  | .remoteAtomic => Sys2Proof.Machine.execRemoteAtomic s
  | .responseDelivery => Sys2Proof.Machine.execResponseDelivery s
  | .skeinRecordDelivery => Sys2Proof.Machine.execSkeinRecordDelivery s
  | .eventMessage => Sys2Proof.Machine.execEventMessage s
  | .eventPolicyReply => Sys2Proof.Machine.execEventPolicyReply s
  | .tlbMissWalk => Sys2Proof.Machine.execTlbMissWalk s
  | .eventReply => Sys2Proof.Machine.execEventReply s
  | .hoverrun => Sys2Proof.Machine.execHoverrun s
  | .loadReturn => Sys2Proof.Machine.execLoadReturn s
  | .remoteAcknowledgement => Sys2Proof.Machine.execRemoteAcknowledgement s
  | .tldComplete => Sys2Proof.Machine.execTldComplete s
  | .tstComplete => Sys2Proof.Machine.execTstComplete s
  | .arrayCommandComplete => Sys2Proof.Machine.execArrayCommandComplete s
  | .leaseExpiry => Sys2Proof.Machine.execLeaseExpiry s
  | .plyretComplete => Sys2Proof.Machine.execPlyretComplete s
  | .plyretCLineWrite => Sys2Proof.Machine.execPlyretCLineWrite s
  | .plypoolTimeout => Sys2Proof.Machine.execPlypoolTimeout s
  | .lockRemoteRetry => Sys2Proof.Machine.execLockRemoteRetry s
  | .rebase => Sys2Proof.Machine.execRebase s
  | .spindleGo => Sys2Proof.Machine.execSpindleGo s
  | .spindleHalt => Sys2Proof.Machine.execSpindleHalt s
  | .spindleImageLoad => Sys2Proof.Machine.execSpindleImageLoad s
  | .contextCreate => Sys2Proof.Machine.execContextCreate s
  | .contextFree => Sys2Proof.Machine.execContextFree s
  | .contextReset => Sys2Proof.Machine.execContextReset s
  | .hreply => Sys2Proof.Machine.execHreply s
  | .dhalt => Sys2Proof.Machine.execDhalt s
  | .pstop => Sys2Proof.Machine.execPstop s
  | .contextSwitchOut => Sys2Proof.Machine.execContextSwitchOut s
  | .contextSwitchIn => Sys2Proof.Machine.execContextSwitchIn s
  | .registerWrite => Sys2Proof.Machine.execRegisterWrite s
  | .bankCommandStart => Sys2Proof.Machine.execBankCommandStart s
  | .waveFormation => Sys2Proof.Machine.execWaveFormation s
  | .bankElement => Sys2Proof.Machine.execBankElement s
  | .disturbanceAlert => Sys2Proof.Machine.execDisturbanceAlert s
  | .alertClear => Sys2Proof.Machine.execAlertClear s
  | .refreshBlock => Sys2Proof.Machine.execRefreshBlock s
  | .lstmoTimeout => Sys2Proof.Machine.execLstmoTimeout s
  | .bankCommandEnd => Sys2Proof.Machine.execBankCommandEnd s
  | .reductionCommandStart => Sys2Proof.Machine.execReductionCommandStart s
  | .reductionLine => Sys2Proof.Machine.execReductionLine s
  | .cpyComplete => Sys2Proof.Machine.execCpyComplete s
  | .plypoolNote => Sys2Proof.Machine.execPlypoolNote s
  | .gathComplete => Sys2Proof.Machine.execGathComplete s
  | .collComplete => Sys2Proof.Machine.execCollComplete s
  | .routerRelease => Sys2Proof.Machine.execRouterRelease s
  | .holdSlotRoute => Sys2Proof.Machine.execHoldSlotRoute s
  | .workerReassignment => Sys2Proof.Machine.execWorkerReassignment s
  | .flitReceive => Sys2Proof.Machine.execFlitReceive s
  | .nakReceive => Sys2Proof.Machine.execNakReceive s
  | .linkAckReceive => Sys2Proof.Machine.execLinkAckReceive s
  | .replayTimeout => Sys2Proof.Machine.execReplayTimeout s
  | .retrainTimeout => Sys2Proof.Machine.execRetrainTimeout s
  | .trainingComplete => Sys2Proof.Machine.execTrainingComplete s
  | .linkRestart => Sys2Proof.Machine.execLinkRestart s
  | .routerForward => Sys2Proof.Machine.execRouterForward s
  | .packetArrival => Sys2Proof.Machine.execPacketArrival s
  | .e2eRetryTimeout => Sys2Proof.Machine.execE2eRetryTimeout s
  | .e2eUnreachTimeout => Sys2Proof.Machine.execE2eUnreachTimeout s
  | .resyncRetry => Sys2Proof.Machine.execResyncRetry s
  | .keyReleaseTimeout => Sys2Proof.Machine.execKeyReleaseTimeout s
  | .reduceChunk => Sys2Proof.Machine.execReduceChunk s
  | .multicastChunk => Sys2Proof.Machine.execMulticastChunk s
  | .chunkResend => Sys2Proof.Machine.execChunkResend s
  | .colltmo => Sys2Proof.Machine.execColltmo s
  | .keyInstall => Sys2Proof.Machine.execKeyInstall s
  | .keyRotationComplete => Sys2Proof.Machine.execKeyRotationComplete s
  | .cubeRemoval => Sys2Proof.Machine.execCubeRemoval s
  | .restripe => Sys2Proof.Machine.execRestripe s
  | .reconfigurationWindow => Sys2Proof.Machine.execReconfigurationWindow s
  | .drainMarker => Sys2Proof.Machine.execDrainMarker s
  | .bar2Access => Sys2Proof.Machine.execBar2Access s
  | .msixUnmask => Sys2Proof.Machine.execMsixUnmask s
  | .bootGo => Sys2Proof.Machine.execBootGo s
  | .attestation => Sys2Proof.Machine.execAttestation s
  | .powerWindow => Sys2Proof.Machine.execPowerWindow s
  | .thermalWarn => Sys2Proof.Machine.execThermalWarn s
  | .thermalStop => Sys2Proof.Machine.execThermalStop s
  | .thermalResume => Sys2Proof.Machine.execThermalResume s
  | .lifeUpdate => Sys2Proof.Machine.execLifeUpdate s
  | .traceDrain => Sys2Proof.Machine.execTraceDrain s
  | .traceSample => Sys2Proof.Machine.execTraceSample s
  | .clusterGate => Sys2Proof.Machine.execClusterGate s
  | .clusterUngate => Sys2Proof.Machine.execClusterUngate s
  | .powerOn => Sys2Proof.Machine.execPowerOn s
  | .storePerformed => Sys2Proof.Machine.execStorePerformed s
  | .idleWaitExpiry => Sys2Proof.Machine.execIdleWaitExpiry s
  | .linkAckInterval => Sys2Proof.Machine.execLinkAckInterval s

end Sys2Proof.Machine
end

