-- ==== Sys2Proof/Machine/Run.lean ====
section
/-! DEFINITION. What a step does: issue of one instruction of a unit (R87, R89, R252), the choices of the agenda, the schedule that runs where
nothing is chosen, and what wakes waiting units. -/

namespace Sys2Proof.Machine

open Sys2Proof Host

/-! ## Issue -/

/-- One instruction of a unit: HOVERRUN, the events of its fetch, UNDEF of its word, then what it does (R89); or one that has made some of its
accesses goes on (R181). -/
def State.issueUnit (s : State) (key : Nat) : Outcome State Fault Refusal :=
  match (s.unit key).vec with
  | some w => finish { s with cur := key } ({ s with cur := key }.vecStep w)
  | none =>
  let f := s.fetch key
  let s1 := { s.noteFetch key f with cur := key }
  if s.overBudget key then .next (s1.takeEvent .hoverrun 0 0 0)
  else match f with
    | .stop c a _ => .next (s1.takeEvent c a 0 0)
    | .word w len => match decodeFetched w len with
      | none => .next (s1.takeEvent .undef 0 0 0)
      | some i =>
        if isSpindle key && !spindleMay i then .next (s1.takeEvent .undef 0 0 0)
        else if s1.me.answerDue i then .next (s1.holdAt .answer 0)
        else exec i s1

/-- A unit may issue: it runs, is not halted, belongs to a context, and waits neither for another cube nor for a word nor in IDLE; a spindle core to be
halted stops at its boundary (R51). A cube whose boot has failed runs nothing (R317). -/
def State.mayIssue (s : State) (key : Nat) : Bool :=
  let u := s.unit key
  decide (u.st = .run) && !u.halted && !u.haltReq && (s.ctxOf key != 16) && decide (s.plat.boot ≠ .failed) && (match u.hold with
    | some h => decide (h.kind ≠ .remote) && decide (h.kind ≠ .word) && !(decide (h.kind = .idle) && decide (s.cycle < h.until_))
    | none => true)

/-! ## What wakes a waiter (R19, R20, R117, R126, R133) -/

/-- The state of the word a full/empty wait names; none where the address no longer resolves here. -/
def State.waitBit (s : State) (core ctx : Nat) (va : Word) : Option Bool := match s.resolve core ctx va .read 0 with
  | .ok l => if s.isLocal l then some (s.isFull l.key) else none
  | .error _ => none

/-- The word a full/empty wait names, with its bit. -/
def State.waitedWord (s : State) (core ctx : Nat) (va : Word) : Nat := match s.resolve core ctx va .read 0 with
  | .ok l => if s.isLocal l then (s.word64 l.key).toNat * 2 + (s.isFull l.key).toNat else 0
  | .error _ => 0

/-- The lock word a wait names: none where the address no longer resolves; another cube's is not seen from here. -/
def State.waitLock (s : State) (core ctx : Nat) (va : Word) (tag : BitVec 16) : Option (Option Word) := match s.resolve core ctx va .write tag with
  | .ok l => some (if s.isLocal l then some (BitVec.ofNat 64 (leVal (s.view ctx l 8 tag))) else none)
  | .error _ => none

/-- An attempt of a waiting lock would succeed, or raise an event. -/
def lockWakes (op : LockOp) : Option (Option Word) → Bool
  | some (some w) => (op.attempt w false).isSome
  | some none => false
  | none => true

/-- The condition that a resident block waits for holds. -/
def State.wakes (s : State) (core ctx : Nat) (tag : BitVec 16) (w : Wait) : Bool :=
  match w.kind with
  | .full => (s.waitBit core ctx w.addr).getD true
  | .empty => !(s.waitBit core ctx w.addr).getD false
  | .lease => decide ((s.cluster (core / 8)).holder = some (core % 8))
  | .tileLease => decide ((s.cluster (core / 8)).holder = some (core % 8))
  | .plynew => ((s.ctx ctx).serve (s.plynewQueue ctx w.seq)).canGrant (w.addr.setWidth 3)
  | .rlk => lockWakes .rlk (s.waitLock core ctx w.addr tag)
  | .wlk => lockWakes .wlk (s.waitLock core ctx w.addr tag)
  | .poolSlot => (s.allocSlot core).isSome || (s.waitBit core ctx w.addr).getD true
  | .poolQueue => (s.allocSlot core).isSome || (match Tab.read none (s.ctx ctx).queues (bits w.addr.toNat 5 0) with
      | some q => decide (q.items ≠ [])
      | none => false)
  | .poolBobbin => (s.allocSlot core).isSome || (match s.skein ctx (selSid w.addr) with
      | some k => if selExit w.addr then k.ready 16 else (List.range k.nstg).any k.ready
      | none => true)

/-- What a spilled wait looks at (R20): the word, lock, lease or quota class. -/
def State.awaited (s : State) (core ctx : Nat) (tag : BitVec 16) (w : Wait) : Nat :=
  match w.kind with
  | .lease => ((s.cluster (core / 8)).holder.map (· + 1)).getD 0
  | .tileLease => ((s.cluster (core / 8)).holder.map (· + 1)).getD 0
  | .plynew => (s.ctx ctx).held (w.addr.setWidth 3)
  | .rlk => (((s.waitLock core ctx w.addr tag).getD none).getD 0).toNat
  | .wlk => (((s.waitLock core ctx w.addr tag).getD none).getD 0).toNat
  | .full => s.waitedWord core ctx w.addr
  | .empty => s.waitedWord core ctx w.addr
  | .poolSlot => s.waitedWord core ctx w.addr
  | _ => 0

/-- The unit is BLOCKED (R19), or a spindle core waits for a word (R50). -/
def Strand.waitsHere (u : Strand) : Bool := decide (u.st = .blocked) || decide (u.hold.map (·.kind) = some .word)

/-- A waiting unit whose condition holds re-executes; of the units that wait for a word, one passed over 16 times alone (R126). -/
def State.wakeUnit (s : State) (key : Nat) : State :=
  let u := s.unit key
  match u.wait with
  | some w =>
    let next := if w.kind = .full ∨ w.kind = .empty then s.passedOver w.kind w.addr else none
    if u.waitsHere ∧ !u.halted ∧ s.wakes (coreOf key) (s.ctxOf key) u.ply w ∧ (next.isNone ∨ next = some key) then
      s.setUnit key { u with st := .run, hold := if u.st = .blocked then u.hold else none }
    else s
  | none => s

/-- A parked record whose word is full becomes runnable (R19). -/
def State.wakeParked (s : State) (core slot : Nat) (e : Option Slot) : State := match e with
  | some x => match x.park with
    | .word key => if s.isFull key then s.wakeSlot core slot else s
    | _ => s
  | none => s

/-- A spill entry whose wait has changed becomes ready (R20). -/
def State.wakeSpill (s pre : State) (core slot : Nat) (e : Option Spill) : State := match e with
  | some p =>
    let ctx := s.ctxOfCluster (core / 8)
    let tag := recPlytag (s.word64 (scratchKey core (spillOff (s.core core) slot + 3176)))
    if !p.ready && s.works core && (s.wakes core ctx tag p.wait || decide (pre.awaited core ctx tag p.wait ≠ s.awaited core ctx tag p.wait)) then
      s.readySpill core slot
    else s
  | none => s

/-- Messages in a core's inbox, runnable records, and ready spill entries. -/
def Core.arrivals (k : Core) : Nat × Nat × Nat :=
  ((k.inbox.map fun e => e.2.length).sum, (k.runq.map fun e => e.2.length).sum, (readySpills k).length)

/-- An IDLE of a core ends early (R117). -/
def State.endIdle (s : State) (key : Nat) : State :=
  let u := s.unit key
  match u.hold with
  | some h => if h.kind = .idle then s.setUnit key { u with hold := none } else s
  | none => s

/-- The waits of a core that a step has ended; its steal scan's condition, and what waits behind higher priorities. -/
def State.settleCore (pre s : State) (core : Nat) : State :=
  let s1 := (s.core core).slots.foldl (fun (t : State) e => t.wakeParked core e.1 e.2) s
  let s2 := (s1.core core).spills.foldl (fun (t : State) e => t.wakeSpill pre core e.1 e.2) s1
  let a := (pre.core core).arrivals
  let b := (s2.core core).arrivals
  let s3 := if a.1 < b.1 ∨ a.2.1 < b.2.1 ∨ a.2.2 < b.2.2 then (unitsOfCore core).foldl State.endIdle s2 else s2
  (s3.endScan core).markBehind core

/-- A cluster that is not idle starts its 100 µs anew (R325). -/
def State.settleCluster (s : State) (c : Nat) : State :=
  let k := s.cluster c
  if k.ctx.isSome ∧ !s.clusterIdle c ∧ k.idleSince ≠ s.cycle then s.setCluster c { k with idleSince := s.cycle } else s

/-- What follows from a step: waiters wake; packets that waited leave or arrive; routers go on; a boot image's
verification that was under way ends (R317). `pre` is the state before the step. -/
def State.settle (pre s : State) : State :=
  let s1 := (s.units.map (·.1)).foldl State.wakeUnit s
  let s2 := (s1.cores.map (·.1)).foldl (State.settleCore pre) s1
  let s3 := (s2.clusters.map (·.1)).foldl State.settleCluster s2
  let s4 := ((s3.ctxs.map (·.1)).foldl State.unspoolCtx s3.releaseOutbox.failOutbox.retryWindows.settleRouters).dropCopies
  if pre.plat.boot = .verifying then s4.endBoot else s4

/-- Continue after a next state. -/
def thenDo (o : Outcome State Fault Refusal) (f : State → State) : Outcome State Fault Refusal := match o with
  | .next t => .next (f t)
  | .fault e => .fault e
  | .refused r => .refused r

/-- The unit waits at issue, its instruction not issued (R252). -/
def Strand.waiting (u : Strand) : Bool := match u.hold with
  | some h => decide (h.kind ≠ .idle) && decide (h.kind ≠ .remote)
  | none => false

/-- The core remembers which strand issued, and when (R252), and counts the instruction where it samples (R322). `s` is the state before. -/
def State.markIssued (s t : State) (key : Nat) : State :=
  if isService key || isSpindle key || (t.unit key).waiting then t
  else
    let t1 := t.setCore (coreOf key) { t.core (coreOf key) with lastIssued := slotOf key + 8 * (s.cycle + 1) }
    if (t.unit key).event.isSome || decide ((t.unit key).st = .blocked) then t1 else t1.countSample key (s.unit key).pc (s.traceWord0 3 key)

/-- A unit issues: the instruction's outcome, then what follows from it. -/
def State.runUnit (s : State) (key : Nat) : Outcome State Fault Refusal :=
  thenDo (s.issueUnit key) fun t => State.settle s (s.markIssued t key)

/-- A strand is eligible (R252): it may issue, its operands are present, and its next instruction does not wait at issue. -/
def State.eligible (s : State) (key : Nat) : Bool :=
  s.mayIssue key && decide ((s.unit key).absentAt ≠ some s.cycle) && (match s.issueUnit key with
    | .next t => !(t.unit key).waiting
    | _ => true)

/-- A task core's strands in the order in which they are considered (R252). -/
def issueOrder (last cycle : Nat) : List Nat :=
  let from_ := (List.range 8).map fun i => (last % 8 + 1 + i) % 8
  if last = 8 * cycle then from_ else 0 :: from_

/-- It is a unit's turn in this cc (R252): its core has issued nothing, and chooses no strand before it. A spindle core issues on its own. -/
def State.turn (s : State) (key : Nat) : Bool :=
  let k := s.core (coreOf key)
  isService key || isSpindle key || (decide (k.lastIssued / 8 ≠ s.cycle + 1) && decide ((s.unit key).absentAt ≠ some s.cycle)
    && ((issueOrder k.lastIssued s.cycle).takeWhile fun j => decide (j ≠ slotOf key)).all fun j => !s.eligible (unitKey (coreOf key) j))

/-! ## The schedule's choices -/

/-- Time passes; a link that replays has resent everything. -/
def State.pass (s : State) (cc ns : Nat) : State :=
  { s with cycle := s.cycle + cc, gtimeBase := s.gtimeBase + ns, links := Tab.remap (fun _ => {}) Link.settle s.links }

/-- A step of the machine, with what it brings from outside. -/
def State.runEvent (s : State) (i : Instr) (inp : Input) : Outcome State Fault Refusal :=
  if instrLen i = 0 then thenDo (exec i { s with inp := inp }) (State.settle s) else .next s

/-- A choice of the agenda takes place (DESIGN CHOICE, log entry 2). -/
def State.act (s : State) (a : Agenda) : Outcome State Fault Refusal :=
  match a with
  | .issue key => if s.mayIssue key && s.turn key then s.runUnit key else .next s
  | .access key =>
    if s.mayIssue key && s.turn key then thenDo ({ s with single := true }.runUnit key) fun t => { t with single := false } else .next s
  | .absent key => .next (s.setUnit key { s.unit key with absentAt := some s.cycle })
  | .event i inp => s.runEvent i inp
  | .firmware c i => if c < 32 ∧ s.plat.boot ≠ .failed then thenDo (exec i { s with cur := serviceKey c }) (State.settle s) else .next s
  | .pass cc ns => .next (State.settle s (s.pass cc ns))
  | .line op k => .next (if s.opStarted op then State.settle s (s.moveLine op k) else s)
  | .icache core half fill =>
    let k := s.core core
    let v : Option (BitVec 16) := if fill then some (BitVec.ofNat 16 (leVal (s.bytes (2 * half) 2))) else none
    .next (s.setCore core { k with icache := Tab.write none k.icache half v })
  | .sliceCopy ctx va => .next (s.copySlice ctx va)
  | .sliceSwap ctx va => .next (s.swapSlice ctx va)
  | .spoil line bad => .next { s with bad := Tab.write false s.bad line bad }
  | .inject p => .next { s with net := s.net ++ [{ p with wid := 0, ord := 0, req := 0, awaited := false, major := 0 }] }
  | .seqStart key seq => .next (match Tab.read none s.srcKeys key with
    | some _ => s
    | none => { s with srcKeys := Tab.write none s.srcKeys key (some { next := seq, unacked := [], resync := none }) })

/-! ## The schedule that runs where nothing is chosen (R252; DESIGN CHOICE, log entry 1) -/

/-- The unit's next instruction can issue now; or it begins to wait at issue, which leaves its core's place in this cc (R252); and the outcome. -/
def State.tryUnit (s : State) (key : Nat) : Option (Outcome State Fault Refusal) :=
  if s.mayIssue key && decide ((s.unit key).absentAt ≠ some s.cycle) then match s.issueUnit key with
    | .next t =>
      if !(t.unit key).waiting then some (.next (State.settle s (s.markIssued t key)))
      else if (t.unit key).hold = (s.unit key).hold ∧ (t.unit key).taken = (s.unit key).taken ∧ t.clusters = s.clusters then none
      else some (.next { State.settle s t with cur := s.cur })
    | o => some o
  else none

/-- The places of a cc after that of a unit: core × 3, then its loader and its storer. -/
def placeAfter (cur : Nat) : Nat := if isService cur then 0 else coreOf cur * 3 + (if slotOf cur < 8 then 0 else slotOf cur - 7) + 1

/-- What a place of a cc issues. -/
def State.tryPlace (s : State) (p : Nat) : Option (Outcome State Fault Refusal) :=
  let core := p / 3
  if p % 3 = 0 then
    if (s.core core).lastIssued / 8 = s.cycle + 1 then none
    else (issueOrder (s.core core).lastIssued s.cycle).findSome? fun j => s.tryUnit (unitKey core j)
  else s.tryUnit (unitKey core (7 + p % 3))

/-- The places at which a unit is listed, in order. -/
def State.places (s : State) : List Nat :=
  (s.units.filterMap fun e => if isService e.1 then none
    else some (coreOf e.1 * 3 + (if slotOf e.1 < 8 then 0 else slotOf e.1 - 7))).eraseDups

/-- The events that may be due, with their inputs. -/
def State.dueUnit (s : State) : List (Instr × Input) :=
  s.units.flatMap fun e =>
    let i : Input := { core := coreOf e.1, slot := slotOf e.1 }
    if isService e.1 then [] else
      [(.eventMessage, i), (.loadReturn, i), (.spill, i), (.spindleHalt, { i with flag := decide (slotOf e.1 = 9) }), (.plypoolTimeout, i), (.lockRemoteRetry, i), (.idleWaitExpiry, i)]

def State.dueCore (s : State) : List (Instr × Input) :=
  (s.cores.map (·.1)).flatMap fun c =>
    let i : Input := { core := c }
    [(.eventReply, i), (.responseDelivery, i), (.remoteLoad, i), (.remoteStore, i), (.remoteAtomic, i), (.taskSpawn, i), (.dependenceDecrement, i),
     (.queueItem, i), (.handlerEntry, i), (.ageingPromotion, i), (.recordPickup, i), (.spillResume, i), (.spawnResend, i), (.traceSample, i)]
      ++ (s.core c).spills.map fun e => (.spillReadyTimeout, { i with index := e.1 })

/-- A free offset of an inbox region for a packet, where it is a core's. -/
def State.arrivalOffset (s : State) (p : Packet) : Nat := match s.serverCore p with
  | some c =>
    let ms := s.regionMsgs c p.pri
    ((0 :: ms.map fun m => m.off - 32 - (inboxBase + p.pri * 16384) + inboxBytes m.pkt).find? fun o => regionFree ms p.pri o (inboxBytes p)).getD 0
  | none => 0

def State.duePackets (s : State) : List (Instr × Input) :=
  (s.inner.mapIdx fun n p => ([(.clusterUngate, { part := (s.arrivalCluster p).getD 32 }), (.messageArrival, { index := n, index2 := s.arrivalOffset p }), (.remoteAcknowledgement, { index := n })] : List (Instr × Input))).flatten
    ++ (s.net.mapIdx fun n _ => ([(.packetArrival, { index := n }), (.routerForward, { index := n }), (.plypoolNote, { index := n, flag := true })] : List (Instr × Input))).flatten

def State.dueOps (s : State) : List (Instr × Input) :=
  (s.ops.mapIdx fun n o =>
    let i : Input := { index := n }
    match o.kind with
    | .store => [(Instr.storePerformed, i)]
    | .plyret _ _ => [(.plyretCLineWrite, i), (.plyretComplete, i)]
    | .tld _ => [(.tldComplete, i)]
    | .tst _ _ => [(.tstComplete, i), (.plypoolNote, i)]
    | .cpy => [(.cpyComplete, i), (.plypoolNote, i)]
    | .gath => [(.gathComplete, i), (.plypoolNote, i)]
    | .coll c => [(.reduceChunk, { i with index2 := c.base s.cubeNum }), (.multicastChunk, { i with index2 := c.base s.cubeNum }),
                  (.chunkResend, { i with index2 := c.base s.cubeNum }), (.collComplete, i), (.colltmo, i)]
    | .array _ => [(.arrayCommandComplete, i)]
    | .engine _ _ => []).flatten

/-- The TLB entry that the walk for the oldest XMISS of a cluster fills where nothing else is chosen: a free one, else one named by the cycle. -/
def State.tlbVictim (s : State) (c : Nat) : Nat := match (s.cluster c).svc.find? (fun e => !e.note && decide (e.code = .xmiss)) with
  | some e => ((List.range 64).find? fun i => (Tab.read none (s.core (coreOf e.party)).tlb i).isNone).getD (s.cycle % 64)
  | none => 0

def State.dueUnits (s : State) : List (Instr × Input) :=
  (s.clusters.map (·.1)).flatMap (fun c => ([(.tlbMissWalk, { part := c, index := s.tlbVictim c }), (.eventPolicyReply, { part := c }), (.leaseExpiry, { part := c })] : List (Instr × Input)))
    ++ (s.dies.map (·.1)).flatMap (fun d => ([(.gangRequest, { part := d }), (.gangStart, { part := d }), (.reductionCommandStart, { part := d }),
        (.reductionLine, { part := d })] : List (Instr × Input)))
    ++ (s.banks.map (·.1)).flatMap (fun b => ([(.bankCommandStart, { part := b }), (.waveFormation, { part := b }), (.bankElement, { part := b }),
        (.bankCommandEnd, { part := b }), (.lstmoTimeout, { part := b })] : List (Instr × Input)))

def State.dueCtx (s : State) : List (Instr × Input) :=
  (Instr.launchStart, ({ index := 0 } : Input)) :: s.ctxs.flatMap fun e =>
    let i : Input := { ctx := e.1 }
    ([(.engagementAcknowledgement, i), (.launchIngestion, i), (.launchCompletion, i)] : List (Instr × Input))
      ++ e.2.skeins.flatMap fun k =>
          let j : Input := { i with index := k.1 }
          ([(.routerRelease, { j with index2 := (k.2.bind fun x => s.dueRelease k.1 x).getD 0 }), (.workerReassignment, j)] : List (Instr × Input)) ++ (List.range 17).flatMap fun t =>
            ([(.holdSlotRoute, { j with slot := t }), (.skeinRecordDelivery, { j with slot := t })] : List (Instr × Input))

def State.dueFabric (s : State) : List (Instr × Input) :=
  (s.links.map (·.1)).flatMap (fun l => ([(.linkAckInterval, { part := l }), (.replayTimeout, { part := l })] : List (Instr × Input)))
    ++ s.srcKeys.flatMap (fun e => (Instr.resyncRetry, ({ index := e.1 } : Input)) :: (List.range (match e.2 with
        | some k => k.unacked.length
        | none => 0)).flatMap fun n => ([(.e2eUnreachTimeout, { index := e.1, index2 := n }), (.e2eRetryTimeout, { index := e.1, index2 := n })] : List (Instr × Input)))
    ++ (s.dstKeys.map fun k => (.keyReleaseTimeout, { index := k.1 }))

/-- Steal scans come last: an idle core repeats them for ever. -/
def State.dueScans (s : State) : List (Instr × Input) :=
  (s.clusters.filter fun e => e.2.ctx.isSome).flatMap fun e => (List.range 8).flatMap fun j =>
    let i : Input := { core := e.1 * 8 + j }
    [(.stealScan, i), (.stealScanRetry, i)]

def State.due (s : State) : List (Instr × Input) :=
  s.dueUnit ++ s.dueOps ++ s.duePackets ++ s.dueCore ++ s.dueUnits ++ s.dueCtx ++ s.dueFabric ++ [(Instr.rebase, ({ index := 0 } : Input))] ++ s.dueScans

/-- The first due event that changes the state. -/
def State.firstDue (s : State) : Option State := s.due.findSome? fun e => match exec e.1 { s with inp := e.2 } with
  | .next t =>
    let t1 := { t with inp := s.inp }
    if t1 = s then none else some (State.settle s t1)
  | _ => none

/-- One step where nothing is chosen: the next place of this cc that can issue; after the last, the first event that is due, and the next cc. -/
def State.runAlone (s : State) : Outcome State Fault Refusal :=
  match (s.places.filter fun p => decide (placeAfter s.cur ≤ p)).findSome? s.tryPlace with
  | some o => o
  | none =>
    let t := (s.firstDue).getD s
    .next { t.pass 1 0 with cur := serviceKey 0 }

/-! ## Placing an instruction where the next step fetches it -/

/-- A state whose next step issues strand 1 of core 0 in context 0 at scratchpad address 0, where these bytes stand. -/
def State.withProgram (s : State) (bs : List Byte) : State :=
  let k := s.ctx 0
  let u := s.unit 1
  let s1 := (s.setCtx 0 { k with state := .running, clmask := k.clmask ||| 1, stopped := false }).setCluster 0 { s.cluster 0 with ctx := some 0, gated := false }
  let s2 := s1.setUnit 1 { u with st := .run, halted := false, hold := none, wait := none, remote := none, event := none, awaits := [], vec := none, absentAt := none, haltReq := false,
                                  pc := BitVec.ofNat 64 (15 * 2 ^ 60 + s.cubeNum * 2 ^ 36) }
  let s3 := s2.setCore 0 { s2.core 0 with icache := [], lastIssued := 8 * s.cycle }
  { s3.putBase (scratchKey 0 0) bs with
    cur := 1
    bad := (Tab.erase s3.bad (scratchKey 0 0 / 64))
    agenda := [.issue 1] }

end Sys2Proof.Machine
end

