-- ==== Sys2Proof/Machine/Step.lean ====
section
/-! DEFINITION. One step: the first choice of the agenda takes place; where there is none, the cube's own schedule runs on. And the
placing of an instruction where the next step fetches it. -/

namespace Sys2Proof.Machine

open Sys2Proof

/-- One step of the cube. -/
def step (s : State) : Host.Outcome State Fault Refusal :=
  match s.agenda with
  | a :: rest => ({ s with agenda := rest } : State).act a
  | [] => s.runAlone

/-- The state with the instruction of these bits where the next step fetches it: strand 1 of core 0, in a running context 0. -/
def State.withFetchWord (s : State) (nbits w : Nat) : State := s.withProgram (bytesOf (nbits / 8) w ++ [0, 0, 0, 0])

end Sys2Proof.Machine
end

