-- ==== Sys2Proof/Safety.lean ====
section
/-! DEFINITION. What counts as a safe step, a safe run and a sound state, in the terms the claims use. -/

namespace Sys2Proof.Machine

open Sys2Proof Host

/-- A step that goes on. -/
def SafeStep (s : State) : Prop := ∃ t, step s = .next t

/-- n steps that go on, and the state after them. -/
def runSteps : Nat → State → Outcome State Fault Refusal
  | 0, s => .next s
  | n + 1, s => match step s with
    | .next t => runSteps n t
    | o => o

/-- A run that stops at no fault. -/
def SafeRun (s : State) : Prop := ∀ n e, runSteps n s ≠ .fault e

/-- Memory keeps its canonical form (R218: one value for each byte). -/
def State.memSound (s : State) : Prop := Memory.wf s.mem = true

end Sys2Proof.Machine
end

