-- ==== Sys2Proof/Certificates/Slice0/Obligations.lean ====
section
/-! DEFINITION. The statements for the provers. First what several of them say in common (namespace Sys2Proof.Stated): frames, and tables that
give an instruction's result by the spec's words; then the statements. -/

namespace Sys2Proof.Stated

open Sys2Proof Sys2Proof.Machine Host

/-! ## Frames -/

/-- Only the executing unit's registers differ: every other part of the cube, every other unit, every byte of memory is as before. -/
structure OnlyMe (s t : State) : Prop where
  rest : { t with units := s.units } = s
  others : ∀ k, k ≠ s.cur → t.unit k = s.unit k
  memory : ∀ a, t.byte a = s.byte a

/-- x[d] := v, then PC := p: x0 discards (R38); every other register of the unit is as before. A unit that issues no longer waits. -/
structure WritesX (s t : State) (d : Fin 32) (v p : Word) : Prop where
  frame : OnlyMe s t
  value : t.me.readX d = if d = 0 then 0 else v
  others : ∀ r, r ≠ d → t.me.readX r = s.me.readX r
  vectors : ∀ r, t.me.readV r = s.me.readV r
  maps : ∀ r, t.me.readTm r = s.me.readTm r
  registers : { t.me with x := s.me.x, pend := s.me.pend, pc := s.me.pc, hold := s.me.hold, wait := s.me.wait, haltWait := s.me.haltWait, blocks := s.me.blocks } = s.me
  pc : t.me.pc = pcValue s.cur p
  goes : t.me.hold = none ∧ t.me.wait = none ∧ t.me.blocks = []

/-- f[d] := v and flags added, PC past the instruction: every other register of the unit is as before. -/
structure WritesF (s t : State) (d : Fin 32) (v : Word) (flags : Flags) : Prop where
  frame : OnlyMe s t
  value : t.me.readF d = v
  others : ∀ r, r ≠ d → t.me.readF r = s.me.readF r
  sticky : t.me.fpflg = s.me.fpflg ||| flags
  registers : { t.me with f := s.me.f, fpflg := s.me.fpflg, pc := s.me.pc, hold := s.me.hold, wait := s.me.wait, haltWait := s.me.haltWait, blocks := s.me.blocks } = s.me
  pc : t.me.pc = pcValue s.cur (s.me.pc + 4)

/-- No register but PC changes: PC := p. -/
structure OnlyPc (s t : State) (p : Word) : Prop where
  frame : OnlyMe s t
  registers : { t.me with pc := s.me.pc, hold := s.me.hold, wait := s.me.wait, haltWait := s.me.haltWait, blocks := s.me.blocks } = s.me
  pc : t.me.pc = pcValue s.cur p

/-- The unit stops on an event (R87): PC and every register as before, the message in the event slot. Pool lines that it had taken while it waited
go back (R138); of the rest of the cube nothing differs. -/
structure StopsOn (s t : State) (code : EvCode) (addr : Word) (lane : Nat) (aux : BitVec 10) : Prop where
  rest : { t with units := s.units } = { s.returnLines (s.ctxOf s.cur) s.me.taken with units := s.units }
  others : ∀ k, k ≠ s.cur → t.unit k = s.unit k
  memory : ∀ a, t.byte a = s.byte a
  stopped : t.me.st = .stopped
  message : t.me.event = some (s.eventMsg s.cur code addr lane aux)
  pc : t.me.pc = s.me.pc
  registers : { t.me with st := s.me.st, event := s.me.event, posted := s.me.posted, hold := s.me.hold, wait := s.me.wait, haltWait := s.me.haltWait, code := s.me.code,
                          blocks := s.me.blocks, taken := s.me.taken, vec := s.me.vec } = s.me

/-- The unit waits at issue (R252): nothing changes but the mark. -/
structure WaitsAtIssue (s t : State) (kind : HoldKind) : Prop where
  frame : OnlyMe s t
  waits : ∃ h, t.me = { s.me with hold := some h } ∧ h.kind = kind

/-! ## Integer results (R97 to R102, R81, R108) -/

/-- What an integer instruction writes: its destination, the value by the tables of R98 to R102 and R81, its length. -/
def integerResult (u : Strand) : Instr → Option (Fin 32 × Word × Nat)
  | .add d a b => some (d, u.readX a + u.readX b, 4)
  | .sub d a b => some (d, u.readX a - u.readX b, 4)
  | .and d a b => some (d, u.readX a &&& u.readX b, 4)
  | .or d a b => some (d, u.readX a ||| u.readX b, 4)
  | .xor d a b => some (d, u.readX a ^^^ u.readX b, 4)
  | .andn d a b => some (d, u.readX a &&& ~~~(u.readX b), 4)
  | .shl d a b => some (d, u.readX a <<< ((u.readX b).toNat % 64), 4)
  | .shr d a b => some (d, u.readX a >>> ((u.readX b).toNat % 64), 4)
  | .sha d a b => some (d, (u.readX a).sshiftRight ((u.readX b).toNat % 64), 4)
  | .rot d a b => some (d, (u.readX a).rotateRight ((u.readX b).toNat % 64), 4)
  | .min d a b => some (d, if (u.readX a).toInt < (u.readX b).toInt then u.readX a else u.readX b, 4)
  | .max d a b => some (d, if (u.readX a).toInt < (u.readX b).toInt then u.readX b else u.readX a, 4)
  | .minu d a b => some (d, if (u.readX a).toNat < (u.readX b).toNat then u.readX a else u.readX b, 4)
  | .maxu d a b => some (d, if (u.readX a).toNat < (u.readX b).toNat then u.readX b else u.readX a, 4)
  | .slt d a b => some (d, if (u.readX a).toInt < (u.readX b).toInt then 1 else 0, 4)
  | .sltu d a b => some (d, if (u.readX a).toNat < (u.readX b).toNat then 1 else 0, 4)
  | .seq d a b => some (d, if u.readX a = u.readX b then 1 else 0, 4)
  | .sel d a b c => some (d, if u.readX c = 0 then u.readX b else u.readX a, 4)
  | .mul d a b => some (d, u.readX a * u.readX b, 4)
  | .mulh d a b => some (d, BitVec.ofInt 64 ((u.readX a).toInt * (u.readX b).toInt / 2 ^ 64), 4)
  | .mulhu d a b => some (d, BitVec.ofNat 64 ((u.readX a).toNat * (u.readX b).toNat / 2 ^ 64), 4)
  | .brev d a => some (d, (u.readX a).reverse, 4)
  | .addi d a im => some (d, u.readX a + im.signExtend 64, 4)
  | .andi d a im => some (d, u.readX a &&& im.signExtend 64, 4)
  | .ori d a im => some (d, u.readX a ||| im.signExtend 64, 4)
  | .xori d a im => some (d, u.readX a ^^^ im.signExtend 64, 4)
  | .slti d a im => some (d, if (u.readX a).toInt < im.toInt then 1 else 0, 4)
  | .sltiu d a im => some (d, if (u.readX a).toNat < (im.signExtend 64).toNat then 1 else 0, 4)
  | .shli d a h => some (d, u.readX a <<< h.val, 4)
  | .shri d a h => some (d, u.readX a >>> h.val, 4)
  | .shai d a h => some (d, (u.readX a).sshiftRight h.val, 4)
  | .lih d im => some (d, im.signExtend 64 <<< 15, 4)
  | .adpc d im => some (d, u.pc + (im.signExtend 64 <<< 15), 4)
  | .fmvX d a => some (d, u.readF a, 4)
  | .cMv d b => some (d, u.readX b, 2)
  | .cAdd d b => some (d, u.readX d + u.readX b, 2)
  | .cAddi d im => some (d, u.readX d + im.signExtend 64, 2)
  | .cSub d b => some (d, u.readX d - u.readX b, 2)
  | .cAnd d b => some (d, u.readX d &&& u.readX b, 2)
  | .cShli d h => some (d, u.readX d <<< h.val, 2)
  | .cNop => some (0, 0, 2)
  | _ => none

/-! ## Branches (R110, R112, R81) -/

/-- Mask bits 0 to VL − 1 (R112). -/
def testedBits (u : Strand) (m : Fin 8) (p : Nat → Bool → Prop) : Prop := ∀ i, i < u.vl.toNat → p i ((u.readM m).getLsbD i)

/-- A branch completes: to PC + 2 × offset where its condition holds, else past its `len` bytes; nothing but PC changes. -/
def BranchesOn (s : State) (i : Instr) (c : Prop) (o : Word) (len : Nat) : Prop :=
  (c → ∃ t, exec i s = .next t ∧ OnlyPc s t (s.me.pc + o * 2)) ∧ (¬ c → ∃ t, exec i s = .next t ∧ OnlyPc s t (s.me.pc + BitVec.ofNat 64 len))

/-! ## Scalar floating point (R103 to R108) -/

/-- What a floating-point instruction writes into f[d], with the flags it sets. -/
def floatResult (u : Strand) : Instr → Option (Fin 32 × Nat × Flags)
  | .fadd d a b p => some (d, fadd (fmtOf p) u.rounding (u.readFp p a) (u.readFp p b))
  | .fsub d a b p => some (d, fsub (fmtOf p) u.rounding (u.readFp p a) (u.readFp p b))
  | .fmul d a b p => some (d, fmul (fmtOf p) u.rounding (u.readFp p a) (u.readFp p b))
  | .fdiv d a b p => some (d, fdiv (fmtOf p) u.rounding (u.readFp p a) (u.readFp p b))
  | .fsqrt d a p => some (d, fsqrt (fmtOf p) u.rounding (u.readFp p a))
  | .fmin d a b p => some (d, fminmax (fmtOf p) false (u.readFp p a) (u.readFp p b))
  | .fmax d a b p => some (d, fminmax (fmtOf p) true (u.readFp p a) (u.readFp p b))
  | .fma d a b c p => some (d, fmadd (fmtOf p) u.rounding false false (u.readFp p a) (u.readFp p b) (u.readFp p c))
  | .fms d a b c p => some (d, fmadd (fmtOf p) u.rounding false true (u.readFp p a) (u.readFp p b) (u.readFp p c))
  | .fnma d a b c p => some (d, fmadd (fmtOf p) u.rounding true false (u.readFp p a) (u.readFp p b) (u.readFp p c))
  | .fnms d a b c p => some (d, fmadd (fmtOf p) u.rounding true true (u.readFp p a) (u.readFp p b) (u.readFp p c))
  | .fmv d a => some (d, (u.readF a).toNat, 0)
  | .fmvF d a => some (d, (u.readX a).toNat, 0)
  | _ => none

/-- The sign bit of a format. -/
def signBit (f : Fmt) : Nat := 2 ^ (f.eb + f.mb)

/-- The new sign of FSGN and its variants (R108): from the signs of a and b. -/
def newSign : Instr → Option (Fin 32 × Fin 32 × Fin 32 × Fin 4 × (Bool → Bool → Bool))
  | .fsgn d a b p => some (d, a, b, p, fun _ y => y)
  | .fsgnN d a b p => some (d, a, b, p, fun _ y => !y)
  | .fsgnX d a b p => some (d, a, b, p, fun x y => x.xor y)
  | _ => none

/-- The width of an integer type by its code (R83). -/
def intWidth (t : Nat) : Nat := if t < 10 then 8 else if t < 12 then 16 else if t < 14 then 32 else if t < 16 then 64 else 4

/-- RNGST after k steps (R67). -/
def stepped : Nat → BitVec 32 → BitVec 32
  | 0, g => g
  | k + 1, g => stepped k (rngStep g)

/-- A scale as m × 2^e, none where it is poison; the zero scale is zero (R60, R62). -/
def scaleNumber : Scale → Option (Nat × Int)
  | .value m e => some (m, e)
  | .zero => some (0, 0)
  | .poison => none

/-! ## Patterns, numbers and rounding (R58, R64, R65) -/

/-- A pattern of a format whose exponent field is not all ones: a finite number. -/
def isFinitePattern (f : Fmt) (n : Nat) : Prop := n < 2 ^ f.width ∧ n / 2 ^ f.mb % 2 ^ f.eb ≠ 2 ^ f.eb - 1

/-- A pattern of a NaN; it signals where the top bit of its fraction is 0. -/
def isNanPattern (f : Fmt) (n : Nat) : Prop := n < 2 ^ f.width ∧ n / 2 ^ f.mb % 2 ^ f.eb = 2 ^ f.eb - 1 ∧ n % 2 ^ f.mb ≠ 0
def isSignallingPattern (f : Fmt) (n : Nat) : Prop := isNanPattern f n ∧ n / 2 ^ (f.mb - 1) % 2 = 0

/-- The sign bit of a pattern. -/
def negative (f : Fmt) (n : Nat) : Bool := decide (n / 2 ^ (f.eb + f.mb) % 2 = 1)

/-- The number that a finite pattern stands for, subnormals among them (R58). -/
def numberOf (f : Fmt) (n : Nat) : Rat :=
  let fraction := n % 2 ^ f.mb
  let exponent := n / 2 ^ f.mb % 2 ^ f.eb
  let size : Rat := if exponent = 0 then (fraction : Rat) * (2 : Rat) ^ (f.emin - f.mb)
    else ((2 ^ f.mb + fraction : Nat) : Rat) * (2 : Rat) ^ ((exponent : Int) - f.bias - f.mb)
  if negative f n then -size else size

/-- A rule that rounds the magnitude down, or up, for a number of the given sign. -/
def towardZero (r : Round) (neg : Bool) : Prop := r = .zero ∨ r = .up ∧ neg = true ∨ r = .down ∧ neg = false
def awayFromZero (r : Round) (neg : Bool) : Prop := r = .up ∧ neg = false ∨ r = .down ∧ neg = true

/-- Rounded with no upper bound on the exponent, the number is past the largest finite value (R65): `top` is 2^(bias + 1), the power of two after
that value, and `last` the distance of neighbours below it. -/
def overflows (f : Fmt) (r : Round) (neg : Bool) (x : Rat) : Prop :=
  let top := (2 : Rat) ^ ((f.bias : Int) + 1)
  let last := (2 : Rat) ^ ((f.bias : Int) - f.mb)
  (r = .nearest ∧ top - last / 2 ≤ x.abs) ∨ (towardZero r neg ∧ top ≤ x.abs) ∨ (awayFromZero r neg ∧ top - last < x.abs)

/-- Tiny after rounding (R65): rounded with no lower bound on the exponent, the number is below the smallest normal one. -/
def isTiny (f : Fmt) (r : Round) (neg : Bool) (x : Rat) : Prop :=
  let least := (2 : Rat) ^ f.emin
  let last := (2 : Rat) ^ (f.emin - f.mb - 1)
  (r = .nearest ∧ x.abs < least - last / 2) ∨ (towardZero r neg ∧ x.abs < least) ∨ (awayFromZero r neg ∧ x.abs ≤ least - last)

/-- A number is rounded once to a format by the table of R64, with the sign given where it is zero, and sets the flags of R65. -/
structure RoundsTo (f : Fmt) (r : Round) (neg : Bool) (x : Rat) (b : Nat) (flags : Flags) : Prop where
  overflow : overflows f r neg x → flags = flagOF ||| flagNX ∧ ((r = .nearest ∨ awayFromZero r neg) → b = f.infBits neg) ∧ (towardZero r neg → b = f.maxBits neg)
  pattern : ¬ overflows f r neg x → isFinitePattern f b ∧ negative f b = neg
  nearest : ¬ overflows f r neg x → r = .nearest → ∀ n, isFinitePattern f n → (numberOf f b - x).abs ≤ (numberOf f n - x).abs ∧
    (numberOf f n ≠ numberOf f b → (numberOf f n - x).abs = (numberOf f b - x).abs → b % 2 = 0)
  zero : ¬ overflows f r neg x → r = .zero → (numberOf f b).abs ≤ x.abs ∧ ∀ n, isFinitePattern f n → (numberOf f n).abs ≤ x.abs → (numberOf f n).abs ≤ (numberOf f b).abs
  up : ¬ overflows f r neg x → r = .up → x ≤ numberOf f b ∧ ∀ n, isFinitePattern f n → x ≤ numberOf f n → numberOf f b ≤ numberOf f n
  down : ¬ overflows f r neg x → r = .down → numberOf f b ≤ x ∧ ∀ n, isFinitePattern f n → numberOf f n ≤ x → numberOf f n ≤ numberOf f b
  inexact : ¬ overflows f r neg x → (flags.getLsbD 0 = true ↔ numberOf f b ≠ x) ∧ (flags.getLsbD 1 = true ↔ numberOf f b ≠ x ∧ isTiny f r neg x) ∧
    flags.getLsbD 2 = false ∧ flags.getLsbD 3 = false ∧ flags.getLsbD 4 = false

/-- The sign of a sum (R65): its own, or where it is zero the operands' common one, else + but − rounding down. -/
def sumSign (r : Round) (x : Rat) (a b : Bool) : Bool := if x = 0 then (if a = b then a else decide (r = .down)) else decide (x < 0)

/-- What the quiet NaN of R68 is: of the first operand held canonically that is a NaN, made quiet; else the canonical one. -/
def nanResult (f : Fmt) : List Nat → Nat → Prop
  | [], b => b = (2 ^ f.eb - 1) * 2 ^ f.mb + 2 ^ (f.mb - 1)
  | n :: l, b => (isNanPattern f n → b = n ||| 2 ^ (f.mb - 1)) ∧ (¬ isNanPattern f n → nanResult f l b)

/-! ## Accesses to memory -/

/-- The units that wait for the state of a word that has been used up have been passed over once more (R126). -/
def passedBy (kind : WaitKind) (va : Word) (u : Strand) : Strand :=
  { u with wait := u.wait.map fun w => if w.kind = kind ∧ w.addr = va then { w with passed := w.passed + 1 } else w }

/-- The frame of an instruction that accesses memory: of the cube nothing but memory, full bits, ply cells and their pool, timestamps and
operations in flight differs; of the other units what is said; of this unit no register but PC, past the instruction, its counts, and values on
their way. -/
structure AccessesOn (s t : State) (len : Nat) (other : Strand → Strand) : Prop where
  rest : { t with
    units := s.units, mem := s.mem, full := s.full, cells := s.cells, stamps := s.stamps, ctxs := s.ctxs, ops := s.ops, fresh := s.fresh } = s
  others : ∀ k, k ≠ s.cur → t.unit k = other (s.unit k)
  registers : { t.me with
    x := s.me.x, pend := s.me.pend, loads := s.me.loads, stores := s.me.stores, pts := s.me.pts, pc := s.me.pc, hold := s.me.hold, wait := s.me.wait, haltWait := s.me.haltWait, blocks := s.me.blocks } = s.me
  pc : t.me.pc = pcValue s.cur (s.me.pc + BitVec.ofNat 64 len)

/-- The frame of an instruction that accesses memory and passes no waiter over: no other unit differs. -/
abbrev Accesses (s t : State) (len : Nat) : Prop := AccessesOn s t len id

/-- Every register reads as before, but the one named. -/
structure KeepsExcept (u w : Strand) (dest : LoadDest) : Prop where
  x : ∀ r, LoadDest.x r ≠ dest → w.readX r = u.readX r
  v : ∀ r, LoadDest.v r ≠ dest → w.readV r = u.readV r
  tm : ∀ r, LoadDest.tm r ≠ dest → w.readTm r = u.readTm r

/-- The register named holds the value: x0 holds zero (R38). -/
def destHolds (u : Strand) (dest : LoadDest) (w : Word) (l : Line) : Prop := match dest with
  | .x r => u.readX r = if r = 0 then 0 else w
  | .v r => u.readV r = l
  | .tm r => u.readTm r = l.setWidth 256
  | .none => True
  | .block => True

/-- Memory, full bits and ply cells are as before. -/
structure MemoryKept (s t : State) : Prop where
  bytes : ∀ a, t.byte a = s.byte a
  full : t.full = s.full
  cells : t.cells = s.cells
  contexts : t.ctxs = s.ctxs

/-- Bytes are stored under a tag at a place: on a plied page with a nonzero tag into the tag's cell, which then shows them, with the base
and every other cell as before; else into the base, with every other byte and every cell as before (R119, R230). -/
def Stored (s t : State) (l : Loc) (bs : List Byte) (tag : BitVec 16) : Prop :=
  if usesCell l tag then
    (∀ a, t.byte a = s.byte a) ∧ t.view s.myCtx l bs.length tag = bs ∧
      ∀ ck, ck ≠ cellKey s.myCtx tag l.key → Tab.read none t.cells ck = Tab.read none s.cells ck
  else
    (∀ a, t.byte a = if l.key ≤ a ∧ a < l.key + bs.length then bs.getD (a - l.key) 0 else s.byte a) ∧ t.cells = s.cells ∧ t.ctxs = s.ctxs

/-- A place for bytes can be had: the base, a cell, or a free pool line for a new cell (R138). -/
def hasPlace (s : State) (l : Loc) (tag : BitVec 16) : Prop :=
  usesCell l tag = true → s.cell s.myCtx tag l.key ≠ none ∨ ∃ d, d < 4 ∧ 0 < Tab.read 0 (s.ctx s.myCtx).poolFree d

/-- Bytes and signedness of a load's size code (R122). -/
def loadSize (z : Fin 8) : Nat × Bool :=
  match z.val with
  | 0 => (1, true)
  | 1 => (2, true)
  | 2 => (4, true)
  | 3 => (8, true)
  | 4 => (1, false)
  | 5 => (2, false)
  | _ => (4, false)

/-- n little-endian bytes sign- or zero-extended. -/
def loadedValue (signed : Bool) (n : Nat) (bs : List Byte) : Word :=
  let v := leVal bs
  BitVec.ofInt 64 (if signed ∧ 2 ^ (8 * n - 1) ≤ v then (v : Int) - 2 ^ (8 * n) else v)

/-- A load: its address, bytes, signedness, destination, ply tag, length. -/
structure LoadShape where
  addr : Word
  bytes : Nat
  signed : Bool
  dest : LoadDest
  tag : BitVec 16
  len : Nat

/-- The tag of a form that names one: bits [15:0] of the register, tag 0 on a spindle core (R92, R50). -/
def namedTag (s : State) (p : Fin 32) : BitVec 16 := if isSpindle s.cur then 0 else (s.me.readX p).setWidth 16

/-- The loads (R79, R81, R122, R127). -/
def loadOf (s : State) : Instr → Option LoadShape
  | .ld d b z o => some ⟨s.me.readX b + o.signExtend 64, (loadSize z).1, (loadSize z).2, .x d, s.myTag, 4⟩
  | .ldPly d b z p o => some ⟨s.me.readX b + o.signExtend 64, (loadSize z).1, (loadSize z).2, .x d, namedTag s p, 4⟩
  | .cLd d b o => some ⟨s.me.readX (Fin.ofNat 32 (b.val + 8)) + BitVec.ofNat 64 (8 * o.val), 8, true, .x (Fin.ofNat 32 (d.val + 8)), s.myTag, 2⟩
  | .tmld n a o => some ⟨s.me.readX a + o.signExtend 64, 32, false, .tm n, s.myTag, 4⟩
  | _ => none

/-- A store: its address, bytes, the register's value, ply tag, length. -/
structure StoreShape where
  addr : Word
  bytes : Nat
  value : Word
  tag : BitVec 16
  len : Nat

/-- The stores (R79, R81, R122). -/
def storeOf (s : State) : Instr → Option StoreShape
  | .st d b z o => some ⟨s.me.readX b + o.signExtend 64, 2 ^ z.val, s.me.readX d, s.myTag, 4⟩
  | .stPly d b z p o => some ⟨s.me.readX b + o.signExtend 64, 2 ^ z.val, s.me.readX d, namedTag s p, 4⟩
  | .cSt d b o => some ⟨s.me.readX (Fin.ofNat 32 (b.val + 8)) + BitVec.ofNat 64 (8 * o.val), 8, s.me.readX (Fin.ofNat 32 (d.val + 8)), s.myTag, 2⟩
  | _ => none

/-- LDFE and LDFF: the address, the destination, whether the word is emptied, the length (R125, R81). -/
def fullLoadOf (s : State) : Instr → Option (Word × Fin 32 × Bool × Nat)
  | .ldfe d b o => some (s.me.readX b + o.signExtend 64, d, true, 4)
  | .ldff d b o => some (s.me.readX b + o.signExtend 64, d, false, 4)
  | .cLdfe d b => some (s.me.readX b, d, true, 2)
  | _ => none

/-- STEF: the address, the value, the length (R125, R81). -/
def emptyStoreOf (s : State) : Instr → Option (Word × Word × Nat)
  | .stef d b o => some (s.me.readX b + o.signExtend 64, s.me.readX d, 4)
  | .cStef d b => some (s.me.readX b, s.me.readX d, 2)
  | _ => none

/-! ## Atomics and locks -/

/-- The scope that an address requires of the issuing core (R129). -/
def scopeFor (s : State) (l : Loc) : Nat :=
  if l.cube ≠ s.cubeNum then 3
  else if l.scratch then
    if scratchCore l.key = coreOf s.cur then 0 else if scratchCore l.key / 8 = coreOf s.cur / 8 then 1 else 2
  else 2

/-- An atomic: destination, address and operand registers, scope, D or W, whether the old value is sign-extended, whether it is a
side-effect store (R136), and the new value from the old one and the operand, both n bits (R130). -/
structure AtomicShape where
  d : Fin 32
  a : Fin 32
  b : Fin 32
  scope : Fin 4
  wide : Bool
  signed : Bool
  sideEffect : Bool
  new : (n old opd : Nat) → Nat

/-- An n-bit number read as signed. -/
def signedOf (n v : Nat) : Int := if 2 ^ (n - 1) ≤ v then (v : Int) - 2 ^ n else v

/-- The operations of AMO (R130). -/
def atomicOf : Instr → Option AtomicShape
  | .amoAdd d a b c z => some ⟨d, a, b, c, z, true, false, fun n o p => (o + p) % 2 ^ n⟩
  | .amoMin d a b c z => some ⟨d, a, b, c, z, true, false, fun n o p => if signedOf n o < signedOf n p then o else p⟩
  | .amoMax d a b c z => some ⟨d, a, b, c, z, true, false, fun n o p => if signedOf n o < signedOf n p then p else o⟩
  | .amoMinu d a b c z => some ⟨d, a, b, c, z, false, false, fun _ o p => min o p⟩
  | .amoMaxu d a b c z => some ⟨d, a, b, c, z, false, false, fun _ o p => max o p⟩
  | .amoAnd d a b c z => some ⟨d, a, b, c, z, false, false, fun _ o p => o &&& p⟩
  | .amoOr d a b c z => some ⟨d, a, b, c, z, false, false, fun _ o p => o ||| p⟩
  | .amoXor d a b c z => some ⟨d, a, b, c, z, false, false, fun _ o p => o ^^^ p⟩
  | .amoSwap d a b c z => some ⟨d, a, b, c, z, false, true, fun _ _ p => p⟩
  | .amoFadd d a b c z => some ⟨d, a, b, c, z, false, true, fun n o p => engineAdd (if n = 32 then fp32 else fp64) o p⟩
  | _ => none

/-- How an atomic counts: a load into x[d], or a store where d is x0; PC goes on (R130, R131, R132). -/
structure AtomicCounts (s t : State) (d : Fin 32) (v : Word) : Prop where
  frame : Accesses s t 4
  keeps : KeepsExcept s.me t.me (.x d)
  value : t.me.readX d = if d = 0 then 0 else v
  loads : t.me.loads = s.me.loads + (if d = 0 then 0 else 1)
  stores : t.me.stores = s.me.stores + (if d = 0 then 1 else 0)

/-- Room in the counter that an atomic counts in (R44). -/
def atomicRoom (s : State) (d : Fin 32) : Prop := (d = 0 → s.me.stores < 65535) ∧ (d ≠ 0 → s.me.loads < 65535)

/-- A lock word's fields WR, WPREF, WWAIT, RD (R132). -/
def lockFields (w : Word) : Bool × Bool × Nat × Nat := (w.getLsbD 63, w.getLsbD 62, w.toNat / 2 ^ 32 % 2 ^ 30, w.toNat % 2 ^ 32)

/-- A lock attempt: destination, address, scope; whether it succeeds on the fields; the fields after success; whether it answers the old word. -/
structure LockShape where
  d : Fin 32
  a : Fin 32
  scope : Fin 4
  free : (wr wpref : Bool) → (wwait rd : Nat) → Prop
  after : (wr wpref : Bool) → (wwait rd : Nat) → Bool × Bool × Nat × Nat
  old : Bool

/-- The lock forms of one attempt (R132). -/
def lockOf : Instr → Option LockShape
  | .rlkT d a c => some ⟨d, a, c, fun wr wp ww rd => wr = false ∧ ¬ (wp = true ∧ 0 < ww) ∧ rd < 2 ^ 32 - 1, fun wr wp ww rd => (wr, wp, ww, rd + 1), false⟩
  | .wlkT d a c => some ⟨d, a, c, fun wr _ _ rd => wr = false ∧ rd = 0, fun _ wp ww rd => (true, wp, ww, rd), false⟩
  | .runlk d a c => some ⟨d, a, c, fun _ _ _ rd => 0 < rd, fun wr wp ww rd => (wr, wp, ww, rd - 1), true⟩
  | .wunlk d a c => some ⟨d, a, c, fun wr _ _ _ => wr = true, fun _ wp ww rd => (false, wp, ww, rd), true⟩
  | _ => none

/-! ## Vectors (R170 to R186) -/

/-- Lane i of v[r] at n bits a lane: bits [n(i + 1) − 1 : n i] (R40). -/
def laneAt (u : Strand) (r : Fin 32) (n i : Nat) : Nat := (u.readV r).toNat / 2 ^ (n * i) % 2 ^ n

/-- A lane takes part: active and not masked off (R172). -/
def takesPart (u : Strand) (m : Fin 8) (i : Nat) : Prop := i < u.vl.toNat ∧ (u.readM m).getLsbD i = true

/-- The lanes of v[d] that take part receive their results, n bits each, and FPFLG the flags of these lanes; the other lanes keep their
values, and nothing else changes but PC (R172, R174). -/
structure WritesLanes (s t : State) (d : Fin 32) (n : Nat) (on : Nat → Prop) (f : Nat → Nat × Flags) : Prop where
  frame : OnlyMe s t
  lanes : ∀ i, i < 512 / n → (on i → laneAt t.me d n i = (f i).1 % 2 ^ n) ∧ (¬ on i → laneAt t.me d n i = laneAt s.me d n i)
  others : KeepsExcept s.me t.me (.v d)
  flags : ∀ b, t.me.fpflg.getLsbD b = true ↔ s.me.fpflg.getLsbD b = true ∨ ∃ i, i < 512 / n ∧ on i ∧ (f i).2.getLsbD b = true
  registers : { t.me with v := s.me.v, pend := s.me.pend, fpflg := s.me.fpflg, pc := s.me.pc, hold := s.me.hold, wait := s.me.wait, haltWait := s.me.haltWait, blocks := s.me.blocks } = s.me
  pc : t.me.pc = pcValue s.cur (s.me.pc + 4)

/-- A lane form: destination, lane width in bits, the lanes written, each lane's result and flags. -/
structure LaneForm where
  d : Fin 32
  n : Nat
  on : Nat → Prop
  f : Nat → Nat × Flags

/-- A lane form of two integer registers, of a width code (R175). -/
def intLanes (u : Strand) (d a b : Fin 32) (w : Fin 4) (m : Fin 8) (f : (n x y : Nat) → Nat) : Option LaneForm :=
  let n := 8 * 2 ^ w.val
  some ⟨d, n, takesPart u m, fun i => (f n (laneAt u a n i) (laneAt u b n i), 0)⟩

/-- A lane form of two floating registers, of a format code (R174, R176). -/
def floatLanes (u : Strand) (d a b : Fin 32) (w : Fin 4) (m : Fin 8) (f : Fmt → Round → Opnd → Opnd → Nat × Flags) : Option LaneForm :=
  let g := vecFmt w
  some ⟨d, g.width, takesPart u m, fun i => f g u.rounding (g.opnd (laneAt u a g.width i)) (g.opnd (laneAt u b g.width i))⟩

/-- An n-bit pattern of an integer. -/
def wrap (n : Nat) (v : Int) : Nat := (v % (2 ^ n : Int)).toNat

/-- The sum of four products of bytes and an old lane (R179). -/
def dotBytes (u : Strand) (d a b : Fin 32) (sgn : Bool) (j : Nat) : Int :=
  let e (r : Fin 32) (k : Nat) : Int := if sgn then signedOf 8 (laneAt u r 8 (4 * j + k)) else laneAt u r 8 (4 * j + k)
  e a 0 * e b 0 + e a 1 * e b 1 + e a 2 * e b 2 + e a 3 * e b 3 + laneAt u d 32 j

/-- A dot product of floating elements: the two exact products summed and rounded once, then the old lane added and rounded again (R179). -/
def dotFloats (u : Strand) (d a b : Fin 32) (m : Fin 8) (f g : Fmt) : Option LaneForm :=
  some ⟨d, g.width, takesPart u m, fun j => dotLane f g u.rounding (u.readV a) (u.readV b) (laneAt u d g.width j) j⟩

/-- The forms that give each lane a result (R175 to R179, R184). -/
def laneFormOf (u : Strand) : Instr → Option LaneForm
  | .vaddI d a b w m => intLanes u d a b w m fun _ x y => x + y
  | .vsubI d a b w m => intLanes u d a b w m fun n x y => wrap n ((x : Int) - y)
  | .vmulI d a b w m => intLanes u d a b w m fun _ x y => x * y
  | .vminI d a b w m => intLanes u d a b w m fun n x y => if signedOf n x < signedOf n y then x else y
  | .vmaxI d a b w m => intLanes u d a b w m fun n x y => if signedOf n x < signedOf n y then y else x
  | .vminUi d a b w m => intLanes u d a b w m fun _ x y => min x y
  | .vmaxUi d a b w m => intLanes u d a b w m fun _ x y => max x y
  | .vand d a b w m => intLanes u d a b w m fun _ x y => x &&& y
  | .vor d a b w m => intLanes u d a b w m fun _ x y => x ||| y
  | .vxor d a b w m => intLanes u d a b w m fun _ x y => x ^^^ y
  | .vshl d a b w m => intLanes u d a b w m fun n x y => x <<< (y % n)
  | .vshr d a b w m => intLanes u d a b w m fun n x y => x >>> (y % n)
  | .vsha d a b w m => intLanes u d a b w m fun n x y => wrap n (signedOf n x / 2 ^ (y % n))
  | .vsel d a b w m =>
    let n := 8 * 2 ^ w.val
    some ⟨d, n, fun i => i < u.vl.toNat, fun i => (if (u.readM m).getLsbD i then laneAt u a n i else laneAt u b n i, 0)⟩
  | .vaddF d a b w m => floatLanes u d a b w m fadd
  | .vsubF d a b w m => floatLanes u d a b w m fsub
  | .vmulF d a b w m => floatLanes u d a b w m fmul
  | .vdiv d a b w m => floatLanes u d a b w m fdiv
  | .vsqrt d a w m => floatLanes u d a a w m fun g r x _ => fsqrt g r x
  | .vminF d a b w m => floatLanes u d a b w m fun g _ x y => fminmax g false x y
  | .vmaxF d a b w m => floatLanes u d a b w m fun g _ x y => fminmax g true x y
  | .vfma d a b w m =>
    let g := vecFmt w
    some ⟨d, g.width, takesPart u m, fun i =>
      fmadd g u.rounding false false (g.opnd (laneAt u a g.width i)) (g.opnd (laneAt u b g.width i)) (g.opnd (laneAt u d g.width i))⟩
  | .vfms d a b w m =>
    let g := vecFmt w
    some ⟨d, g.width, takesPart u m, fun i =>
      fmadd g u.rounding false true (g.opnd (laneAt u a g.width i)) (g.opnd (laneAt u b g.width i)) (g.opnd (laneAt u d g.width i))⟩
  | .vdotBf16 d a b m => dotFloats u d a b m bf16 fp32
  | .vdotF16 d a b m => dotFloats u d a b m fp16 fp32
  | .vdotF32 d a b m => dotFloats u d a b m fp32 fp64
  | .vdotI8 d a b m => some ⟨d, 32, takesPart u m, fun j => (wrap 32 (dotBytes u d a b true j), 0)⟩
  | .vdotUi8 d a b m => some ⟨d, 32, takesPart u m, fun j => (wrap 32 (dotBytes u d a b false j), 0)⟩
  | .vperm d a b w m =>
    let n := 8 * 2 ^ w.val
    some ⟨d, n, takesPart u m, fun i => (laneAt u a n (laneAt u b n i % (512 / n)), 0)⟩
  | .vbcastX d a w m => some ⟨d, 8 * 2 ^ w.val, takesPart u m, fun _ => ((u.readX a).toNat, 0)⟩
  | .vbcastF d a w m => some ⟨d, 8 * 2 ^ w.val, takesPart u m, fun _ => ((u.readF a).toNat, 0)⟩
  | .vins d a b w =>
    let n := 8 * 2 ^ w.val
    some ⟨d, n, fun i => i = (u.readX b).toNat % (512 / n), fun _ => ((u.readX a).toNat, 0)⟩
  | _ => none

/-- A comparison: destination mask, lane width, mask, each lane's answer and flags. -/
structure CompareForm where
  d : Fin 8
  n : Nat
  m : Fin 8
  f : Nat → Bool × Flags

/-- An integer condition by its number: EQ, NE, LT, GE (R177). -/
def holdsOf (k : Fin 4) (x y : Int) : Bool :=
  match k.val with
  | 0 => decide (x = y)
  | 1 => !decide (x = y)
  | 2 => decide (x < y)
  | _ => !decide (x < y)

/-- A floating condition: FCMP's EQ, its complement, LT, and GE as LE with the operands exchanged (R177, R107). -/
def floatHoldsOf (k : Fin 4) (x y : Opnd) : Bool × Flags :=
  match k.val with
  | 0 => fcompare 0 x y
  | 1 => (!(fcompare 0 x y).1, (fcompare 0 x y).2)
  | 2 => fcompare 1 x y
  | _ => fcompare 2 y x

/-- VCMP (R177). -/
def compareFormOf (u : Strand) : Instr → Option CompareForm
  | .vcmpI d k a b w m =>
    let n := 8 * 2 ^ w.val
    some ⟨d, n, m, fun i => (holdsOf k (signedOf n (laneAt u a n i)) (signedOf n (laneAt u b n i)), 0)⟩
  | .vcmpUi d k a b w m =>
    let n := 8 * 2 ^ w.val
    some ⟨d, n, m, fun i => (holdsOf k (laneAt u a n i) (laneAt u b n i), 0)⟩
  | .vcmpF d k a b w m =>
    let g := vecFmt w
    some ⟨d, g.width, m, fun i => floatHoldsOf k (g.opnd (laneAt u a g.width i)) (g.opnd (laneAt u b g.width i))⟩
  | _ => none

/-- m[d] := v (m0 discards, R38), PC past the instruction, flags added: nothing else changes. -/
structure WritesM (s t : State) (d : Fin 8) (v : Word) : Prop where
  frame : OnlyMe s t
  value : t.me.readM d = if d = 0 then BitVec.allOnes 64 else v
  others : ∀ r, r ≠ d → t.me.readM r = s.me.readM r
  registers : { t.me with m := s.me.m, fpflg := s.me.fpflg, pc := s.me.pc, hold := s.me.hold, wait := s.me.wait, haltWait := s.me.haltWait, blocks := s.me.blocks } = s.me
  pc : t.me.pc = pcValue s.cur (s.me.pc + 4)

/-- The mask forms that write a mask (R186). -/
def maskFormOf (u : Strand) : Instr → Option (Fin 8 × Word)
  | .mand d a b => some (d, u.readM a &&& u.readM b)
  | .mor d a b => some (d, u.readM a ||| u.readM b)
  | .mxor d a b => some (d, u.readM a ^^^ u.readM b)
  | .mnot d a => some (d, ~~~(u.readM a))
  | .mset d a => some (d, u.readX a)
  | _ => none

/-- The lanes that take part, as a list in ascending order. -/
def lanesIn (u : Strand) (a : Fin 32) (n : Nat) (m : Fin 8) : List Nat :=
  ((List.range (512 / n)).filter fun i => decide (i < u.vl.toNat) && (u.readM m).getLsbD i).map (laneAt u a n)

/-- The value of an integer reduction over the lanes that take part, of n bits (R183): by what it is, not by how the tree combines. -/
def reducesTo (o n : Nat) (l : List Nat) (v : Nat) : Prop :=
  match o with
  | 0 => v = l.sum % 2 ^ n
  | 1 => if l = [] then v = 2 ^ (n - 1) - 1 else v ∈ l ∧ ∀ x ∈ l, signedOf n v ≤ signedOf n x
  | 2 => if l = [] then v = 2 ^ (n - 1) else v ∈ l ∧ ∀ x ∈ l, signedOf n x ≤ signedOf n v
  | 3 => if l = [] then v = 2 ^ n - 1 else v ∈ l ∧ ∀ x ∈ l, v ≤ x
  | 4 => if l = [] then v = 0 else v ∈ l ∧ ∀ x ∈ l, x ≤ v
  | 5 => v < 2 ^ n ∧ ∀ b, b < n → (v.testBit b = true ↔ ∀ x ∈ l, x.testBit b = true)
  | 6 => v < 2 ^ n ∧ ∀ b, b < n → (v.testBit b = true ↔ ∃ x ∈ l, x.testBit b = true)
  | _ => v < 2 ^ n ∧ ∀ b, b < n → (v.testBit b = true ↔ (l.filter fun x => x.testBit b).length % 2 = 1)

/-- A vector memory form: the register, element bytes, mask, ply tag, the address of lane i. -/
structure VecShape where
  v : Fin 32
  n : Nat
  m : Fin 8
  tag : BitVec 16
  merged : Bool
  base : Word
  addr : Nat → Word

/-- The addresses of R180: unit stride, a stride in x[rb], an index in lane i of v[rb], sign-extended. -/
def unitStride (u : Strand) (a : Fin 32) (n i : Nat) : Word := u.readX a + BitVec.ofNat 64 (i * n)
def givenStride (u : Strand) (a b : Fin 32) (i : Nat) : Word := u.readX a + BitVec.ofNat 64 i * u.readX b
def indexed (u : Strand) (a b : Fin 32) (n i : Nat) : Word := u.readX a + BitVec.ofInt 64 (signedOf (8 * n) (laneAt u b (8 * n) i))

/-- The vector loads. -/
def vecLoadOf (s : State) : Instr → Option VecShape
  | .vld d a w m => some ⟨d, 2 ^ w.val, m, s.myTag, false, s.me.readX a, unitStride s.me a (2 ^ w.val)⟩
  | .vlds d a b w m => some ⟨d, 2 ^ w.val, m, s.myTag, false, s.me.readX a, givenStride s.me a b⟩
  | .vgath d a b w m => some ⟨d, if w then 8 else 4, m, s.myTag, false, s.me.readX a, indexed s.me a b (if w then 8 else 4)⟩
  | .vldx d a b w m => some ⟨d, 2 ^ w.val, m, namedTag s b, true, s.me.readX a, unitStride s.me a (2 ^ w.val)⟩
  | _ => none

/-- The vector stores. -/
def vecStoreOf (s : State) : Instr → Option VecShape
  | .vst d a w m => some ⟨d, 2 ^ w.val, m, s.myTag, false, s.me.readX a, unitStride s.me a (2 ^ w.val)⟩
  | .vsts d a b w m => some ⟨d, 2 ^ w.val, m, s.myTag, false, s.me.readX a, givenStride s.me a b⟩
  | .vscat d a b w m => some ⟨d, if w then 8 else 4, m, s.myTag, false, s.me.readX a, indexed s.me a b (if w then 8 else 4)⟩
  | _ => none

/-- The instruction issues anew and in one piece: none of its accesses has been made, and no pool line taken for it (R181, R182). -/
def Anew (s : State) : Prop := s.single = false ∧ s.me.taken = [] ∧ s.me.vec = none

/-- Lane i of an access takes part. -/
def VecShape.on (q : VecShape) (u : Strand) (i : Nat) : Prop := i < 64 / q.n ∧ takesPart u q.m i

/-! ## Special registers (R45, R115) -/

/-- The special registers that SRR reads on a strand, by index; none for an index R45 does not list. In strand 0 the message registers read,
in the others the skein registers. -/
def special (s : State) (i : Nat) : Option Word :=
  let u := s.me
  let msg := isMsgStrand s.cur
  let core := coreOf s.cur
  match i with
  | 0x00 => some (BitVec.ofNat 64 (core % 256 + 2 ^ 8 * s.cubeNum))
  | 0x01 => some (BitVec.ofNat 64 (slotOf s.cur % 8))
  | 0x02 => some (BitVec.ofNat 64 (s.myCtx % 16 + 2 ^ 8 * (s.ctx s.myCtx).gen.toNat))
  | 0x03 => some (BitVec.ofNat 64 s.cycle)
  | 0x04 => some (BitVec.ofNat 64 s.gtime)
  | 0x08 => some (u.ply.setWidth 64)
  | 0x09 => some (u.plyq.setWidth 64)
  | 0x10 => some (u.fpctl.setWidth 64)
  | 0x11 => some (u.fpflg.setWidth 64)
  | 0x12 => some (u.rngst.setWidth 64)
  | 0x13 => some (u.vl.setWidth 64)
  | 0x18 => some (BitVec.ofNat 64 (u.last.toNat + 2 ^ 8 * u.major.toNat + 2 ^ 16 * u.err.toNat + 2 ^ 17 * u.engerr.toNat))
  | 0x20 => some (if msg then u.msgcls.setWidth 64 else 0)
  | 0x21 => some (if msg then u.msgsrc.setWidth 64 else 0)
  | 0x22 => some (if msg then u.msgts.setWidth 64 else 0)
  | 0x23 => some (if msg then u.msgrpl.setWidth 64 else 0)
  | 0x28 => some (if msg then 0 else if u.recfree then 1 else 0)
  | 0x29 => some (if msg then 0 else match u.held with
    | some r => BitVec.ofNat 64 (r.done.toNat + 2 ^ 16 * r.visits.toNat + 2 ^ 24 * r.stage.toNat)
    | none => 0)
  | 0x40 => some ((s.cluster (clusterOf s.cur)).astat.setWidth 64)
  | 0x41 => some (leaseSt (s.cluster (clusterOf s.cur)) core s.cycle)
  | 0x48 => some (BitVec.ofNat 64 (s.core core).blktmo)
  | 0x50 => some (spindleCtl (s.unit (unitKey core 8)))
  | 0x51 => some (spindleCtl (s.unit (unitKey core 9)))
  | 0x52 => some 0
  | 0x53 => some 0
  | _ => if 0x30 ≤ i ∧ i ≤ 0x37 then some (if msg then 0 else Tab.read 0 u.lvl (i - 0x30)) else none

/-- A register of the strand itself as SRW leaves it (R42, R47 to R49, R115). -/
def ownWrite (u : Strand) (i : Nat) (v : Word) : Option Strand :=
  match i with
  | 0x09 => some { u with plyq := v.setWidth 3 }
  | 0x10 => some { u with fpctl := v.setWidth 3 }
  | 0x11 => some { u with fpflg := v.setWidth 5 }
  | 0x12 => some { u with rngst := if v.toNat % 2 ^ 32 = 0 then 0x6D2B79F5 else v.setWidth 32 }
  | 0x13 => some { u with vl := BitVec.ofNat 7 (min v.toNat 64) }
  | 0x18 => some { u with
    last := v.setWidth 8, major := (v >>> 8).setWidth 6, err := u.err && !v.getLsbD 16, engerr := u.engerr && !v.getLsbD 17 }
  | _ => none

/-- The strand after an instruction that writes no register: PC past it, no longer waiting. -/
def goesOn (s : State) (u : Strand) (len : Nat) : Strand := { u with pc := pcValue s.cur (s.me.pc + BitVec.ofNat 64 len), hold := none, wait := none, haltWait := none, blocks := [] }

/-! ## Messages -/

/-- A packet has been sent: it waits in the core where it must (R146, R298), else it is on its way, within the cube or to another cube. -/
structure Goes (s t : State) (p : Packet) : Prop where
  waits : s.mustWait p = true → t.outbox = s.outbox ++ [p] ∧ t.inner = s.inner ∧ t.net = s.net
  here : s.mustWait p = false → p.dcube = s.cubeNum → t.inner = s.inner ++ [p] ∧ t.net = s.net ∧ t.outbox = s.outbox
  away : s.mustWait p = false → p.dcube ≠ s.cubeNum → t.net = s.net ++ [p] ∧ t.inner = s.inner ∧ t.outbox = s.outbox

/-- A packet leaves the executing unit; besides it nothing changes but the strand, the numbering of packets, the launch's count of engagements, and
the leases of operand blocks that were read. -/
structure Sends (s t : State) (p : Packet) : Prop where
  frame : { t with
    units := s.units, inner := s.inner, net := s.net, outbox := s.outbox, srcKeys := s.srcKeys, ctxs := s.ctxs, stamps := s.stamps, fresh := s.fresh } = s
  others : ∀ k, k ≠ s.cur → t.unit k = s.unit k
  goes : Goes s t p

/-- The message counter has risen, PC is past the instruction; timestamps apart, no register has changed. -/
def sentOn (s t : State) : Prop := t.me = goesOn s { s.me with msgs := s.me.msgs + 1, pts := t.me.pts } 4

/-- The message that strand 0 handles owes its sender no acknowledgement of an engagement (R35). -/
def owesNothing (u : Strand) : Prop := ∀ m, u.inMsg = some m → m.owes = false

/-- A strand without work (R15): what it waited for, its unreturned loads and what it held are gone. -/
def atRest (u : Strand) : Prop := u.st = .idle ∧ u.pend = [] ∧ u.loads = 0 ∧ u.wid = 0 ∧ u.held = none ∧ u.recfree = false ∧ u.event = none

/-- The pool and the spill slots of a core fit below its inboxes (R18). -/
def regionsFit (k : Machine.Core) : Prop := poolBytes k + k.spillSize * 4096 ≤ inboxBase

/-- The executing strand has been suspended into a free slot of its core's pool (R148): the slot is parked as said and keeps a held record;
its record holds the next address, the strand's PLY, x9 to x14; the strand is at rest. -/
structure Suspended (s t : State) (park : Park) (worker : Option Worker) (len : Nat) : Prop where
  rest : atRest t.me
  others : ∀ k, k ≠ s.cur → t.unit k = s.unit k
  slot : ∃ n, n < (s.core (coreOf s.cur)).poolSize ∧ Tab.read none (s.core (coreOf s.cur)).slots n = none ∧
    (∃ e, Tab.read none (t.core (coreOf s.cur)).slots n = some e ∧ e.park = park ∧ e.held = s.me.held ∧ e.worker = worker ∧ e.recfree = s.me.recfree) ∧
    (regionsFit (s.core (coreOf s.cur)) → coreOf s.cur < 256 → let ws := t.record (coreOf s.cur) n
      wordAt ws 0 = s.me.pc + BitVec.ofNat 64 len ∧ (wordAt ws 1).setWidth 16 = s.me.ply ∧
        ∀ j : Fin 6, wordAt ws (j.val + 2) = s.me.readX (Fin.ofNat 32 (9 + j.val)))

/-- A slot of the core's pool is free. -/
def slotFree (s : State) : Prop :=
  (s.core (coreOf s.cur)).slots.length < (s.core (coreOf s.cur)).poolSize ∧ Tab.wf none (s.core (coreOf s.cur)).slots = true

/-- A block that lies in one piece of this cube's memory: its bytes as the strand's ply shows them (R145). No piece of it has come yet. -/
def blockAt (s : State) (va : Word) (n : Nat) (bs : List Byte) : Prop :=
  s.me.blocks = [] ∧ ∃ l, s.check va n .read s.myTag false 0 = .ok l ∧ l.cube = s.cubeNum ∧ s.uncorrectable l.key = false ∧ bs = s.view s.myCtx l n s.myTag

/-! ## Tiles -/

/-- The executing core holds the lease, and no limit is reached while another core waits (R191). -/
def leaseHeld (s : State) : Prop :=
  let k := s.cluster (clusterOf s.cur)
  k.holder = some (coreOf s.cur % 8) ∧ (k.waiting = [] ∨ k.cmds < 64 ∧ s.cycle - k.leaseSince < 16384)

/-- A tile command issues: it stands among the operations in flight, the tile-operations counter and the lease's CMDS rise, the array changes
as said, and nothing else changes (R189, R191). -/
structure TileIssued (s t : State) (kind : OpKind) (k : Cluster) : Prop where
  frame : { t with units := s.units, clusters := s.clusters, ops := s.ops, fresh := s.fresh } = s
  others : ∀ c, c ≠ s.cur → t.unit c = s.unit c
  strand : t.me = goesOn s { s.me with tiles := s.me.tiles + 1 } 4
  array : t.cluster (clusterOf s.cur) = { k with cmds := min 64 ((s.cluster (clusterOf s.cur)).cmds + 1) }
  arrays : ∀ c, c ≠ clusterOf s.cur → t.cluster c = s.cluster c
  flight : ∃ o, t.ops = s.ops ++ [o] ∧ o.kind = kind ∧ o.party = s.cur ∧ o.wid = s.me.wid ∧ o.ctr = .tiles ∧ o.status = 0

/-- How far a core of the cluster stands after the last holder in the rotation (R265). -/
def placeAfter (last : Option Nat) (c : Nat) : Nat := match last with
  | some h => (c + 7 - h) % 8
  | none => c

/-- Of several cores the first in the rotation. -/
def firstInRotation (last : Option Nat) (l : List Nat) (w : Nat) : Prop := w ∈ l ∧ ∀ x ∈ l, x ≠ w → placeAfter last w < placeAfter last x

/-- A tile is owned by this core, or not in use (R192, R197). -/
def mayUseTile (s : State) (t : Fin 32) : Prop :=
  let w := (s.cluster (clusterOf s.cur)).tcfgOf t
  w.getLsbD 27 = false ∨ w.toNat / 2 ^ 24 % 8 = coreOf s.cur % 8
def mayUseAcc (s : State) (a : Fin 4) : Prop :=
  let w := (s.cluster (clusterOf s.cur)).accOf a
  w.getLsbD 4 = false ∨ w.toNat / 2 % 8 = coreOf s.cur % 8

/-- A tile is EMPTY or READY (R196). -/
def settled (s : State) (t : Fin 32) : Prop :=
  (s.cluster (clusterOf s.cur)).stateOf t = .empty ∨ (s.cluster (clusterOf s.cur)).stateOf t = .ready


/-! ## Steps of the machine -/

/-- A strand has taken up a record of core `home` (R14): it runs at word 0 with the record's PLY and x9 to x14, everything else zero but RNGST, which
is as before; the slot is free. -/
structure TakenUp (s t : State) (key : Nat) (ws : List Word) : Prop where
  runs : (t.unit key).st = .run
  pc : (t.unit key).pc = pcValue key (wordAt ws 0)
  ply : (t.unit key).ply = recPlytag (wordAt ws 1)
  word1 : (t.unit key).word1 = wordAt ws 1
  random : (t.unit key).rngst = (s.unit key).rngst
  integers : ∀ r : Fin 32, (t.unit key).readX r = if 9 ≤ r.val ∧ r.val ≤ 14 then wordAt ws (r.val - 7) else 0
  floats : ∀ r, (t.unit key).readF r = 0
  vectors : ∀ r, (t.unit key).readV r = 0
  maps : ∀ r, (t.unit key).readTm r = 0
  masks : ∀ r, r ≠ 0 → (t.unit key).readM r = 0
  modes : (t.unit key).vl = 0 ∧ (t.unit key).fpctl = 0 ∧ (t.unit key).fpflg = 0 ∧ (t.unit key).err = false ∧ (t.unit key).engerr = false
  counters : (t.unit key).loads = 0 ∧ (t.unit key).stores = 0 ∧ (t.unit key).copies = 0 ∧ (t.unit key).tiles = 0 ∧ (t.unit key).msgs = 0

/-- The core at distance d in the same cluster. -/
def victimOf (core d : Nat) : Nat := core / 8 * 8 + (core % 8 + d) % 8

/-- A packet leaves this cube's own units: to this cube into its network, to another one out; or it stays behind an earlier one of its key (R296),
for its key's full window or RESYNC (R298), or for its sender's PLYRETs (R146). -/
def Posted (s t : State) (p : Packet → Prop) : Prop :=
  ∃ q, p q ∧ ((q.dcube = s.cubeNum ∧ t.inner = s.inner ++ [q] ∧ t.net = s.net ∧ t.outbox = s.outbox) ∨
    (q.dcube ≠ s.cubeNum ∧ t.net = s.net ++ [q] ∧ t.inner = s.inner ∧ t.outbox = s.outbox) ∨
    ((s.outbox.any q.sameKey = true ∨ s.packetState q ≠ .ready ∨ q.isMessage = true) ∧ t.outbox = s.outbox ++ [q] ∧ t.inner = s.inner ∧ t.net = s.net))

/-- One more of a context's counts. -/
def Counted (s t : State) (ctx : Nat) (c : Count) : Prop := Tab.read 0 (t.ctx ctx).counts c.key = Tab.read 0 (s.ctx ctx).counts c.key + 1

/-- Every strand and spindle core of these cores is halted. -/
def AllHalted (t : State) (cores : List Nat) : Prop := ∀ c ∈ cores, ∀ k ∈ unitsOfCore c, (t.unit k).halted = true

/-- A unit of this cube stops on an event (R87). -/
def UnitStops (s t : State) (key : Nat) (code : EvCode) (addr : Word) : Prop :=
  (t.unit key).st = .stopped ∧ (∃ e, (t.unit key).event = some e ∧ e.code = code ∧ e.addr = addr ∧ e.note = false) ∧ (t.unit key).pc = (s.unit key).pc ∧
    (∀ r, (t.unit key).readX r = (s.unit key).readX r) ∧ ∀ k, k ≠ key → t.unit k = s.unit k



end Sys2Proof.Stated

open Sys2Proof Sys2Proof.Machine Sys2Proof.Stated Host

/-! # Encoding -/

/-- Decode and encode agree: every well-formed instruction that has an encoding decodes, from its bytes with anything after them, to itself. -/
def Obligations.DecodeEncode : Prop :=
  ∀ (i : Instr) (rest : List Byte), wellFormed i = true → instrLen i ≠ 0 → decode (encode i ++ rest) = .ok (i, instrLen i, rest)

/-- Decoding answers well-formed instructions of the length bit 0 gives, and refuses the words that are no instruction.
What decodes is well-formed and has the length that bit 0 of the first halfword gives; the bytes after it are left.
The halfword 0x0000 is not an instruction, and neither is 0xFFFF with any second halfword; a major opcode above 41 is none. -/
def Obligations.DecodingRefuses : Prop :=
  (∀ (b0 b1 : Byte) (l rest : List Byte) (i : Instr) (n : Nat), decode (b0 :: b1 :: l) = .ok (i, n, rest) →
     wellFormed i = true ∧ n = (if b0.getLsbD 0 then 4 else 2) ∧ rest = (b0 :: b1 :: l).drop n) ∧
  ((∀ l i n r, decode (0 :: 0 :: l) ≠ .ok (i, n, r)) ∧ (∀ l i n r, decode (255 :: 255 :: l) ≠ .ok (i, n, r)) ∧
   (∀ (b0 b1 : Byte) l i n r, b0.getLsbD 0 = true → 41 < b0.toNat / 2 % 64 → decode (b0 :: b1 :: l) ≠ .ok (i, n, r)))

/-- Words written out from the spec's encodings decode to the instructions they stand for. -/
def Obligations.DecodeWords : Prop :=
  decodeTableWord 32 0x2468B293 = some (.lih 5 0x2468B) ∧ decodeTableWord 32 0xCF125285 = some (.addi 5 5 (BitVec.ofInt 15 (-6263))) ∧
  decodeTableWord 32 0x10005041 = some (.mret 5 0) ∧ decodeTableWord 32 0x40009043 = some (.mbxw 9) ∧
  decodeTableWord 16 0x1CC4 = some (.cAdd 6 7)

/-! # A step -/

/-- A step in which a unit issues runs the instruction that its PC decodes to: where the unit may issue, its fetch answers a word, the word
decodes to i, a spindle core may execute i and no register of i awaits an answer, the step is exec of i at the state that holds the word for
the event message, followed by what a step does around every instruction: the core notes who issued, waiters wake. It rests on the model's own readings and choices in log entry 2. -/
def Obligations.StepRunsDecoded : Prop :=
  ∀ (s : State) (key w len : Nat) (rest : List Agenda) (i : Instr),
    let s0 : State := { s with agenda := rest }
    let s1 : State := { s0.noteFetch key (.word w len) with cur := key }
    s.agenda = .issue key :: rest → s0.mayIssue key = true → s0.turn key = true → (s0.unit key).vec = none → s0.overBudget key = false →
    s0.fetch key = .word w len → decodeFetched w len = some i → (isSpindle key && !spindleMay i) = false → s1.me.answerDue i = false →
    step s = thenDo (exec i s1) fun t => State.settle s0 (s0.markIssued t key)

/-- A step that is no instruction runs its row; a fetch without an instruction stops the unit. It rests on the model's own readings and choices in log entries 2, 10 and 32.
A step of the machine that the agenda names runs that row's meaning with the input that comes with it, and then waiters wake.
A word that is no instruction, and an instruction that a spindle core does not execute, stop the unit on UNDEF; a fetch that a page or its
data refuses stops it on that event with the halfword's address (R89, R84, R50). -/
def Obligations.StepEventsAndStops : Prop :=
  (∀ (s : State) (i : Instr) (inp : Input) (rest : List Agenda), s.agenda = .event i inp :: rest → instrLen i = 0 →
     step s = thenDo (exec i { s with agenda := rest, inp := inp }) (State.settle { s with agenda := rest })) ∧
  ((∀ (s : State) (key w len : Nat), (s.unit key).vec = none → s.overBudget key = false → s.fetch key = .word w len →
     (decodeFetched w len = none ∨ ∃ i, decodeFetched w len = some i ∧ isSpindle key = true ∧ spindleMay i = false) →
     s.issueUnit key = .next (({ s.noteFetch key (.word w len) with cur := key } : State).takeEvent .undef 0 0 0)) ∧
   (∀ (s : State) (key : Nat) (c : EvCode) (a : Word) (first : Option Nat), (s.unit key).vec = none → s.overBudget key = false →
     s.fetch key = .stop c a first →
     s.issueUnit key = .next (({ s.noteFetch key (.stop c a first) with cur := key } : State).takeEvent c a 0 0)))

/-! # Scalar and control -/

/-- The integer register and immediate forms write the value of their table and change nothing else (R98, R101, R102, R81). -/
def Obligations.IntegerResults : Prop :=
  ∀ (s : State) (i : Instr) (d : Fin 32) (v : Word) (len : Nat), integerResult s.me i = some (d, v, len) →
    ∃ t, exec i s = .next t ∧ WritesX s t d v (s.me.pc + BitVec.ofNat 64 len)

/-- DIV, DIVU, REM and REMU in every case of R99. -/
def Obligations.DivisionResults : Prop :=
  ∀ (s : State) (d a b : Fin 32), let x := s.me.readX a; let y := s.me.readX b
    let q : Word := if y = 0 then BitVec.allOnes 64 else if x = 0x8000000000000000 ∧ y = BitVec.allOnes 64 then 0x8000000000000000
      else BitVec.ofInt 64 (x.toInt.tdiv y.toInt)
    let qu : Word := if y = 0 then BitVec.allOnes 64 else BitVec.ofNat 64 (x.toNat / y.toNat)
    (∃ t, exec (.div d a b) s = .next t ∧ WritesX s t d q (s.me.pc + 4)) ∧
    (∃ t, exec (.divu d a b) s = .next t ∧ WritesX s t d qu (s.me.pc + 4)) ∧
    (∃ t, exec (.rem d a b) s = .next t ∧ WritesX s t d (if y = 0 then x else x - q * y) (s.me.pc + 4)) ∧
    (∃ t, exec (.remu d a b) s = .next t ∧ WritesX s t d (if y = 0 then x else x - qu * y) (s.me.pc + 4)) ∧
    (y ≠ 0 → (x - q * y ≠ 0 → (x - q * y).msb = x.msb) ∧ (x - qu * y).toNat < y.toNat)

/-- Counting bits, and bit fields (R98, R100).
CLZ, CTZ and POPC count bits (R98).
BEXT and BINS bit by bit (R100): POS is bits [5:0] of x[rb], LEN bits [14:8], the field covers POS up to min(POS + LEN, 64) − 1. -/
def Obligations.BitOperations : Prop :=
  (∀ (s : State) (d a : Fin 32), let x := s.me.readX a
     (∃ t n, exec (.clz d a) s = .next t ∧ WritesX s t d (BitVec.ofNat 64 n) (s.me.pc + 4) ∧ n ≤ 64 ∧
       (∀ i, i < n → x.getMsbD i = false) ∧ (n < 64 → x.getMsbD n = true)) ∧
     (∃ t n, exec (.ctz d a) s = .next t ∧ WritesX s t d (BitVec.ofNat 64 n) (s.me.pc + 4) ∧ n ≤ 64 ∧
       (∀ i, i < n → x.getLsbD i = false) ∧ (n < 64 → x.getLsbD n = true)) ∧
     (∃ t, exec (.popc d a) s = .next t ∧ WritesX s t d (BitVec.ofNat 64 ((List.range 64).filter x.getLsbD).length) (s.me.pc + 4))) ∧
  (∀ (s : State) (d a b : Fin 32), let x := s.me.readX a; let y := (s.me.readX b).toNat
     let pos := y % 64; let len := y / 2 ^ 8 % 128; let stop := min (pos + len) 64
     (∃ t v, exec (.bext d a b) s = .next t ∧ WritesX s t d v (s.me.pc + 4) ∧
       ∀ i, i < 64 → v.getLsbD i = (decide (pos + i < stop) && x.getLsbD (pos + i))) ∧
     (∃ t v, exec (.bins d a b) s = .next t ∧ WritesX s t d v (s.me.pc + 4) ∧
       ∀ i, i < 64 → v.getLsbD i = if pos ≤ i ∧ i < stop then x.getLsbD (i - pos) else (s.me.readX d).getLsbD i))

/-- Conditional branches, LOOP, and the jumps with their links (R81, R110 to R112).
The conditional branches go to PC + 2 × offset where their condition holds, else past the instruction; nothing but PC changes.
LOOP: n := (x[ra] − 1) mod 2^64, x[ra] := n, PC := PC + 2 × offset unless n is zero (R111).
JL, JLR and C.J (R110, R81): the link is PC + 4, the target PC + 2 × offset or x[ra] + imm15; an odd target of JLR raises ALIGN with ADDR the
target and writes no register. That PC and the link count bytes on a spindle core too is the model's own reading (log entry 94). -/
def Obligations.ControlFlow : Prop :=
  (∀ (s : State) (a b : Fin 32) (o : BitVec 12), let x := s.me.readX a; let y := s.me.readX b; let off := o.signExtend 64
     BranchesOn s (.bcEq a b o) (x = y) off 4 ∧ BranchesOn s (.bcNe a b o) (x ≠ y) off 4 ∧
     BranchesOn s (.bcLt a b o) (x.toInt < y.toInt) off 4 ∧ BranchesOn s (.bcGe a b o) (y.toInt ≤ x.toInt) off 4 ∧
     BranchesOn s (.bcLtu a b o) (x.toNat < y.toNat) off 4 ∧ BranchesOn s (.bcGeu a b o) (y.toNat ≤ x.toNat) off 4) ∧
  (∀ (s : State) (m : Fin 8) (o : BitVec 12), let off := o.signExtend 64
     BranchesOn s (.bmAny m o) (¬ testedBits s.me m fun _ b => b = false) off 4 ∧
     BranchesOn s (.bmAll m o) (testedBits s.me m fun _ b => b = true) off 4 ∧
     BranchesOn s (.bmNone m o) (testedBits s.me m fun _ b => b = false) off 4) ∧
  (∀ (s : State) (a : Fin 32) (o : BitVec 6), BranchesOn s (.cBz a o) (s.me.readX a = 0) (o.signExtend 64) 2 ∧
     BranchesOn s (.cBnz a o) (s.me.readX a ≠ 0) (o.signExtend 64) 2) ∧
  (∀ (s : State) (a : Fin 32) (o : BitVec 12), let n := s.me.readX a - 1
     ∃ t, exec (.loop a o) s = .next t ∧ WritesX s t a n (if n ≠ 0 then s.me.pc + o.signExtend 64 * 2 else s.me.pc + 4)) ∧
  (∀ (s : State) (d a : Fin 32) (o : BitVec 20) (im : BitVec 15) (c : BitVec 11), let tgt := s.me.readX a + im.signExtend 64
     (∃ t, exec (.jl d o) s = .next t ∧ WritesX s t d (s.me.pc + 4) (s.me.pc + o.signExtend 64 * 2)) ∧
     (tgt.getLsbD 0 = false → ∃ t, exec (.jlr d a im) s = .next t ∧ WritesX s t d (s.me.pc + 4) tgt) ∧
     (tgt.getLsbD 0 = true → ∃ t, exec (.jlr d a im) s = .next t ∧ StopsOn s t .align tgt 0 0) ∧
     (∃ t, exec (.cJ c) s = .next t ∧ OnlyPc s t (s.me.pc + c.signExtend 64 * 2)))

/-- TRAP, SVC and BKPT stop the unit with their event: AUX the code and ADDR x[ra], both zero for BKPT; no register changes (R114, R87). -/
def Obligations.DeliberateStops : Prop :=
  ∀ (s : State) (d a : Fin 32) (k : BitVec 10),
    (∃ t, exec (.trap a k) s = .next t ∧ StopsOn s t .trap (s.me.readX a) 0 k) ∧
    (∃ t, exec (.svc d a k) s = .next t ∧ StopsOn s t .svc (s.me.readX a) 0 k) ∧
    (∃ t, exec .bkpt s = .next t ∧ StopsOn s t .bkpt 0 0 0)

/-! # Scalar floating point -/

/-- The arithmetic, fused, minimum and maximum forms and the moves write one rounded result into f[rd] and add its flags to FPFLG; nothing else
changes (R103 to R106, R108). -/
def Obligations.FloatResults : Prop :=
  ∀ (s : State) (i : Instr) (d : Fin 32) (r : Nat) (g : Flags), floatResult s.me i = some (d, r, g) →
    ∃ t, exec i s = .next t ∧ WritesF s t d (BitVec.ofNat 64 r) g

/-- Sign transfer, comparison and class of floating-point values (R107, R108).
FSGN, FSGN.N and FSGN.X: the magnitude bits of a with the new sign, exact, no flag (R108).
FCMP writes 1 or 0 into x[rd] and adds its flags; FCLASS writes the class and sets no flag (R107, R108). Besides these and PC nothing changes. -/
def Obligations.FloatSignsAndCompares : Prop :=
  (∀ (s : State) (i : Instr) (d a b : Fin 32) (p : Fin 4) (f : Bool → Bool → Bool), newSign i = some (d, a, b, p, f) →
     let x := (s.me.readFp p a).bits; let y := (s.me.readFp p b).bits; let top := signBit (fmtOf p)
     ∃ t, exec i s = .next t ∧ WritesF s t d (BitVec.ofNat 64 (x % top + if f (x / top % 2 = 1) (y / top % 2 = 1) then top else 0)) 0) ∧
  (∀ (s : State) (d a b : Fin 32) (p k : Fin 4),
     (∃ t, exec (.fcmp d a b p k) s = .next t ∧ OnlyMe s t ∧ t.me.pc = pcValue s.cur (s.me.pc + 4) ∧
       t.me.fpflg = s.me.fpflg ||| (fcompare k (s.me.readFp p a) (s.me.readFp p b)).2 ∧
       (∀ r, t.me.readX r = if r = d ∧ d ≠ 0 then (if (fcompare k (s.me.readFp p a) (s.me.readFp p b)).1 then 1 else 0) else s.me.readX r) ∧
       (∀ r, t.me.readV r = s.me.readV r) ∧ (∀ r, t.me.readTm r = s.me.readTm r) ∧
       { t.me with x := s.me.x, pend := s.me.pend, fpflg := s.me.fpflg, pc := s.me.pc, hold := s.me.hold, wait := s.me.wait, haltWait := s.me.haltWait, blocks := s.me.blocks } = s.me) ∧
     (∃ t, exec (.fclass d a p) s = .next t ∧ WritesX s t d (BitVec.ofNat 64 (fclass (fmtOf p) (s.me.readFp p a))) (s.me.pc + 4)))

/-- Numbers brought into another format. FCVT (R109): a floating destination receives the converted value in f[rd] (R69), stochastically rounded with the next random bits exactly when
it is BF16 or FP16 under MODE 4, which alone steps RNGST once; an integer one the extended value in x[rd]; the conversion's flags are added, and
nothing else changes but PC. What the conversions compute is stated by FloatRounding.
BADDQ, BQUANT and QDOT (R211 to R215): the block and its header in x[H], the result requantised by R212: of BADDQ the exact sums of the
dequantised elements, of BQUANT the values of 2 or 4 registers in the source format; a poisoned header, and for BQUANT a NaN or infinity, poisons the
block and sets NV; QDOT adds the exact dot product to f[rd] with one rounding. Besides the block, the header and FPFLG nothing changes but PC. -/
def Obligations.Conversions : Prop :=
  (∀ (s : State) (d a : Fin 32) (t sz : Fin 32), wellFormed (.fcvt d a t sz) = true →
     let u := s.me
     let steps := decide (u.fpctl = 4) && decide (t.val = 2 ∨ t.val = 3)
     let rnd : Option Nat := if steps then some ((rngStep u.rngst).toNat / 2 ^ 16) else none
     let toFloat := if sz.val < 4 then cvtFloat (fmtOfCode sz.val) (fmtOfCode t.val) u.rounding rnd ((fmtOfCode sz.val).readReg (u.readF a))
       else cvtOfInt (fmtOfCode t.val) u.rounding rnd (intOf (decide (sz.val % 2 = 0)) (intWidth sz.val) (u.readX a).toNat)
     let toInt := cvtToInt u.rounding (decide (t.val % 2 = 0)) (intWidth t.val) ((fmtOfCode sz.val).readReg (u.readF a))
     ∃ r, exec (.fcvt d a t sz) s = .next r ∧ OnlyMe s r ∧ r.me.pc = pcValue s.cur (u.pc + 4) ∧
       r.me.rngst = (if steps then rngStep u.rngst else u.rngst) ∧
       r.me.fpflg = u.fpflg ||| (if t.val < 4 then toFloat.2 else toInt.2) ∧
       (∀ q, r.me.readF q = if t.val < 4 ∧ q = d then BitVec.ofNat 64 toFloat.1 else u.readF q) ∧
       (∀ q, r.me.readX q = if 4 ≤ t.val ∧ q = d ∧ d ≠ 0 then BitVec.ofInt 64 toInt.1 else u.readX q) ∧
       (∀ q, r.me.readV q = u.readV q) ∧ (∀ q, r.me.readTm q = u.readTm q) ∧
       { r.me with
         f := u.f, x := u.x, pend := u.pend, fpflg := u.fpflg, rngst := u.rngst, pc := u.pc, hold := u.hold, wait := u.wait, haltWait := u.haltWait, blocks := u.blocks } = u) ∧
  (∀ (s : State) (d a b : Fin 32) (h : Fin 16) (q : Bool) (z : Bool), let u := s.me; let x := u.readX (Fin.ofNat 32 h.val)
     let size := if q then 128 else 64; let bits := if q then 4 else 8
     let written (t : State) (r : Nat × List Nat × Flags) : Prop := OnlyMe s t ∧ t.me.pc = pcValue s.cur (u.pc + 4) ∧
       (∀ i, i < size → laneAt t.me d bits i = r.2.1.getD i 0 % 2 ^ bits) ∧ (∀ v, v ≠ d → t.me.readV v = u.readV v) ∧
       t.me.readX (Fin.ofNat 32 h.val) = (if h = 0 then 0 else BitVec.ofNat 64 r.1) ∧ (∀ v, v ≠ Fin.ofNat 32 h.val → t.me.readX v = u.readX v) ∧
       t.me.fpflg = u.fpflg ||| r.2.2 ∧ (∀ v, t.me.readTm v = u.readTm v) ∧
       { t.me with
         v := u.v, x := u.x, pend := u.pend, fpflg := u.fpflg, pc := u.pc, hold := u.hold, wait := u.wait, haltWait := u.haltWait, blocks := u.blocks } = u
     let f := if z then fp16 else bf16
     let pattern (i : Nat) : Nat := laneAt u (Fin.ofNat 32 (a.val + i / 32)) 16 (i % 32)
     let special (i : Nat) : Prop := pattern i / 2 ^ f.mb % 2 ^ f.eb = 2 ^ f.eb - 1
     let multiple (i : Nat) : Int := match f.unpack (pattern i) with
       | .fin n k e => (if n then -1 else 1) * ((k * 2 ^ (e - (f.emin - f.mb)).toNat : Nat) : Int)
       | _ => 0
     let dot := match groupTerm (headerA q x) (headerB q x) ((List.range size).map fun i => (laneAt u a bits i, laneAt u b bits i)) with
       | none => (fp64.qnan, flagNV)
       | some e => fp64.compute u.rounding [fp64.opnd (u.readF d).toNat] ((fp64.opnd (u.readF d).toNat).num.add u.rounding e)
     ((headerA q x).1 = .poison ∨ (headerB q x).1 = .poison → ∃ t, exec (.baddq d a b h q) s = .next t ∧ written t (poisonedBlock q)) ∧
     (∀ ma ea mb eb, scaleNumber (headerA q x).1 = some (ma, ea) → scaleNumber (headerB q x).1 = some (mb, eb) → let e := min ea eb
       ∃ t, exec (.baddq d a b h q) s = .next t ∧ written t (requantise q ((List.range size).map fun i =>
         ((laneAt u a bits i : Int) - (headerA q x).2) * (ma * 2 ^ (ea - e).toNat) + ((laneAt u b bits i : Int) - (headerB q x).2) * (mb * 2 ^ (eb - e).toNat)) e)) ∧
     ((∃ i, i < size ∧ special i) → ∃ t, exec (.bquant d a z h q) s = .next t ∧ written t (poisonedBlock q)) ∧
     ((∀ i, i < size → ¬ special i) → ∃ t, exec (.bquant d a z h q) s = .next t ∧ written t (requantise q ((List.range size).map multiple) (f.emin - f.mb))) ∧
     (∃ t, exec (.qdot d a b h q) s = .next t ∧ WritesF s t d (BitVec.ofNat 64 dot.1) dot.2))

/-! # Memory -/

/-- Loads: LD with its ply and short forms, TMLD, LDX (R119, R122, R123, R127).
A load checks its address, then is performed at one point: its destination holds the extended bytes that the strand's ply shows, it counts
as a load, and memory is as before (R119, R122, R127, R81).
LDX (R123): each byte is the marked byte of the named ply's cell, or the base's; sign-extended. -/
def Obligations.LoadResults : Prop :=
  (∀ (s : State) (i : Instr) (q : LoadShape) (l : Loc), loadOf s i = some q → wellFormed i = true → s.me.loads < 65535 →
     s.check q.addr q.bytes .read q.tag false 0 = .ok l → l.cube = s.cubeNum → s.uncorrectable l.key = false →
     ∃ t, exec i s = .next t ∧ Accesses s t q.len ∧ KeepsExcept s.me t.me q.dest ∧ MemoryKept s t ∧ t.me.loads = s.me.loads + 1 ∧
       t.me.stores = s.me.stores ∧ destHolds t.me q.dest (loadedValue q.signed q.bytes (s.view s.myCtx l q.bytes q.tag))
         (BitVec.ofNat 512 (leVal (s.view s.myCtx l q.bytes q.tag)))) ∧
  (∀ (s : State) (d b p : Fin 32) (z : Fin 8) (o : BitVec 4) (l : Loc), 3 ≤ z.val → z.val < 7 → s.me.loads < 65535 →
     let n := 2 ^ (z.val - 3); let tag := namedTag s p
     s.check (s.me.readX b + o.signExtend 64) n .read tag false 0 = .ok l → l.cube = s.cubeNum → s.uncorrectable l.key = false →
     ∃ t bs, exec (.ldx d b z p o) s = .next t ∧ Accesses s t 4 ∧ KeepsExcept s.me t.me (.x d) ∧ MemoryKept s t ∧ t.me.loads = s.me.loads + 1 ∧
       destHolds t.me (.x d) (loadedValue true n bs) 0 ∧ bs.length = n ∧
       ∀ i, i < n → bs[i]? = some (match (if usesCell l tag then s.cell s.myCtx tag l.key else none) with
         | some c => if c.mask.getLsbD ((l.key + i) % 64) then (lineBytes c.data).getD ((l.key + i) % 64) 0 else s.byte (l.key + i)
         | none => s.byte (l.key + i)))

/-- A store checks its address, then its low bytes are written at one point under its ply; it counts as a store until it is performed, and
no register changes (R119, R122, R81). -/
def Obligations.Stores : Prop :=
  ∀ (s : State) (i : Instr) (q : StoreShape) (l : Loc), storeOf s i = some q → s.me.stores < 65535 →
    s.check q.addr q.bytes .write q.tag true 0 = .ok l → l.cube = s.cubeNum → hasPlace s l q.tag →
    ∃ t, exec i s = .next t ∧ Accesses s t q.len ∧ KeepsExcept s.me t.me (.x 0) ∧ t.full = s.full ∧ t.me.stores = s.me.stores + 1 ∧
      t.me.loads = s.me.loads ∧ Stored s t l (leBytes q.bytes q.value.toNat) q.tag

/-- A load or store whose address the checks refuse stops the unit with that event, with ADDR the address; a misaligned one stops with ALIGN
(R119, R87). -/
def Obligations.AccessesStop : Prop :=
  (∀ (s : State) (i : Instr) (q : LoadShape) (c : EvCode), loadOf s i = some q → wellFormed i = true → s.me.loads < 65535 →
    (q.addr.toNat % q.bytes ≠ 0 ∧ c = .align ∨ q.addr.toNat % q.bytes = 0 ∧ s.resolve (coreOf s.cur) s.myCtx q.addr .read q.tag = .error c) →
    ∃ t, exec i s = .next t ∧ StopsOn s t c q.addr 0 0) ∧
  (∀ (s : State) (i : Instr) (q : StoreShape) (c : EvCode), storeOf s i = some q → s.me.stores < 65535 →
    (q.addr.toNat % q.bytes ≠ 0 ∧ c = .align ∨ q.addr.toNat % q.bytes = 0 ∧ s.resolve (coreOf s.cur) s.myCtx q.addr .write q.tag = .error c) →
    ∃ t, exec i s = .next t ∧ StopsOn s t c q.addr 0 0)

/-- The scratch window (R93, R234), and plies beside base memory (R119, R230).
A scratch-window address (R93): reserved bits raise NOPAGE; on this cube a core outside the context's partition, and a write into the
reserved regions, raise PERM; else the access is to that core's scratchpad, whatever the TLB holds.
Plies keep apart (R119, R230): what is written under a nonzero tag on a plied page that tag reads back, and the base and the view of
every other tag of every context stay as they were. -/
def Obligations.WindowsAndPlies : Prop :=
  (∀ (s : State) (core ctx : Nat) (va : Word) (acc : Access) (tag : BitVec 16), let v := va.toNat
     let cube := v / 2 ^ 36 % 2 ^ 20; let c := v / 2 ^ 28 % 2 ^ 8; let off := v % 2 ^ 20
     v / 2 ^ 60 = 15 →
     ((v / 2 ^ 56 % 2 ^ 4 ≠ 0 ∨ v / 2 ^ 20 % 2 ^ 8 ≠ 0) → s.resolve core ctx va acc tag = .error .nopage) ∧
     (v / 2 ^ 56 % 2 ^ 4 = 0 → v / 2 ^ 20 % 2 ^ 8 = 0 → cube = s.cubeNum →
       ((s.cluster (c / 8)).ctx ≠ some ctx → s.resolve core ctx va acc tag = .error .perm) ∧
       ((s.cluster (c / 8)).ctx = some ctx → acc = .write → poolBase (s.core c) ≤ off → s.resolve core ctx va acc tag = .error .perm) ∧
       ((s.cluster (c / 8)).ctx = some ctx → (acc = .write → off < poolBase (s.core c)) →
         ∃ l, s.resolve core ctx va acc tag = .ok l ∧ l.cube = cube ∧ l.key = scratchKey c off ∧ l.scratch = true ∧ l.plied = false))) ∧
  (∀ (s t : State) (ctx : Nat) (l : Loc) (bs : List Byte) (tag : BitVec 16), usesCell l tag = true → l.key < 2 ^ 46 →
     l.key % 64 + bs.length ≤ 64 → s.put ctx l bs tag = some t →
     t.view ctx l bs.length tag = bs ∧ (∀ a, t.byte a = s.byte a) ∧
     ∀ (c : Nat) (l' : Loc) (n : Nat) (tag' : BitVec 16), (l'.plied = true → l'.key < 2 ^ 46) → (c ≠ ctx ∨ tag' ≠ tag ∨ l'.key / 64 ≠ l.key / 64) →
       t.view c l' n tag' = s.view c l' n tag')

/-- Words with a full bit: loads, stores, reading and writing the bit (R124 to R126).
LDFE, LDFF and C.LDFE (R125, R126): on a full word the value comes at once and LDFE empties the word, whose other waiters have then been passed
over once more; on an empty one, and for LDFE on one that a waiter passed over 16 times is next at, a task strand is BLOCKED with nothing else
changed; in a handler HBLOCK.
STEF and C.STEF (R125, R126): on an empty word it is written and filled at once, and its other waiters have been passed over once more; on a full
one, and on one that a waiter passed over 16 times is next at, a task strand is BLOCKED.
FEGET, STFF and FESET never wait (R125): FEGET reads the bit as a load; STFF writes the word and fills it, FESET writes the bit; both
count as stores. -/
def Obligations.FullWords : Prop :=
  (∀ (s : State) (i : Instr) (va : Word) (d : Fin 32) (empties : Bool) (len : Nat) (l : Loc), fullLoadOf s i = some (va, d, empties, len) →
     (isMsgStrand s.cur = true → ∃ t, exec i s = .next t ∧ StopsOn s t .hblock 0 0 0) ∧
     (isMsgStrand s.cur = false → s.check va 8 (if empties then .write else .read) 0 empties 0 = .ok l → l.scratch = true → l.cube = s.cubeNum →
       (s.isFull l.key = true → (empties = true → s.isReserved .full va = false) → s.uncorrectable l.key = false →
         ∃ t, exec i s = .next t ∧ AccessesOn s t len (if empties then passedBy .full va else id) ∧ KeepsExcept s.me t.me (.x d) ∧ (∀ a, t.byte a = s.byte a) ∧
           t.me.readX d = (if d = 0 then 0 else BitVec.ofNat 64 (leVal (s.bytes l.key 8))) ∧ t.me.loads = s.me.loads ∧ t.me.stores = s.me.stores ∧
           t.isFull l.key = !empties ∧ ∀ k, k / 8 ≠ l.key / 8 → t.isFull k = s.isFull k) ∧
       ((s.isFull l.key = false ∨ empties = true ∧ s.isReserved .full va = true) → isSpindle s.cur = false →
         ∃ t, exec i s = .next t ∧ t.me.st = .blocked ∧ { t with units := s.units, fresh := s.fresh } = s ∧
           { t.me with st := s.me.st, hold := s.me.hold, wait := s.me.wait, haltWait := s.me.haltWait } = s.me))) ∧
  (∀ (s : State) (i : Instr) (va v : Word) (len : Nat) (l : Loc), emptyStoreOf s i = some (va, v, len) →
     (isMsgStrand s.cur = true → ∃ t, exec i s = .next t ∧ StopsOn s t .hblock 0 0 0) ∧
     (isMsgStrand s.cur = false → s.check va 8 .write 0 true 0 = .ok l → l.scratch = true → l.cube = s.cubeNum →
       (s.isFull l.key = false → s.isReserved .empty va = false →
         ∃ t, exec i s = .next t ∧ AccessesOn s t len (passedBy .empty va) ∧ KeepsExcept s.me t.me (.x 0) ∧ Stored s t l (leBytes 8 v.toNat) 0 ∧ t.me.stores = s.me.stores ∧
           t.isFull l.key = true ∧ ∀ k, k / 8 ≠ l.key / 8 → t.isFull k = s.isFull k) ∧
       ((s.isFull l.key = true ∨ s.isReserved .empty va = true) → isSpindle s.cur = false →
         ∃ t, exec i s = .next t ∧ t.me.st = .blocked ∧ { t with units := s.units, fresh := s.fresh } = s ∧
           { t.me with st := s.me.st, hold := s.me.hold, wait := s.me.wait, haltWait := s.me.haltWait } = s.me))) ∧
  (∀ (s : State) (d b : Fin 32) (o : BitVec 9) (l : Loc), let va := s.me.readX b + o.signExtend 64
     l.scratch = true → l.cube = s.cubeNum →
     (s.me.loads < 65535 → s.check va 8 .read 0 false 0 = .ok l →
       ∃ t, exec (.feget d b o) s = .next t ∧ Accesses s t 4 ∧ KeepsExcept s.me t.me (.x d) ∧ MemoryKept s t ∧ t.me.loads = s.me.loads + 1 ∧
         t.me.readX d = if d = 0 then 0 else if s.isFull l.key then 1 else 0) ∧
     (s.me.stores < 65535 → s.check va 8 .write 0 true 0 = .ok l →
       (∃ t, exec (.stff d b o) s = .next t ∧ Accesses s t 4 ∧ KeepsExcept s.me t.me (.x 0) ∧ Stored s t l (leBytes 8 (s.me.readX d).toNat) 0 ∧
         t.me.stores = s.me.stores + 1 ∧ t.isFull l.key = true ∧ ∀ k, k / 8 ≠ l.key / 8 → t.isFull k = s.isFull k) ∧
       (∃ t, exec (.feset d b o) s = .next t ∧ Accesses s t 4 ∧ KeepsExcept s.me t.me (.x 0) ∧ (∀ a, t.byte a = s.byte a) ∧
         t.me.stores = s.me.stores + 1 ∧ t.isFull l.key = (s.me.readX d).getLsbD 0 ∧ ∀ k, k / 8 ≠ l.key / 8 → t.isFull k = s.isFull k)))

/-- Atomic read-modify-write and compare-and-swap (R129 to R131).
AMO (R129, R130): one read-modify-write; the old value, extended as the operation says, goes to x[rd] as a load, or the AMO is a posted
store with rd = x0; a scope narrower than the address requires raises PERM.
CAS (R131): the word becomes x[rb] exactly where it equals x[rd], which receives the old word. -/
def Obligations.AtomicResults : Prop :=
  (∀ (s : State) (i : Instr) (q : AtomicShape) (l : Loc), atomicOf i = some q → atomicRoom s q.d →
     let n := if q.wide then 8 else 4; let va := s.me.readX q.a; let old := leVal (s.view s.myCtx l n s.myTag)
     s.check va n .write s.myTag q.sideEffect 0 = .ok l →
     (q.scope.val < scopeFor s l → ∃ t, exec i s = .next t ∧ StopsOn s t .perm va 0 0) ∧
     (scopeFor s l ≤ q.scope.val → l.cube = s.cubeNum → s.uncorrectable l.key = false → hasPlace s l s.myTag →
       ∃ t, exec i s = .next t ∧ AtomicCounts s t q.d (BitVec.ofInt 64 (if q.signed then signedOf (8 * n) old else old)) ∧ t.full = s.full ∧
         Stored s t l (leBytes n (q.new (8 * n) old ((s.me.readX q.b).toNat % 2 ^ (8 * n)))) s.myTag)) ∧
  (∀ (s : State) (d a b : Fin 32) (c : Fin 4) (l : Loc), atomicRoom s d →
     let old := BitVec.ofNat 64 (leVal (s.view s.myCtx l 8 s.myTag))
     s.check (s.me.readX a) 8 .write s.myTag true 0 = .ok l → scopeFor s l ≤ c.val → l.cube = s.cubeNum → s.uncorrectable l.key = false →
     hasPlace s l s.myTag →
       ∃ t, exec (.cas d a b c) s = .next t ∧ AtomicCounts s t d old ∧ t.full = s.full ∧
         (old = s.me.readX d → Stored s t l (leBytes 8 (s.me.readX b).toNat) s.myTag) ∧ (old ≠ s.me.readX d → MemoryKept s t))

/-- Lock words: attempts, and what waits (R132, R133).
RLK.T, WLK.T, RUNLK and WUNLK (R132): an attempt that succeeds changes the named field alone; one that does not changes nothing, and a
failed unlock reports LAST 4, while LAST stays as it is otherwise (DESIGN CHOICE, log entry 98); the .T forms answer 1 or 0, the unlocks the old word.
RLK and WLK (R132, R133): one that succeeds answers 1, and WWAIT falls by the one that its first failed attempt added; the first failed
attempt of a WLK adds one to WWAIT unless it is full, every other failed attempt changes no memory: one of a strand that waits for this word
already, or whose 1 stands in WWAIT since before a halt; a failed one leaves the strand BLOCKED. In a handler they raise HBLOCK. -/
def Obligations.Locks : Prop :=
  (∀ (s : State) (i : Instr) (q : LockShape) (l : Loc) (wr wp : Bool) (ww rd : Nat), lockOf i = some q →
     (q.old = true ∧ q.d = 0 → s.me.stores < 65535) → (¬ (q.old = true ∧ q.d = 0) → s.me.loads < 65535) →
     let w := BitVec.ofNat 64 (leVal (s.view s.myCtx l 8 s.myTag)); let posted : Bool := q.old && decide (q.d = 0)
     s.check (s.me.readX q.a) 8 .write s.myTag true 0 = .ok l → scopeFor s l ≤ q.scope.val → l.cube = s.cubeNum → s.uncorrectable l.key = false →
     hasPlace s l s.myTag → lockFields w = (wr, wp, ww, rd) →
       ∃ t, exec i s = .next t ∧ t.me.pc = pcValue s.cur (s.me.pc + 4) ∧ KeepsExcept s.me t.me (.x q.d) ∧ t.full = s.full ∧
         t.me.loads = s.me.loads + (if posted then 0 else 1) ∧ t.me.stores = s.me.stores + (if posted then 1 else 0) ∧
         (q.free wr wp ww rd → t.me.readX q.d = (if q.d = 0 then 0 else if q.old then w else 1) ∧ t.me.last = s.me.last ∧
           ∃ w', lockFields w' = q.after wr wp ww rd ∧ Stored s t l (leBytes 8 w'.toNat) s.myTag) ∧
         (¬ q.free wr wp ww rd → MemoryKept s t ∧ t.me.readX q.d = (if q.d = 0 then 0 else if q.old then w else 0) ∧
           (q.old = true → t.me.last = 4 ∧ t.me.major = 21) ∧ (q.old = false → t.me.last = s.me.last))) ∧
  (∀ (s : State) (i : Instr) (d a : Fin 32) (c : Fin 4) (l : Loc), (i = .rlk d a c ∨ i = .wlk d a c) →
     let va := s.me.readX a; let w := BitVec.ofNat 64 (leVal (s.view s.myCtx l 8 s.myTag))
     (isMsgStrand s.cur = true → ∃ t, exec i s = .next t ∧ StopsOn s t .hblock 0 0 0) ∧
     (isMsgStrand s.cur = false → s.me.loads < 65535 → s.check va 8 .write s.myTag true 0 = .ok l → scopeFor s l ≤ c.val → l.cube = s.cubeNum →
       s.uncorrectable l.key = false → hasPlace s l s.myTag → ∀ wr wp ww rd, lockFields w = (wr, wp, ww, rd) →
         let readable : Prop := wr = false ∧ ¬ (wp = true ∧ 0 < ww) ∧ rd < 2 ^ 32 - 1; let writable : Prop := wr = false ∧ rd = 0
         let takes (t : State) (after : Bool × Bool × Nat × Nat) : Prop :=
           t.me.pc = pcValue s.cur (s.me.pc + 4) ∧ KeepsExcept s.me t.me (.x d) ∧ t.me.readX d = (if d = 0 then 0 else 1) ∧
             t.me.loads = s.me.loads + 1 ∧ ∃ w', lockFields w' = after ∧ Stored s t l (leBytes 8 w'.toNat) s.myTag
         let blocks (t : State) : Prop := t.me.st = .blocked ∧ t.me.pc = s.me.pc ∧ KeepsExcept s.me t.me (.x 0)
         let waitsHere : Prop := ∃ e, s.me.wait = some e ∧ e.kind = .wlk ∧ e.addr = va
         (i = .rlk d a c → readable → ∃ t, exec i s = .next t ∧ takes t (wr, wp, ww, rd + 1)) ∧
         (i = .rlk d a c → ¬ readable → ∃ t, exec i s = .next t ∧ blocks t ∧ MemoryKept s t) ∧
         (i = .wlk d a c → writable → s.me.wwait ≠ some (l.cube, l.key, if l.plied then s.myTag else 0) → ∃ t, exec i s = .next t ∧ takes t (true, wp, ww, rd)) ∧
         (i = .wlk d a c → writable → s.me.wwait = some (l.cube, l.key, if l.plied then s.myTag else 0) →
           ∃ t, exec i s = .next t ∧ takes t (true, wp, ww - 1, rd)) ∧
         (i = .wlk d a c → ¬ writable → ¬ waitsHere → s.me.wwait ≠ some (l.cube, l.key, if l.plied then s.myTag else 0) → ww < 2 ^ 30 - 1 →
           ∃ t, exec i s = .next t ∧ blocks t ∧ ∃ w', lockFields w' = (wr, wp, ww + 1, rd) ∧ Stored s t l (leBytes 8 w'.toNat) s.myTag) ∧
         (i = .wlk d a c → ¬ writable → ww = 2 ^ 30 - 1 → ∃ t, exec i s = .next t ∧ blocks t ∧ MemoryKept s t) ∧
         (i = .wlk d a c → ¬ writable → waitsHere ∨ s.me.wwait = some (l.cube, l.key, if l.plied then s.myTag else 0) →
           ∃ t, exec i s = .next t ∧ blocks t ∧ t.me.wwait = s.me.wwait ∧ MemoryKept s t)))

/-- FENCE, WAIT and C.WAIT (R134, R135, R81): they go on once the strand's own counters allow it, and wait at issue until then; PREF only goes
on (R128). FENCE awaits every counted operation of its kind whatever its scope, where R134 lets a narrower scope leave operations out (DESIGN
CHOICE, log entry 115). -/
def Obligations.FencesAndWaits : Prop :=
  ∀ (s : State), let u := s.me; let le (n : Nat) (f : Fin 16) : Prop := f.val = 15 ∨ n ≤ f.val
    (∀ (c k : Fin 4), let clear : Prop := (k = 0 → u.loads = 0 ∧ u.stores = 0 ∧ u.msgs = 0) ∧ (k = 1 → u.stores = 0) ∧ (k = 2 → u.msgs = 0) ∧
        (k = 3 → u.copies = 0 ∧ u.tiles = 0)
      (clear → ∃ t, exec (.fence c k) s = .next t ∧ OnlyPc s t (u.pc + 4)) ∧
      (¬ clear → ∃ t, exec (.fence c k) s = .next t ∧ WaitsAtIssue s t .operations)) ∧
    (∀ (l st c ti m : Fin 16), let clear : Prop := le u.loads l ∧ le u.stores st ∧ le u.copies c ∧ le u.tiles ti ∧ le u.msgs m
      (clear → ∃ t, exec (.wait l st c ti m) s = .next t ∧ OnlyPc s t (u.pc + 4)) ∧
      (¬ clear → ∃ t, exec (.wait l st c ti m) s = .next t ∧ WaitsAtIssue s t .operations)) ∧
    (∀ (b : BitVec 5), let clear : Prop := (b.getLsbD 0 = true → u.loads = 0) ∧ (b.getLsbD 1 = true → u.stores = 0) ∧ (b.getLsbD 2 = true → u.copies = 0) ∧
        (b.getLsbD 3 = true → u.tiles = 0) ∧ (b.getLsbD 4 = true → u.msgs = 0)
      (clear → ∃ t, exec (.cWait b) s = .next t ∧ OnlyPc s t (u.pc + 2)) ∧
      (¬ clear → ∃ t, exec (.cWait b) s = .next t ∧ WaitsAtIssue s t .operations)) ∧
    (∀ h a o, ∃ t, exec (.pref h a o) s = .next t ∧ OnlyPc s t (u.pc + 4))

/-! # Vectors and masks -/

/-- Every form that gives lanes a result, integer, floating, dot product, permutation, broadcast and insertion (R172 to R179, R184): the lanes
that take part receive it, the others keep theirs, the flags are the union over those that take part, and nothing else changes. -/
def Obligations.VectorLanes : Prop :=
  ∀ (s : State) (i : Instr) (q : LaneForm), laneFormOf s.me i = some q → ∃ t, exec i s = .next t ∧ WritesLanes s t q.d q.n q.on q.f

/-- Vector results in scalar registers: VEXT and VRED (R183, R184).
VEXT ignores VL and mask (R184); VRED's integer operations give the sum, minimum, maximum, and, or, exclusive or of the lanes that take
part, the first three sign-extended, and the value of R183 where no lane takes part.
VRED's floating operations (R183): the tree of R76 over the lanes that take part, +0, +∞ or −∞ where none does; written to f[rd] with its
upper bits zero. -/
def Obligations.VectorScalars : Prop :=
  (∀ (s : State) (d a b : Fin 32) (w : Fin 4) (m : Fin 8) (o : Fin 32), let n := 8 * 2 ^ w.val
     (∃ t, exec (.vext d a b w) s = .next t ∧
       WritesX s t d (BitVec.ofNat 64 (laneAt s.me a n ((s.me.readX b).toNat % (512 / n)))) (s.me.pc + 4)) ∧
     (o.val < 8 → ∃ t v, exec (.vred d a o w m) s = .next t ∧ reducesTo o.val n (lanesIn s.me a n m) v ∧
       WritesX s t d (if o.val < 3 then BitVec.ofInt 64 (signedOf n v) else BitVec.ofNat 64 v) (s.me.pc + 4))) ∧
  (∀ (s : State) (d a : Fin 32) (w : Fin 4) (m : Fin 8) (o : Fin 32), 8 ≤ o.val → o.val ≤ 10 →
     let g := vecFmt w; let r := s.me.rounding
     let node (x y : Nat) : Nat × Flags := if o.val = 8 then fadd g r (g.opnd x) (g.opnd y) else fminmax g (decide (o.val = 10)) (g.opnd x) (g.opnd y)
     let root := treeSum node (9 - Nat.log2 g.width) ((List.range (512 / g.width)).map fun i =>
       if i < s.me.vl.toNat ∧ (s.me.readM m).getLsbD i = true then some (laneAt s.me a g.width i) else none)
     ∃ t, exec (.vred d a o w m) s = .next t ∧
       WritesF s t d (BitVec.ofNat 64 (root.1.getD (if o.val = 8 then 0 else g.infBits (decide (o.val = 10))))) root.2)

/-- VCVT (R185): each element that takes part is converted by R69, in ascending order, each with the next step of RNGST where MODE 4 rounds into BF16
or FP16; the other bits of v[rd] stay; FPFLG gains the flags of these elements; nothing else changes but PC. -/
def Obligations.VectorConversions : Prop :=
  ∀ (s : State) (d a t sz : Fin 32) (m : Fin 8), wellFormed (.vcvt d a t sz m) = true →
    let u := s.me; let ws := typeBits sz.val; let wd := typeBits t.val; let lanes := 512 / max ws wd
    let steps := decide (u.fpctl = 4) && decide (t.val = 2 ∨ t.val = 3)
    let parts := (List.range lanes).filter fun i => decide (i < u.vl.toNat) && (u.readM m).getLsbD i
    let result (k i : Nat) : Nat × Flags := convertElement sz.val t.val u.rounding
      (if steps then some ((stepped (k + 1) u.rngst).toNat / 2 ^ 16) else none) (laneAt u a ws i)
    ∃ r, exec (.vcvt d a t sz m) s = .next r ∧ OnlyMe s r ∧ r.me.pc = pcValue s.cur (u.pc + 4) ∧ KeepsExcept u r.me (.v d) ∧
      r.me.rngst = (if steps then stepped parts.length u.rngst else u.rngst) ∧
      (∀ i, i < 512 / wd → i ∉ parts → laneAt r.me d wd i = laneAt u d wd i) ∧
      (∀ k i, parts[k]? = some i → laneAt r.me d wd i = (result k i).1 % 2 ^ wd) ∧
      (∀ b, r.me.fpflg.getLsbD b = true ↔ u.fpflg.getLsbD b = true ∨ ∃ k i, parts[k]? = some i ∧ (result k i).2.getLsbD b = true) ∧
      { r.me with
        v := u.v, pend := u.pend, fpflg := u.fpflg, rngst := u.rngst, pc := u.pc, hold := u.hold, wait := u.wait, haltWait := u.haltWait, blocks := u.blocks } = u

/-- Comparison of lanes into a mask, and the mask registers.
VCMP (R172, R177): the mask is written in full: 1 in the lanes that take part and meet the condition, 0 in every other bit.
The mask instructions (R186). -/
def Obligations.VectorComparesAndMasks : Prop :=
  (∀ (s : State) (i : Instr) (q : CompareForm), compareFormOf s.me i = some q →
     ∃ t v, exec i s = .next t ∧ WritesM s t q.d v ∧
       (∀ j, j < 64 → (v.getLsbD j = true ↔ j < 512 / q.n ∧ takesPart s.me q.m j ∧ (q.f j).1 = true)) ∧
       ∀ b, t.me.fpflg.getLsbD b = true ↔ s.me.fpflg.getLsbD b = true ∨ ∃ j, j < 512 / q.n ∧ takesPart s.me q.m j ∧ (q.f j).2.getLsbD b = true) ∧
  ((∀ (s : State) (i : Instr) (d : Fin 8) (v : Word), maskFormOf s.me i = some (d, v) →
     ∃ t, exec i s = .next t ∧ WritesM s t d v ∧ t.me.fpflg = s.me.fpflg) ∧
   (∀ (s : State) (d : Fin 32) (a : Fin 8), let x := s.me.readM a; let vl := s.me.vl.toNat
     (∃ t, exec (.mget d a) s = .next t ∧ WritesX s t d x (s.me.pc + 4)) ∧
     (∃ t, exec (.mpop d a) s = .next t ∧ WritesX s t d (BitVec.ofNat 64 ((List.range vl).filter x.getLsbD).length) (s.me.pc + 4)) ∧
     (∃ t n, exec (.mfirst d a) s = .next t ∧ WritesX s t d (BitVec.ofNat 64 n) (s.me.pc + 4) ∧
       ((n < vl ∧ x.getLsbD n = true ∧ ∀ i, i < n → x.getLsbD i = false) ∨ n = 64 ∧ ∀ i, i < vl → x.getLsbD i = false))))

/-- Vector loads and stores. It rests on the model's own readings and choices in log entry 43.
VLD, VLDS, VGATH and VLDX (R180 to R182, R123): with every address of a lane that takes part checked, each such lane receives its element
as the ply shows it, the others keep theirs; it counts as one load; with no such lane nothing but PC changes.
VST, VSTS and VSCAT (R180 to R182): with every address checked, each lane that takes part is stored, a later lane over an earlier one; no
other byte changes; it counts as one store, also where no lane takes part and x[ra] alone is checked. A vector access whose first failing lane is refused stops with that lane's event and stores
nothing. -/
def Obligations.VectorAccesses : Prop :=
  (∀ (s : State) (i : Instr) (q : VecShape) (place : Nat → Loc), vecLoadOf s i = some q → Anew s → s.me.loads < 65535 →
     (∀ j, q.on s.me j → s.check (q.addr j) q.n .read q.tag false j = .ok (place j) ∧ (place j).cube = s.cubeNum ∧
       s.uncorrectable (place j).key = false) →
     ((∀ j, ¬ q.on s.me j) → ∃ t, exec i s = .next t ∧ OnlyPc s t (s.me.pc + 4)) ∧
     ((∃ j, q.on s.me j) → ∃ t, exec i s = .next t ∧ Accesses s t 4 ∧ KeepsExcept s.me t.me (.v q.v) ∧ MemoryKept s t ∧ t.me.loads = s.me.loads + 1 ∧
       ∀ j, j < 64 / q.n → (¬ q.on s.me j → laneAt t.me q.v (8 * q.n) j = laneAt s.me q.v (8 * q.n) j) ∧
         (q.on s.me j → laneAt t.me q.v (8 * q.n) j =
           leVal (if q.merged then s.merged s.myCtx (place j) q.n q.tag else s.view s.myCtx (place j) q.n q.tag)))) ∧
  ((∀ (s : State) (i : Instr) (q : VecShape) (place : Nat → Loc), vecStoreOf s i = some q → Anew s → s.me.stores < 65535 → (∃ j, q.on s.me j) →
     (∀ j, q.on s.me j → s.check (q.addr j) q.n .write q.tag true j = .ok (place j) ∧ (place j).cube = s.cubeNum) →
     ((∀ j, q.on s.me j → usesCell (place j) q.tag = false) ∨ 64 ≤ ((List.range 4).map (Tab.read 0 (s.ctx s.myCtx).poolFree)).sum) →
     ∃ t, exec i s = .next t ∧ Accesses s t 4 ∧ KeepsExcept s.me t.me (.x 0) ∧ t.full = s.full ∧ t.me.stores = s.me.stores + 1 ∧
       (∀ j, q.on s.me j →
         (∀ k, j < k → q.on s.me k → (place k).key + q.n ≤ (place j).key ∨ (place j).key + q.n ≤ (place k).key) →
         t.view s.myCtx (place j) q.n q.tag = leBytes q.n (laneAt s.me q.v (8 * q.n) j)) ∧
       (∀ a, (∀ j, q.on s.me j → usesCell (place j) q.tag = true ∨ a < (place j).key ∨ (place j).key + q.n ≤ a) → t.byte a = s.byte a)) ∧
   (∀ (s : State) (i : Instr) (q : VecShape) (l : Loc), vecStoreOf s i = some q → s.me.stores < 65535 → (∀ j, ¬ q.on s.me j) →
     s.check q.base q.n .write q.tag true 0 = .ok l → l.cube = s.cubeNum →
     ∃ t, exec i s = .next t ∧ Accesses s t 4 ∧ KeepsExcept s.me t.me (.x 0) ∧ MemoryKept s t ∧ t.full = s.full ∧ t.me.stores = s.me.stores + 1) ∧
   (∀ (s : State) (i : Instr) (q : VecShape) (acc : Access) (se : Bool) (j : Nat) (c : EvCode),
     (vecLoadOf s i = some q ∧ acc = .read ∧ se = false ∧ s.me.loads < 65535 ∨ vecStoreOf s i = some q ∧ acc = .write ∧ se = true ∧ s.me.stores < 65535) →
     q.on s.me j → s.check (q.addr j) q.n acc q.tag se j = .error (.event c (q.addr j) j 0) →
     (∀ k, k < j → q.on s.me k → ∃ l, s.check (q.addr k) q.n acc q.tag se k = .ok l) →
     ∃ t, exec i s = .next t ∧ StopsOn s t c (q.addr j) j 0))

/-! # Plies -/

/-- Ply tags: allocation, selection, query and return.
PLYNEW, PLYNEW.NB, PLYSET, PLYGET and PLYQRY (R139, R140, R142): with room in its class and no earlier waiter, the
lowest free tag becomes live in the class and goes to x[rd]; with none PLYNEW blocks and PLYNEW.NB answers 0; PLYSET takes 0 and live tags
and raises PERM on every other value.
PLYRET.C and PLYRET.D at issue (R141): tag 0 does nothing; a tag that is not live raises PERM; a live one becomes retiring, PLY drops it, the
return is counted as a store, and no byte or cell has changed yet; PLYRET.C raises SIDEFX while RECFREE is 1 (R136). -/
def Obligations.Plies : Prop :=
  (∀ (s : State) (d a : Fin 32), let k := s.ctx s.myCtx; let u := s.me; let v : BitVec 16 := (u.readX a).setWidth 16
     let room : Prop := (k.tags.filter fun e => match e.2 with
       | some x => decide (x.cls = u.plyq)
       | none => false).length < (Tab.read 0 k.quota u.plyq.toNat).toNat
     let granted (i : Instr) (g : BitVec 16) : Prop := ∃ t, exec i s = .next t ∧ { t with units := s.units, ctxs := s.ctxs } = s ∧
       t.me.readX d = (if d = 0 then 0 else g.setWidth 64) ∧ KeepsExcept u t.me (.x d) ∧ t.me.pc = pcValue s.cur (u.pc + 4) ∧
       Tab.read none (t.ctx s.myCtx).tags g.toNat = some ⟨false, u.plyq⟩ ∧
       (∀ x, x ≠ g.toNat → Tab.read none (t.ctx s.myCtx).tags x = Tab.read none k.tags x) ∧ ∀ c, c ≠ s.myCtx → t.ctx c = s.ctx c
     (∀ g : BitVec 16, room → s.plynewQueue s.myCtx (match u.wait with
         | some w => if w.kind = .plynew then w.seq else s.fresh
         | none => s.fresh) = [] →
       0 < g.toNat → g.toNat ≤ k.ntags.toNat → (∀ e ∈ k.tags, e.1 ≠ g.toNat) → (∀ x, 0 < x → x < g.toNat → ∃ e ∈ k.tags, e.1 = x) → Tab.wf none k.tags = true →
       (isMsgStrand s.cur = false → granted (.plynew d) g) ∧ granted (.plynewNb d) g) ∧
     (¬ room → (isMsgStrand s.cur = false → ∃ t, exec (.plynew d) s = .next t ∧ t.me.st = .blocked ∧ t.ctxs = s.ctxs ∧ t.me.pc = u.pc) ∧
       ∃ t, exec (.plynewNb d) s = .next t ∧ WritesX s t d 0 (u.pc + 4)) ∧
     (isMsgStrand s.cur = true → ∃ t, exec (.plynew d) s = .next t ∧ StopsOn s t .hblock 0 0 0) ∧
     (s.tagLive s.myCtx v = true → ∃ t, exec (.plyset a) s = .next t ∧ OnlyMe s t ∧ t.me = goesOn s { u with ply := v } 4) ∧
     (s.tagLive s.myCtx v = false → ∃ t, exec (.plyset a) s = .next t ∧ StopsOn s t .perm (u.readX a &&& 0xFFFF) 0 0) ∧
     (∃ t, exec (.plyget d) s = .next t ∧ WritesX s t d (u.ply.setWidth 64) (u.pc + 4)) ∧
     (∃ t r, exec (.plyqry d a) s = .next t ∧ WritesX s t d r (u.pc + 4) ∧
       ((u.readX a).getLsbD 63 = true → r.toNat / 2 ^ 16 % 2 ^ 16 = (Tab.read 0 k.quota ((u.readX a).toNat % 8)).toNat) ∧
       ((u.readX a).getLsbD 63 = false → (v = 0 → r = 1) ∧ (v ≠ 0 → Tab.read none k.tags v.toNat = none → r = 0) ∧
         (∀ x, v ≠ 0 → Tab.read none k.tags v.toNat = some x → r.getLsbD 0 = !x.retiring ∧ r.getLsbD 1 = x.retiring ∧ r.toNat / 4 % 8 = x.cls.toNat)))) ∧
  (∀ (s : State) (i : Instr) (a : Fin 32) (commit : Bool), (i, commit) = (.plyretC a, true) ∨ (i, commit) = (.plyretD a, false) →
     let tag : BitVec 16 := (s.me.readX a).setWidth 16
     (tag = 0 → ∃ t, exec i s = .next t ∧ OnlyPc s t (s.me.pc + 4)) ∧
     (tag ≠ 0 → s.me.stores < 65535 → s.tagLive s.myCtx tag = false → ∃ t, exec i s = .next t ∧ StopsOn s t .perm (tag.setWidth 64) 0 0) ∧
     (tag ≠ 0 → s.me.stores < 65535 → s.tagLive s.myCtx tag = true → commit = true → s.me.recfree = true →
       ∃ t, exec i s = .next t ∧ StopsOn s t .sidefx (tag.setWidth 64) 0 0) ∧
     (tag ≠ 0 → s.me.stores < 65535 → s.tagLive s.myCtx tag = true → (commit = true → s.me.recfree = false) →
       ∃ t, exec i s = .next t ∧ { t with units := s.units, ctxs := s.ctxs, ops := s.ops, fresh := s.fresh } = s ∧
         t.me.stores = s.me.stores + 1 ∧ t.me.ply = (if s.me.ply = tag then 0 else s.me.ply) ∧ KeepsExcept s.me t.me (.x 0) ∧
         t.me.pc = pcValue s.cur (s.me.pc + 4) ∧ t.tagLive s.myCtx tag = false ∧
         ∃ o, t.ops = s.ops ++ [o] ∧ o.kind = .plyret tag.toNat commit ∧ o.party = s.cur ∧ o.ctr = .stores))

/-! # Special registers -/

/-- SRR and SRW (R45, R115).
SRR (R45, R115): the register's value on a strand; UNDEF for an index without a register; PRIV from 0x200 on, except on a service core.
SRW (R42, R47 to R49, R115) of the strand's own registers, of PLY, which acts as PLYSET (R140), and of ASTAT, whose flags are cleared by ones,
but for those set in the same cc, and whose SAT is replaced (R54); UNDEF for every index that may not be written, PRIV from 0x200 on. -/
def Obligations.SpecialRegisters : Prop :=
  (∀ (s : State) (d : Fin 32) (i : Fin 1024), isSpindle s.cur = false → isService s.cur = false →
     (0x200 ≤ i.val → ∃ t, exec (.srr d i) s = .next t ∧ StopsOn s t .priv 0 0 0) ∧
     (i.val < 0x200 → special s i.val = none → ∃ t, exec (.srr d i) s = .next t ∧ StopsOn s t .undef 0 0 0) ∧
     (∀ v, i.val < 0x200 → special s i.val = some v → ∃ t, exec (.srr d i) s = .next t ∧ WritesX s t d v (s.me.pc + 4))) ∧
  (∀ (s : State) (a : Fin 32) (i : Fin 1024), isSpindle s.cur = false → isService s.cur = false → let v := s.me.readX a
     (∀ u, ownWrite s.me i.val v = some u → ∃ t, exec (.srw a i) s = .next t ∧ OnlyMe s t ∧ t.me = goesOn s u 4) ∧
     (i.val = 0x08 → s.tagLive s.myCtx (v.setWidth 16) = true →
       ∃ t, exec (.srw a i) s = .next t ∧ OnlyMe s t ∧ t.me = goesOn s { s.me with ply := v.setWidth 16 } 4) ∧
     (i.val = 0x08 → s.tagLive s.myCtx (v.setWidth 16) = false → ∃ t, exec (.srw a i) s = .next t ∧ StopsOn s t .perm (v &&& 0xFFFF) 0 0) ∧
     (i.val = 0x40 → let c := s.cluster (clusterOf s.cur)
       ∃ t x, exec (.srw a i) s = .next t ∧ { t with units := s.units, clusters := s.clusters } = s ∧ t.me = goesOn s s.me 4 ∧
         t.cluster (clusterOf s.cur) = { c with astat := x } ∧
         ∀ b, b < 9 → x.getLsbD b = ((c.justSet s.cycle).getLsbD b || if b < 4 then c.astat.getLsbD b && !v.getLsbD b else decide (b = 8) && v.getLsbD 8)) ∧
     (0x200 ≤ i.val → ∃ t, exec (.srw a i) s = .next t ∧ StopsOn s t .priv 0 0 0) ∧
     (i.val < 0x200 → ownWrite s.me i.val v = none → i.val ≠ 0x08 → i.val ≠ 0x40 → (i.val < 0x50 ∨ 0x53 < i.val) →
       ∃ t, exec (.srw a i) s = .next t ∧ StopsOn s t .undef 0 0 0))

/-- SRW of LOADCTL, STORCTL, LOADIMG and STORIMG on a task core (R51): START is stored; GO starts an idle core at START with its registers and
counters zero and does nothing to a busy one; HALT asks a busy core to stop; an image of 4 KiB of the writing core's own scratchpad, 4 KiB-
aligned, goes into the store, any other address raises ALIGN or PERM. It rests on the model's own readings and choices in log entries 34 and 111 (GO and
HALT in one write start the core, whose halt is then requested). -/
def Obligations.SpindleControl : Prop :=
  ∀ (s : State) (a : Fin 32) (i : Fin 1024), slotOf s.cur < 8 → s.cur < 4096 → let v := s.me.readX a
    let key := unitKey (coreOf s.cur) (if i.val % 2 = 0 then 8 else 9); let u := s.unit key
    ((i.val = 0x50 ∨ i.val = 0x51) → ∃ t, exec (.srw a i) s = .next t ∧ t.me = goesOn s s.me 4 ∧ (t.unit key).start = (v >>> 16).setWidth 11 ∧
      (u.busy = false → v.getLsbD 0 = true → v.getLsbD 3 = false → (t.unit key).busy = true ∧ (t.unit key).st = .run ∧
        (t.unit key).pc = ((v >>> 16).setWidth 11 : BitVec 11).setWidth 64 <<< 1 ∧ (∀ r, (t.unit key).readX r = 0) ∧ (t.unit key).loads = 0 ∧
        (t.unit key).stores = 0) ∧
      (u.busy = false → v.getLsbD 0 = true → v.getLsbD 3 = true → (t.unit key).busy = true ∧ (t.unit key).haltReq = true) ∧
      (u.busy = true → (t.unit key).pc = u.pc ∧ (∀ r, (t.unit key).readX r = u.readX r) ∧ ((t.unit key).haltReq = (u.haltReq || v.getLsbD 3))) ∧
      ∀ k, k ≠ s.cur → k ≠ key → t.unit k = s.unit k) ∧
    ((i.val = 0x52 ∨ i.val = 0x53) →
      (v.toNat % 4096 ≠ 0 → ∃ t, exec (.srw a i) s = .next t ∧ StopsOn s t .align v 0 0) ∧
      (v.toNat % 4096 = 0 → v.toNat / 2 ^ 60 = 15 → v.toNat / 2 ^ 56 % 16 = 0 → v.toNat / 2 ^ 20 % 256 = 0 →
        v.toNat / 2 ^ 36 % 2 ^ 20 = s.cubeNum → v.toNat / 2 ^ 28 % 256 = coreOf s.cur → u.busy = false →
        ∃ t, exec (.srw a i) s = .next t ∧ t.me = goesOn s s.me 4 ∧
          ∀ k, k < 4096 → Tab.read 0 (t.unit key).imem k = s.byte (scratchKey (coreOf s.cur) (v.toNat % 2 ^ 20 + k))) ∧
      (v.toNat % 4096 = 0 → (v.toNat / 2 ^ 60 ≠ 15 ∨ v.toNat / 2 ^ 36 % 2 ^ 20 ≠ s.cubeNum ∨ v.toNat / 2 ^ 28 % 256 ≠ coreOf s.cur) →
        ∃ t, exec (.srw a i) s = .next t ∧ StopsOn s t .perm v 0 0))

/-- TSTAMP, IDLE and HNOTE (R116 to R118): GTIME into x[rd]; a strand stops issuing for bits [15:0] of x[ra] cycles, a spindle core ends its
program once its stores and copies are done; an interrupt once the strand's stores and messages are done, with MSTAT LAST 0 if sent, else 4. -/
def Obligations.TimeAndNotes : Prop :=
  ∀ (s : State) (d a : Fin 32), let n := (s.me.readX a).toNat % 2 ^ 16; let k := s.ctx s.myCtx; let vec := (s.me.readX a).toNat % 64
    (∃ t, exec (.tstamp d a) s = .next t ∧ t.me.readX d = (if d = 0 then 0 else BitVec.ofNat 64 s.gtime) ∧ KeepsExcept s.me t.me (.x d) ∧
      t.me.pc = pcValue s.cur (s.me.pc + 4) ∧ (∀ b, t.byte b = s.byte b) ∧ (k.trctl.getLsbD 0 = false → OnlyMe s t)) ∧
    (isSpindle s.cur = false → ∃ t, exec (.idle a) s = .next t ∧ OnlyMe s t ∧
      t.me = { goesOn s s.me 4 with hold := if n = 0 then none else some ⟨.idle, s.cycle, s.cycle + n⟩ }) ∧
    (isSpindle s.cur = true → s.me.stores = 0 → s.me.copies = 0 → ∃ t, exec (.idle a) s = .next t ∧ OnlyMe s t ∧ t.me.busy = false ∧ t.me.st = .idle) ∧
    (s.me.stores ≠ 0 ∨ s.me.msgs ≠ 0 → ∃ t, exec (.hnote a) s = .next t ∧ WaitsAtIssue s t .operations) ∧
    (s.me.stores = 0 → s.me.msgs = 0 → let e := Tab.read {} k.vectors vec; let sent := k.msixEnable && !(k.msixMask || e.masked)
      ∃ t, exec (.hnote a) s = .next t ∧ t.me.last = (if sent then 0 else 4) ∧ t.me.major = 40 ∧ t.me.pc = pcValue s.cur (s.me.pc + 4) ∧
        t.irqs = (if sent then s.irqs ++ [(s.myCtx + 1, vec)] else s.irqs) ∧ (∀ b, t.byte b = s.byte b) ∧
        (Tab.read {} (t.ctx s.myCtx).vectors vec).pending = (e.pending || k.msixEnable && !sent))

/-! # Messages and queues -/

/-- The end of a handler, and the hardware queues. It rests on the model's own readings and choices in log entries 16, 29 and 30.
MRET and C.MRET (R151, R81): UNDEF on a task strand; in a handler strand 0 is free, and a nonzero ra field sends x[ra], x[rb] to the reply
address, or with none writes LAST 4.
ENQ, DEQ and DEQ.NB on a queue of this cube that the context's launch has claimed (R28, R152, R153): ENQ puts the item in where no DEQ waits and
there is room, and answers 1; a full queue answers 0 with LAST 3; DEQ and DEQ.NB take the oldest item to the address, and on an empty queue
DEQ.NB answers 0. ENQ to another cube's queue sends the item and the queue's number there, and x[rd] awaits the answer. -/
def Obligations.HandlersAndQueues : Prop :=
  (∀ (s : State) (a b : Fin 32),
     (isMsgStrand s.cur = false → ∃ t, exec (.mret a b) s = .next t ∧ StopsOn s t .undef 0 0 0) ∧
     (isMsgStrand s.cur = false → ∃ t, exec .cMret s = .next t ∧ StopsOn s t .undef 0 0 0) ∧
     (∀ i, (i = .mret 0 b ∨ i = .cMret) → isMsgStrand s.cur = true →
       ∃ t, exec i s = .next t ∧ t.me.st = .idle ∧ t.me.inMsg = none ∧ t.me.last = s.me.last ∧
         (owesNothing s.me → { t with units := s.units, cores := s.cores } = s)) ∧
     (isMsgStrand s.cur = true → a ≠ 0 → s.me.msgrpl = 0 →
       ∃ t, exec (.mret a b) s = .next t ∧ t.me.st = .idle ∧ t.me.last = 4 ∧ t.me.major = 32 ∧
         (owesNothing s.me → t.inner = s.inner ∧ t.net = s.net ∧ t.outbox = s.outbox)) ∧
     (∀ cube unit, isMsgStrand s.cur = true → a ≠ 0 → s.me.msgrpl ≠ 0 → s.replyOwner (coreOf s.cur) s.me.msgrpl.toNat = some (cube, unit) →
       ∃ t p, exec (.mret a b) s = .next t ∧ t.me.st = .idle ∧ t.me.inMsg = none ∧ p.kind = .response ∧ p.dcube = cube ∧ p.dunit = unit ∧
         p.hcls = 5 ∧ p.ocls = 1 ∧ p.reply = s.me.msgrpl ∧ p.payload = [s.me.readX a, s.me.readX b, 0, 0] ∧ p.aux = 0 ∧ (owesNothing s.me → Goes s t p))) ∧
  (∀ (s : State) (d a b : Fin 32) (h : HwQueue), let w := s.me.readX a; let q := w.toNat % 64; let k := s.ctx s.myCtx
     let mine : Prop := w.toNat / 2 ^ 6 % 4 = 0 ∧ w.toNat / 2 ^ 28 = 0 ∧ w.toNat / 2 ^ 8 % 2 ^ 20 = s.cubeNum
     k.claims q = true → Tab.read none k.queues q = some h →
     (∀ bs, mine → s.me.msgs < 65535 → blockAt s (s.me.readX b) 64 bs → s.plyretsOf (coreOf s.cur) s.me.wid s.fresh = false →
       s.parked s.myCtx (fun p => match p with
         | .queue q' _ => decide (q' = q)
         | _ => false) = [] →
       (h.items.length < 2 ^ h.log2.toNat → ∃ t, exec (.enq d a b) s = .next t ∧ t.me.readX d = (if d = 0 then 0 else 1) ∧
         KeepsExcept s.me t.me (.x d) ∧ t.me.pc = pcValue s.cur (s.me.pc + 4) ∧ (∀ x, t.byte x = s.byte x) ∧
         Tab.read none (t.ctx s.myCtx).queues q = some { h with items := h.items ++ [ofLineBytes bs] }) ∧
       (2 ^ h.log2.toNat ≤ h.items.length → ∃ t, exec (.enq d a b) s = .next t ∧ t.me.readX d = 0 ∧ KeepsExcept s.me t.me (.x d) ∧
         t.me.pc = pcValue s.cur (s.me.pc + 4) ∧ t.me.last = 3 ∧ t.me.major = 32 ∧ t.ctxs = s.ctxs ∧ ∀ x, t.byte x = s.byte x)) ∧
     (∀ l, s.check (s.me.readX b) 64 .write 0 false 0 = .ok l → l.scratch = true → l.cube = s.cubeNum →
       (∀ item rest, h.items = item :: rest →
         (isMsgStrand s.cur = false → ∃ t, exec (.deq a b) s = .next t ∧ Accesses s t 4 ∧ KeepsExcept s.me t.me (.x 0) ∧
           (∀ x, t.byte x = if l.key ≤ x ∧ x < l.key + 64 then (lineBytes item).getD (x - l.key) 0 else s.byte x) ∧
           Tab.read none (t.ctx s.myCtx).queues q = some { h with items := rest }) ∧
         ∃ t, exec (.deqNb d a b) s = .next t ∧ Accesses s t 4 ∧ KeepsExcept s.me t.me (.x d) ∧ t.me.readX d = (if d = 0 then 0 else 1) ∧
           (∀ x, t.byte x = if l.key ≤ x ∧ x < l.key + 64 then (lineBytes item).getD (x - l.key) 0 else s.byte x) ∧
           Tab.read none (t.ctx s.myCtx).queues q = some { h with items := rest }) ∧
       (h.items = [] →
         (∃ t, exec (.deqNb d a b) s = .next t ∧ WritesX s t d 0 (s.me.pc + 4)) ∧
         (isMsgStrand s.cur = false → slotFree s → ∃ t, exec (.deq a b) s = .next t ∧ Suspended s t (.queue q l.key) s.me.worker 4)))) ∧
  (∀ (s : State) (d a b : Fin 32) (bs : List Byte), let w := s.me.readX a; let q := w.toNat % 64; let cube := w.toNat / 2 ^ 8 % 2 ^ 20
     w.toNat / 2 ^ 6 % 4 = 0 → w.toNat / 2 ^ 28 = 0 → cube ≠ s.cubeNum → s.me.msgs < 65535 → blockAt s (s.me.readX b) 64 bs →
     s.sendState cube (unitNumber s.cur) 0 = .ready →
     ∃ t p, exec (.enq d a b) s = .next t ∧ Sends s t p ∧ t.me.msgs = s.me.msgs + 1 ∧ t.me.pc = pcValue s.cur (s.me.pc + 4) ∧ KeepsExcept s.me t.me (.x 0) ∧
       p.kind = .builtin ∧ p.hcls = 6 ∧ p.ocls = 0 ∧ p.dcube = cube ∧ (∀ j, j < 8 → wordAt p.payload j = wordAt (leWords bs) j) ∧
       wordAt p.payload 8 = BitVec.ofNat 64 q ∧ t.me.awaits = if d = 0 then s.me.awaits else s.me.awaits ++ [(d, s.fresh)])

/-- What SEND and ESEND send.
SEND and SENDV (R149, R150) of a descriptor that breaks no rule, to a cube that can be reached: one packet with the descriptor's unit,
handler, class and priority, the flit x[rb], x[rc], 0, 0 or the PLEN flits read at x[rb], and the reply address; the message counter rises.
A descriptor that breaks a rule raises PERM with ADDR the descriptor.
ESEND (R152, R154): a command goes to the inbox of the bank-engine controller or reduction engine it names, or waits at the copy, gather or
collective engine or router, and counts as a copy; a unit that ESEND may not name, another cube and set upper bits raise PERM, an address
that is not 64-aligned ALIGN. To die management of a die (R24, R27) it submits a launch record at issue: read through the context's page table into
its launch queue; with the queue full completed at once with status 5; counted as refused, with ENGERR, where it cannot be read. That every die's
management takes submissions, and that a full queue comes before DONE, are the model's own choices (log entries 108 and 106). -/
def Obligations.MessagesAndCommands : Prop :=
  (∀ (s s1 : State) (i : Instr) (r a b c : Fin 32) (reply : BitVec 60) (ws : List Word), let w := s.me.readX a; let dsc := w.toNat
     s.me.msgs < 65535 →
     (i = .send r a b c ∧ s1 = s ∧ ws = [s.me.readX b, s.me.readX c, 0, 0] ∨
       i = .sendv r a b ∧ ∃ bs, s.readFlits (s.me.readX b) (descPlen dsc) = .ok (s1, bs) ∧ ws = leWords bs) →
     (descOk dsc (decide (i = .sendv r a b)) = false → ∃ t, exec i s = .next t ∧ StopsOn s t .perm w 0 0) ∧
     (descOk dsc (decide (i = .sendv r a b)) = true → s.replyAddress (s.me.readX r) = .ok reply →
       s1.sendState (dsc % 2 ^ 20) (unitNumber s.cur) (descClass dsc) = .ready →
       ∃ t p, exec i s = .next t ∧ Sends s t p ∧ sentOn s t ∧ p.kind = .user ∧
         p.dcube = dsc % 2 ^ 20 ∧ p.dunit = dsc / 2 ^ 20 % 2 ^ 12 ∧ p.hcls = dsc / 2 ^ 32 % 64 ∧ p.pri = dsc / 2 ^ 40 % 4 ∧
         p.ocls = descClass dsc ∧ p.payload = ws ∧ p.reply = reply ∧ p.conf = (dsc.testBit 42 || (decide (i = .sendv r a b) && s.confPieces (flitPieces (s.me.readX b) (descPlen dsc)))) ∧ p.ply = (if dsc.testBit 43 then s.me.ply else 0) ∧
         p.scube = s.cubeNum ∧ p.sunit = unitNumber s.cur ∧ p.ctx = s.myCtx)) ∧
  (∀ (s : State) (a b : Fin 32), let w := (s.me.readX a).toNat; let unit := w % 2 ^ 12; let addr := s.me.readX b; let die := unit / 1024; let d := unit % 512
     let good : Prop := w / 2 ^ 12 % 2 ^ 20 = s.cubeNum ∧ w / 2 ^ 32 = 0 ∧ isEngineUnit unit = true
     let counted (t : State) : Prop := t.me = goesOn s { s.me with copies := s.me.copies + 1 } 4 ∧ ∀ x, t.byte x = s.byte x
     s.me.copies < 65535 →
     (¬ good → ∃ t, exec (.esend a b) s = .next t ∧ StopsOn s t .perm (s.me.readX a) 0 0) ∧
     (good → addr.toNat % 64 ≠ 0 → ∃ t, exec (.esend a b) s = .next t ∧ StopsOn s t .align addr 0 0) ∧
     (good → addr.toNat % 64 = 0 → s.me.recfree = false → unit / 512 % 2 = 1 → 64 ≤ d → ∃ t, exec (.esend a b) s = .next t ∧ counted t ∧
       (t.bank (die * 64 + (d - 64))).inbox = (s.bank (die * 64 + (d - 64))).inbox ++ [s.engCmd addr]) ∧
     (good → addr.toNat % 64 = 0 → s.me.recfree = false → unit / 512 % 2 = 1 → d = 2 → ∃ t, exec (.esend a b) s = .next t ∧ counted t ∧
       (t.die die).redInbox = (s.die die).redInbox ++ [s.engCmd addr]) ∧
     (good → addr.toNat % 64 = 0 → (unit / 512 % 2 = 0 ∨ d = 0 ∨ d = 1) → ∃ t, exec (.esend a b) s = .next t ∧ counted t ∧
       ∃ o, t.ops = s.ops ++ [o] ∧ o.kind = .engine unit addr ∧ o.party = s.cur) ∧
     (good → addr.toNat % 64 = 0 → unit / 512 % 2 = 1 → d = 4 → let k := s.ctx s.myCtx
       (s.submitHeld s.myCtx addr = true → ∃ t, exec (.esend a b) s = .next t ∧ WaitsAtIssue s t .operations) ∧
       (s.submitHeld s.myCtx addr = false → k.state ≠ .free →
         (s.mgmtWords s.myCtx addr 32 = none → ∃ t, exec (.esend a b) s = .next t ∧ t.me = goesOn s { s.me with engerr := true } 4 ∧
           Counted s t s.myCtx .refusedSubmission ∧ ∀ x, t.byte x = s.byte x) ∧
         ∀ ws, s.mgmtWords s.myCtx addr 32 = some ws →
           (k.submissions.length < (if k.launch.isSome then 8 else 9) → ∃ t, exec (.esend a b) s = .next t ∧ t.me = goesOn s s.me 4 ∧
             (t.ctx s.myCtx).submissions = k.submissions ++ [⟨ws, s.me.wid, s.confAt s.myCtx addr⟩] ∧ ∀ x, t.byte x = s.byte x) ∧
           (∀ key, (if k.launch.isSome then 8 else 9) ≤ k.submissions.length → (wordAt ws 2).toNat % 8 = 0 →
             s.mgmtPlace s.myCtx (wordAt ws 2) true = some (.here key) → ∃ t, exec (.esend a b) s = .next t ∧ t.me = goesOn s s.me 4 ∧
               (t.ctx s.myCtx).submissions = k.submissions ∧
               ∀ x, t.byte x = if key ≤ x ∧ x < key + 8 then (leBytes 8 (5 + (wordAt ws 3).toNat % 2 ^ 56 * 256)).getD (x - key) 0 else s.byte x))))

/-! # Tasks -/

/-- Spawns to a core and to the home of an address. It rests on the model's own readings and choices in log entry 13.
TSPAWN and TSPAWN.W (R155, R156): the template at x[rb] goes to its home with GMEM and bits [31:20] of word 1 zero; the .W forms send the count,
bits [47:0] of x[rc], and x[rd] then awaits the handle. An entry with bit 0 set raises ALIGN, a home outside the partition PERM.
TSPAWN.A and TSPAWN.A.W (R155, R156): as TSPAWN, homed at the owner of the address in x[ra]: the core of a scratch-window address, else the
core that homes its line; the record's HOME is that core. -/
def Obligations.SpawnRecords : Prop :=
  (∀ (s : State) (i : Instr) (d b c : Fin 32) (counted : Bool) (bs : List Byte), (i, counted) = (.tspawn b, false) ∨ (i, counted) = (.tspawnW d b c, true) →
     s.me.msgs < 65535 → (s.core (coreOf s.cur)).spawns.length < 32 → blockAt s (s.me.readX b) 64 bs →
     let ws := leWords bs; let home := (wordAt ws 1).toNat / 2 ^ 32 % 256; let va := s.me.readX b
     ((wordAt ws 0).getLsbD 0 = true → ∃ t, exec i s = .next t ∧ StopsOn s t .align (wordAt ws 0) 0 0) ∧
     ((wordAt ws 0).getLsbD 0 = false → s.inPartition s.myCtx home = false → ∃ t, exec i s = .next t ∧ StopsOn s t .perm va 0 0) ∧
     ((wordAt ws 0).getLsbD 0 = false → s.inPartition s.myCtx home = true →
       ∃ t p, exec i s = .next t ∧ Sends s t p ∧ t.me.msgs = s.me.msgs + 1 ∧ t.me.pc = pcValue s.cur (s.me.pc + 4) ∧ KeepsExcept s.me t.me (.x 0) ∧
         p.kind = .builtin ∧ p.dcube = s.cubeNum ∧ p.dunit = unitNumber (unitKey home 0) ∧ p.hcls = 3 ∧ p.ocls = 0 ∧
         wordAt p.payload 0 = wordAt ws 0 ∧ wordAt p.payload 1 = wordAt ws 1 &&& 0xFFFFFFFF0007FFFF ∧
         (∀ j, 2 ≤ j → j < 8 → wordAt p.payload j = wordAt ws j) ∧
         p.payload.length = 8 ∧
         (counted = true → p.reply = (s.me.readX c &&& 0xFFFFFFFFFFFF).setWidth 60 ∧ p.aux.getLsbD 4 = true ∧
           t.me.awaits = if d = 0 then s.me.awaits else s.me.awaits ++ [(d, s.fresh)]) ∧
         (counted = false → p.aux = 0 ∧ t.me.awaits = s.me.awaits))) ∧
  (∀ (s : State) (i : Instr) (d a b c : Fin 32) (counted : Bool) (bs : List Byte) (l : Loc),
     (i, counted) = (.tspawnA a b, false) ∨ (i, counted) = (.tspawnAW d a b c, true) →
     s.me.msgs < 65535 → (s.core (coreOf s.cur)).spawns.length < 32 → blockAt s (s.me.readX b) 64 bs → (wordAt (leWords bs) 0).getLsbD 0 = false →
     s.check (s.me.readX a) 1 .read s.myTag false 0 = .ok l → l.cube = s.cubeNum →
     let home := if l.scratch then l.gpa / 2 ^ 28 % 256 else s.homeOf s.myCtx l
     ∃ t p, exec i s = .next t ∧ Sends s t p ∧ t.me.msgs = s.me.msgs + 1 ∧ t.me.pc = pcValue s.cur (s.me.pc + 4) ∧ KeepsExcept s.me t.me (.x 0) ∧
       p.kind = .builtin ∧ p.dcube = s.cubeNum ∧ p.hcls = 3 ∧ p.dunit = unitNumber (unitKey home 0) ∧
       wordAt p.payload 0 = wordAt (leWords bs) 0 ∧ (wordAt p.payload 1).toNat / 2 ^ 32 % 256 = home ∧
       (∀ j, 2 ≤ j → j < 8 → wordAt p.payload j = wordAt (leWords bs) j) ∧
       (counted = true → p.reply = (s.me.readX c &&& 0xFFFFFFFFFFFF).setWidth 60 ∧ t.me.awaits = if d = 0 then s.me.awaits else s.me.awaits ++ [(d, s.fresh)]))

/-- TDEC (R157): the handle and bits [47:0] of x[rb] go to the handle's home; a handle that breaks a rule raises PERM. GANG (R159): the descriptor at
x[ra] is submitted to the die's management with its members in ascending core id, and the issuer goes on. That the slots a handle may name are judged by
the issuing core's P and S is the model's own choice (log entry 102). -/
def Obligations.DecrementsAndGangs : Prop :=
  ∀ (s : State) (a b : Fin 32), let h := s.me.readX a
    (s.me.msgs < 65535 → s.handleOk h.toNat = false → ∃ t, exec (.tdec a b) s = .next t ∧ StopsOn s t .perm h 0 0) ∧
    (s.me.msgs < 65535 → s.handleOk h.toNat = true → s.sendState (h.toNat / 2 ^ 36 % 2 ^ 20) (unitNumber s.cur) 0 = .ready →
      ∃ t p, exec (.tdec a b) s = .next t ∧ Sends s t p ∧ sentOn s t ∧ p.kind = .builtin ∧ p.dcube = h.toNat / 2 ^ 36 % 2 ^ 20 ∧
        p.dunit = unitNumber (unitKey (h.toNat / 2 ^ 28 % 256) 0) ∧ p.hcls = 4 ∧ p.payload = [h, s.me.readX b &&& 0xFFFFFFFFFFFF, 0, 0]) ∧
    (∀ bs, blockAt s h 64 bs → s.gangOk s.myCtx (leWords bs) = false → ∃ t, exec (.gang a) s = .next t ∧ StopsOn s t .perm h 0 0) ∧
    (∀ bs, blockAt s h 64 bs → s.gangOk s.myCtx (leWords bs) = true → let die := (wordAt (leWords bs) 0).toNat % 256 / 64
      ∃ t g, exec (.gang a) s = .next t ∧ (t.die die).gangs = (s.die die).gangs ++ [g] ∧ (∀ d, d ≠ die → t.die d = s.die d) ∧
        KeepsExcept s.me t.me (.x 0) ∧ t.me.pc = pcValue s.cur (s.me.pc + 4) ∧ (∀ x, t.byte x = s.byte x) ∧ g.ctx = s.myCtx ∧ g.words = leWords bs ∧
        g.ply = s.me.ply ∧ g.reserved = [] ∧
        g.todo.length = (wordAt (leWords bs) 0).toNat / 2 ^ 8 % 128 * ((wordAt (leWords bs) 0).toNat / 2 ^ 16 % 8) ∧
        g.todo.Pairwise (fun x y => x.1 ≤ y.1))

/-- YIELD, MBXW and TEXIT with their short forms (R19, R148, R158, R160, R81): YIELD suspends as runnable, or goes on where no slot is free; MBXW goes on
where the word is full, else parks on it; TEXIT leaves the strand at rest; in a handler each raises HBLOCK. -/
def Obligations.Suspensions : Prop :=
  ∀ (s : State) (a : Fin 32),
    (∀ i, (i = .yield ∨ i = .cYield ∨ i = .texit ∨ i = .cTexit ∨ i = .mbxw a) → isMsgStrand s.cur = true → ∃ t, exec i s = .next t ∧ StopsOn s t .hblock 0 0 0) ∧
    (∀ i len, (i, len) = (.yield, 4) ∨ (i, len) = (.cYield, 2) → isMsgStrand s.cur = false →
      (slotFree s → ∃ t, exec i s = .next t ∧ Suspended s t .runnable s.me.worker len ∧
        ∃ p n, ∃ e ∈ Tab.read [] (t.core (coreOf s.cur)).runq p, e.slot = n ∧ Tab.read none (s.core (coreOf s.cur)).slots n = none) ∧
      ((s.core (coreOf s.cur)).poolSize ≤ (s.core (coreOf s.cur)).slots.length → ∃ t, exec i s = .next t ∧ OnlyPc s t (s.me.pc + BitVec.ofNat 64 len))) ∧
    (∀ i, (i = .texit ∨ i = .cTexit) → isMsgStrand s.cur = false →
      ∃ t, exec i s = .next t ∧ atRest t.me ∧ (∀ k, k ≠ s.cur → t.unit k = s.unit k) ∧ (∀ x, t.byte x = s.byte x) ∧ t.cores = s.cores) ∧
    (∀ l, isMsgStrand s.cur = false → s.check (s.me.readX a) 8 .read 0 false 0 = .ok l → l.scratch = true → l.cube = s.cubeNum →
      (s.isFull l.key = true → ∃ t, exec (.mbxw a) s = .next t ∧ Accesses s t 4 ∧ KeepsExcept s.me t.me (.x 0) ∧ MemoryKept s t) ∧
      (s.isFull l.key = false → slotFree s → ∃ t, exec (.mbxw a) s = .next t ∧ Suspended s t (.word l.key) s.me.worker 4) ∧
      (s.isFull l.key = false → (s.core (coreOf s.cur)).poolSize ≤ (s.core (coreOf s.cur)).slots.length →
        ∃ t, exec (.mbxw a) s = .next t ∧ t.me.st = .blocked ∧ t.me.pc = s.me.pc ∧ ∀ x, t.byte x = s.byte x))

/-! # Skeins -/

/-- Skeins: entry, a worker's work, queries. It rests on the model's own readings and choices in log entry 29.
BOBENQ (R162): a record of no visits goes to the back of a bobbin of the first ordered set and x[rd] receives 1; where every bobbin of the set is
full, 0 with MSTAT LAST 3; records in hold slots, which came before it, take their room first (R257).
BOBDEQ and RECDONE (R162, R163, R261, R263): BOBDEQ takes the oldest record of the bobbin that serves the worker: x10 its payload, x11 its word
with one visit more, PLY its tag, RECFREE whether the stage commutes, PC the stage's entry where it has one; from the exit bobbin the ply passes and
no record is held; with no record waiting it suspends, parked at the bobbin; while a record is held it raises UNDEF, in a handler HBLOCK. RECDONE releases the held record, passed or rejected, clears RECFREE and PLY; with none held it raises UNDEF; RECDONE.P waits at issue while its stage's hold slot is taken.
RECQRY (R165): the held record's word, or 0; with bit 63 a bobbin's count, depth and watermarks. -/
def Obligations.Skeins : Prop :=
  (∀ (s : State) (d a b c : Fin 32) (k : Skein), let w := s.me.readX a; let tag : BitVec 16 := (s.me.readX c).setWidth 16
     s.me.msgs < 65535 → s.skein s.myCtx (w.toNat % 2 ^ 24) = some k → k.sid = w.toNat % 2 ^ 24 → w.toNat / 2 ^ 24 = 0 → 0 < k.stages.length →
     k.stages.length ≤ 16 → s.tagLive s.myCtx tag = true → s.plyretsOf (coreOf s.cur) s.me.wid s.fresh = false → let f := k.flush
     ((∃ j ∈ k.setOf 0, (f.stage j).bobbin.length < (f.stage j).depth) →
       ∃ t k' i, exec (.bobenq d a b c) s = .next t ∧ t.me.readX d = (if d = 0 then 0 else 1) ∧ KeepsExcept s.me t.me (.x d) ∧
         t.me.pc = pcValue s.cur (s.me.pc + 4) ∧ (∀ x, t.byte x = s.byte x) ∧ t.skein s.myCtx k.sid = some k' ∧ i ∈ k.setOf 0 ∧
         (k'.stage i).bobbin = (f.stage i).bobbin ++ [⟨s.me.readX b, tag, 0, 0, BitVec.ofNat 4 i, BitVec.ofNat 8 (coreOf s.cur), BitVec.ofNat 20 s.cubeNum⟩] ∧
         ∀ j, j < 16 → j ≠ i → (k'.stage j).bobbin = (f.stage j).bobbin) ∧
     ((∀ j ∈ k.setOf 0, (f.stage j).depth ≤ (f.stage j).bobbin.length) →
       ∃ t, exec (.bobenq d a b c) s = .next t ∧ OnlyMe s t ∧ t.me.readX d = 0 ∧ KeepsExcept s.me t.me (.x d) ∧ t.me.last = 3 ∧ t.me.major = 34 ∧
         t.me.pc = pcValue s.cur (s.me.pc + 4))) ∧
  (∀ (s : State) (a : Fin 32), isMsgStrand s.cur = true → ∃ t, exec (.bobdeq a) s = .next t ∧ StopsOn s t .hblock 0 0 0) ∧
  (∀ (s : State) (a : Fin 32), isMsgStrand s.cur = false →
     (s.me.held ≠ none → ∃ t, exec (.bobdeq a) s = .next t ∧ StopsOn s t .undef 0 0 0) ∧
     (∀ (k : Skein) (r : SkRec) (rest : List SkRec), let w := s.me.readX a; let i := w.toNat / 2 ^ 24 % 16
       s.me.held = none → s.me.worker = none → s.skein s.myCtx (w.toNat % 2 ^ 24) = some k → k.sid = w.toNat % 2 ^ 24 → w.toNat / 2 ^ 28 = 0 →
       i < k.stages.length → k.blocked i = false → (k.stage i).bobbin = r :: rest →
       ∃ t k', exec (.bobdeq a) s = .next t ∧ t.me.readX 10 = r.payload ∧ t.me.readX 11 = ({ r with visits := if r.visits = 255 then 255 else r.visits + 1 } : SkRec).word1 ∧
         (∀ x, x ≠ 10 → x ≠ 11 → t.me.readX x = s.me.readX x) ∧ t.me.ply = r.ply ∧ t.me.recfree = k.comm.getLsbD i ∧ (t.me.held).map SkRec.payload = some r.payload ∧
         t.me.pc = pcValue s.cur (if (k.stage i).entry = 0 then s.me.pc + 4 else (k.stage i).entry) ∧
         t.skein s.myCtx k.sid = some k' ∧ (k'.stage i).bobbin = rest) ∧
     (∀ (k : Skein), let w := s.me.readX a; let i := w.toNat / 2 ^ 24 % 16
       s.me.held = none → s.me.worker = none → s.skein s.myCtx (w.toNat % 2 ^ 24) = some k → k.sid = w.toNat % 2 ^ 24 → w.toNat / 2 ^ 28 = 0 →
       i < k.stages.length → (k.stage i).bobbin = [] → slotFree s →
       ∃ t, exec (.bobdeq a) s = .next t ∧ Suspended s t (.bobbin k.sid i) (some ⟨k.sid, i⟩) 4) ∧
     (∀ (k : Skein), let w := s.me.readX a
       s.me.held = none → s.skein s.myCtx (w.toNat % 2 ^ 24) = some k → k.sid = w.toNat % 2 ^ 24 → w.toNat / 2 ^ 28 = 1 →
       w.toNat / 2 ^ 24 % 16 < k.stages.length →
       (∀ (r : SkRec) (rest : List SkRec), k.exit.bobbin = r :: rest →
         ∃ t k', exec (.bobdeq a) s = .next t ∧ t.me.readX 10 = r.payload ∧
           t.me.readX 11 = ({ r with visits := if r.visits = 255 then 255 else r.visits + 1 } : SkRec).word1 ∧
           (∀ x, x ≠ 10 → x ≠ 11 → t.me.readX x = s.me.readX x) ∧ t.me.ply = r.ply ∧ t.me.held = none ∧ t.me.recfree = s.me.recfree ∧
           t.me.worker = none ∧ t.me.pc = pcValue s.cur (s.me.pc + 4) ∧ t.skein s.myCtx k.sid = some k' ∧ k'.exit.bobbin = rest) ∧
       (k.exit.bobbin = [] → slotFree s → ∃ t, exec (.bobdeq a) s = .next t ∧ Suspended s t (.bobbin k.sid 16) none 4)) ∧
     (∀ i pass, (i, pass) = (.recdoneP, true) ∨ (i, pass) = (.recdoneJ, false) →
       (s.me.held = none → ∃ t, exec i s = .next t ∧ StopsOn s t .undef 0 0 0) ∧
       (∀ (r : SkRec) (k : Skein), s.me.held = some r → s.skein s.myCtx s.me.heldSid = some k →
         (pass = true → (k.stage r.stage.toNat).hold ≠ none → ∃ t, exec i s = .next t ∧ WaitsAtIssue s t .operations) ∧
         ((pass = true → (k.stage r.stage.toNat).hold = none ∧ (s.me.hold = none ∨ s.releaseWaits ⟨r, true, 0, s.me.wid, s.fresh, none⟩ = false)) →
         ∃ t k', exec i s = .next t ∧ t.me.held = none ∧ t.me.recfree = false ∧ t.me.ply = 0 ∧ KeepsExcept s.me t.me (.x 0) ∧
           t.me.pc = pcValue s.cur (s.me.pc + 4) ∧ t.skein s.myCtx s.me.heldSid = some k' ∧
           ∃ q, k'.releases = k.releases ++ [q] ∧ q.record = r ∧ q.pass = pass ∧ q.wid = s.me.wid)))) ∧
  (∀ (s : State) (d a : Fin 32), let w := s.me.readX a
     (w.getLsbD 63 = false → ∃ t v, exec (.recqry d a) s = .next t ∧ WritesX s t d v (s.me.pc + 4) ∧ (s.me.held = none → v = 0) ∧
       ∀ r, s.me.held = some r → v = BitVec.ofNat 64 (r.ply.toNat + 2 ^ 16 * r.done.toNat + 2 ^ 32 * r.visits.toNat + 2 ^ 40 * r.stage.toNat)) ∧
     (∀ k, w.getLsbD 63 = true → s.skein s.myCtx (w.toNat % 2 ^ 24) = some k → w.toNat / 2 ^ 24 % 16 < k.stages.length →
       let b := k.stage (if w.getLsbD 28 then 16 else w.toNat / 2 ^ 24 % 16)
       ∃ t v, exec (.recqry d a) s = .next t ∧ WritesX s t d v (s.me.pc + 4) ∧ v.toNat % 2 ^ 16 = b.bobbin.length % 2 ^ 16 ∧
         v.toNat / 2 ^ 16 % 2 ^ 16 = b.depth % 2 ^ 16 ∧ v.toNat / 2 ^ 32 % 2 ^ 16 = b.high % 2 ^ 16 ∧ v.toNat / 2 ^ 48 = b.low % 2 ^ 16))

/-! # Tiles -/

/-- MMA, MMS, ACVT, AZERO and TZERO issue (R189, R191, R194, R196, R197, R199, R201): with the lease, tiles and accumulator that this core may use, of the
formats and shapes the form requires and in the states it requires, the command stands among the operations in flight; AZERO configures its
accumulator at issue. -/
def Obligations.ArrayCommands : Prop :=
  ∀ (s : State) (c : Fin 4) (a b n : Fin 32) (z : Bool), let k := s.cluster (clusterOf s.cur); let sat := k.astat.getLsbD 8
    let valid (t : Fin 32) : Prop := (k.tcfgOf t).getLsbD 27 = true ∧ mayUseTile s t
    s.me.tiles < 65535 → leaseHeld s →
    (∀ (i : Instr) (f : Fin 8), (i, f) ∈ [(Instr.mmaBf16 c a b z, (0 : Fin 8)), (.mmaF16 c a b z, 1), (.mmaF64 c a b z, 2), (.mmaQ8 c a b z, 3), (.mmaQ4 c a b z, 4),
        (.mmaQ4b c a b z, 5), (.mmaQ8b c a b z, 6), (.mmaF32r c a b z, 7)] →
      valid a → valid b → mayUseAcc s c → (k.accOf c).getLsbD 4 = true → (k.accOf c).getLsbD 0 = decide (f = 2) →
      tcFmt (k.tcfgOf a) = [1, 2, 4, 5, 6, 6, 5, 3].getD f.val 0 → tcFmt (k.tcfgOf b) = [1, 2, 4, 5, 6, 1, 1, 3].getD f.val 0 →
      tcCols (k.tcfgOf a) = tcCols (k.tcfgOf b) → (f = 3 ∨ f = 4 → tcGsz (k.tcfgOf a) = tcGsz (k.tcfgOf b)) → k.stateOf a = .ready → k.stateOf b = .ready →
      ∃ t, exec i s = .next t ∧ TileIssued s t (.array (.mma f z c a b sat)) k) ∧
    (∀ (i : Instr) (q8 : Bool) (p : Fin 4), (i, q8) ∈ [(Instr.mmsBf16 c a b z p, false), (.mmsQ8 c a b z p, true)] → p ≠ 3 →
      valid a → valid b → mayUseAcc s c → (k.accOf c).getLsbD 4 = true → (k.accOf c).getLsbD 0 = false →
      tcFmt (k.tcfgOf a) = (if q8 then 5 else 1) → tcFmt (k.tcfgOf b) = (if q8 then 5 else 1) → tcCols (k.tcfgOf a) % patSize p = 0 →
      tcCols (k.tcfgOf b) = tcCols (k.tcfgOf a) * patKept p / patSize p → (q8 = true → tcGsz (k.tcfgOf a) = tcGsz (k.tcfgOf b)) →
      k.stateOf a = .ready → k.stateOf b = .ready → ∃ t, exec i s = .next t ∧ TileIssued s t (.array (.mms q8 z p c a b sat)) k) ∧
    (∀ (o : Fin 32) (m : Fin 4), valid n → mayUseAcc s c → (k.accOf c).getLsbD 4 = true → 1 ≤ tcFmt (k.tcfgOf n) → tcFmt (k.tcfgOf n) ≤ 4 →
      8 * o.val + tcRows (k.tcfgOf n) ≤ 256 → settled s n →
      ∃ t, exec (.acvt n c o m z) s = .next t ∧ TileIssued s t (.array (.acvt n c (8 * o.val) m z sat ((k.accOf c).getLsbD 0))) k) ∧
    (valid n → settled s n → ∃ t, exec (.tzero n) s = .next t ∧ TileIssued s t (.array (.tzero n)) k) ∧
    (mayUseAcc s c → let x := s.me.readX a
      let cfg : BitVec 5 := if x.getLsbD 1 then k.accOf c &&& 1 else BitVec.ofNat 5 ((x.getLsbD 0).toNat + 2 * (coreOf s.cur % 8) + 16)
      ∃ t, exec (.azero c a) s = .next t ∧ TileIssued s t (.array (.azero c)) { k with accCfg := Tab.write 0 k.accCfg c.val cfg })

/-- The lease of the array, and what it does to tile commands.
LEASE, LEASE.T and LREL (R190, R264): with the lease LEASE and LEASE.T go on; a free lease without waiting cores is granted; LEASE.T answers 0 else, and
LEASE blocks; a request that would have come before the one granted in this cc waits at issue; LREL passes the lease on, to the waiting core that is
first in the rotation from the last holder on, to no one where no core waits, and does nothing without it; a free lease for which cores wait goes to the
first in that rotation of these and the one that asks (R265).
A tile command in a handler whose core does not hold the lease raises HBLOCK (R31, R191); without the lease a task strand requests it and blocks. -/
def Obligations.LeasesAndGate : Prop :=
  (∀ (s : State) (d : Fin 32), let c := clusterOf s.cur; let k := s.cluster c; let me := coreOf s.cur % 8
     let granted (t : State) : Prop := (t.cluster c).holder = some me ∧ (k.holder = none → (t.cluster c).cmds = 0 ∧ (t.cluster c).leaseSince = s.cycle)
     (isMsgStrand s.cur = true → ∃ t, exec .lease s = .next t ∧ StopsOn s t .hblock 0 0 0) ∧
     (k.holder = some me ∨ k.holder = none ∧ k.waiting = [] →
       (isMsgStrand s.cur = false → ∃ t, exec .lease s = .next t ∧ granted t ∧ t.me = goesOn s s.me 4) ∧
       ∃ t, exec (.leaseT d) s = .next t ∧ granted t ∧ t.me.readX d = (if d = 0 then 0 else 1) ∧ KeepsExcept s.me t.me (.x d) ∧
         t.me.pc = pcValue s.cur (s.me.pc + 4)) ∧
     (∀ h, k.holder = some h → h ≠ me → ∃ t, exec .lrel s = .next t ∧ OnlyPc s t (s.me.pc + 4)) ∧
     (k.tooLate me s.cycle = true → (isMsgStrand s.cur = false → ∃ t, exec .lease s = .next t ∧ WaitsAtIssue s t .operations) ∧
       ∃ t, exec (.leaseT d) s = .next t ∧ WaitsAtIssue s t .operations) ∧
     (∀ h, k.holder = some h → h ≠ me → k.tooLate me s.cycle = false →
       (isMsgStrand s.cur = false → ∃ t, exec .lease s = .next t ∧ t.me.st = .blocked ∧ (t.cluster c).holder = some h ∧ me ∈ (t.cluster c).waiting) ∧
       ∃ t, exec (.leaseT d) s = .next t ∧ WritesX s t d 0 (s.me.pc + 4)) ∧
     (k.holder = some me → k.waiting = [] → ∃ t, exec .lrel s = .next t ∧ (t.cluster c).holder = none ∧ t.me = goesOn s s.me 4) ∧
     (∀ w, k.holder = some me → w < 8 → k.waiting = [w] → ∃ t, exec .lrel s = .next t ∧ (t.cluster c).holder = some w ∧ (t.cluster c).waiting = [] ∧
       t.me = goesOn s s.me 4) ∧
     ((∀ x ∈ k.waiting, x < 8) → (∀ h, k.lastHolder = some h → h < 8) →
       (∀ w, k.holder = some me → firstInRotation k.lastHolder k.waiting w → ∃ t, exec .lrel s = .next t ∧ (t.cluster c).holder = some w ∧
         (t.cluster c).cmds = 0 ∧ (t.cluster c).leaseSince = s.cycle ∧ (t.cluster c).waiting = k.waiting.filter (· != w) ∧ t.me = goesOn s s.me 4) ∧
       (∀ w, k.holder = none → k.waiting ≠ [] → firstInRotation k.lastHolder (me :: k.waiting) w →
         (isMsgStrand s.cur = false → ∃ t, exec .lease s = .next t ∧ (t.cluster c).holder = some w ∧ w ∉ (t.cluster c).waiting ∧
           (w = me → t.me = goesOn s s.me 4) ∧ (w ≠ me → t.me.st = .blocked ∧ t.me.pc = s.me.pc ∧ me ∈ (t.cluster c).waiting)) ∧
         ∃ t, exec (.leaseT d) s = .next t ∧ WritesX s t d 0 (s.me.pc + 4)))) ∧
  (∀ (s : State) (i : Instr) (c : Fin 4) (a b n : Fin 32) (m : Fin 16) (o : Fin 32) (z : Bool), let k := s.cluster (clusterOf s.cur)
     i ∈ [Instr.mmaBf16 c a b z, .mmaF16 c a b z, .mmaF64 c a b z, .mmaQ8 c a b z, .mmaQ4 c a b z, .mmaQ4b c a b z, .mmaQ8b c a b z, .mmaF32r c a b z,
       .acvt n c o 0 z, .azero c a, .tzero n, .tld n m o, .tst n m o, .tstF n m o] →
     s.me.tiles < 65535 →
     (isMsgStrand s.cur = true → k.holder ≠ some (coreOf s.cur % 8) → ∃ t, exec i s = .next t ∧ StopsOn s t .hblock 0 0 0) ∧
     (∀ h, i = .azero c a → isMsgStrand s.cur = false → isSpindle s.cur = false → mayUseAcc s c → k.holder = some h → h ≠ coreOf s.cur % 8 →
       k.tooLate (coreOf s.cur % 8) s.cycle = false → ∃ t, exec i s = .next t ∧ t.me.st = .blocked ∧ t.ops = s.ops ∧ (coreOf s.cur % 8) ∈ (t.cluster (clusterOf s.cur)).waiting))

/-- Tiles: configuration, state and transfers. It rests on the model's own readings and choices in log entries 71 and 91 (GSZ = 3 is refused for every
format).
TCFG, TCFGR, TSTATE and ASTAT (R192, R193, R195): TCFG replaces the fields of a settled tile's word, all zero when VALID is 0, and the tile is EMPTY; a bad shape raises
TSHAPE, another core's tile TILEOWN; TCFGR and TSTATE read; ASTAT reads the flags and clears those named, but for those set in the same cc,
once this core's array commands are done.
TLD, TST and TST.F issue (R202 to R205): once every address and shape has passed and the tile is in a state that allows it, the tile is FILLING or
DRAINING and the transfer stands among the operations in flight, a load of every line with a byte of the tile, or a store. -/
def Obligations.Tiles : Prop :=
  (∀ (s : State) (n a d : Fin 32), let c := clusterOf s.cur; let k := s.cluster c; let w := s.me.readX a
     (w.getLsbD 27 = true → tcBad w = true → ∃ t, exec (.tcfg n a) s = .next t ∧ StopsOn s t .tshape 0 0 0) ∧
     (¬ (w.getLsbD 27 = true ∧ tcBad w = true) → ¬ mayUseTile s n → ∃ t, exec (.tcfg n a) s = .next t ∧ StopsOn s t .tileown 0 0 0) ∧
     (¬ (w.getLsbD 27 = true ∧ tcBad w = true) → mayUseTile s n → settled s n → s.tileBusy n = false →
       ∃ t, exec (.tcfg n a) s = .next t ∧ { t with units := s.units, clusters := s.clusters } = s ∧ t.me = goesOn s s.me 4 ∧
         (t.cluster c).tcfgOf n = (if w.getLsbD 27 then w &&& 0xFFFFFFFF0F3FFFFF else 0) ∧ (t.cluster c).stateOf n = .empty ∧
         (∀ m, m ≠ n → (t.cluster c).tcfgOf m = k.tcfgOf m ∧ (t.cluster c).stateOf m = k.stateOf m) ∧ (t.cluster c).tiles = k.tiles ∧
         (t.cluster c).acc = k.acc ∧ ∀ x, x ≠ c → t.cluster x = s.cluster x) ∧
     (∃ t, exec (.tcfgr d n false) s = .next t ∧ WritesX s t d (k.tcfgOf n) (s.me.pc + 4)) ∧
     (n.val < 4 → ∃ t, exec (.tcfgr d n true) s = .next t ∧ WritesX s t d ((k.accOf (Fin.ofNat 4 n.val)).setWidth 64) (s.me.pc + 4)) ∧
     (∃ t v, exec (.tstate d n) s = .next t ∧ WritesX s t d v (s.me.pc + 4) ∧ v.toNat = (match k.stateOf n with
         | .empty => 0
         | .filling => 1
         | .ready => 2
         | .draining => 3) + 4 * ((k.tcfgOf n).getLsbD 27).toNat + 8 * ((k.tcfgOf n).toNat / 2 ^ 24 % 8)) ∧
     (s.arrayCmds (coreOf s.cur) ≠ [] → ∃ t, exec (.astat d a) s = .next t ∧ WaitsAtIssue s t .operations) ∧
     (s.arrayCmds (coreOf s.cur) = [] → ∃ t, exec (.astat d a) s = .next t ∧ { t with units := s.units, clusters := s.clusters } = s ∧
       t.me.readX d = (if d = 0 then 0 else k.astat.setWidth 64) ∧ KeepsExcept s.me t.me (.x d) ∧ t.me.pc = pcValue s.cur (s.me.pc + 4) ∧
       ∀ b, b < 9 → (t.cluster c).astat.getLsbD b = (k.astat.getLsbD b && !(decide (b < 4) && w.getLsbD b) || (k.justSet s.cycle).getLsbD b))) ∧
  (∀ (s : State) (n : Fin 32) (m : Fin 16) (o : Fin 32) (ps : List Placed), let k := s.cluster (clusterOf s.cur); let mp := tmapOf (s.me.readTm m)
     leaseHeld s → s.me.taken = [] → s.copyOps (coreOf s.cur) < 256 →
     (s.tileChecks n mp (originOf (s.me.readX o)) .read false = .ok ps → settled s n → s.tileBusy n = false →
       ∃ t x, exec (.tld n m o) s = .next t ∧ TileIssued s t (.tld n) { k with tstate := Tab.write .empty k.tstate n.val .filling } ∧ t.ops = s.ops ++ [x] ∧
         x.reads = groupMoves (ps.map (s.moveOf (s.mapTag mp))) ∧ x.writes = []) ∧
     (∀ i f, (i, f) = (.tst n m o, false) ∨ (i, f) = (.tstF n m o, true) → s.tileChecks n mp (originOf (s.me.readX o)) .write true = .ok ps →
       k.stateOf n = .ready → s.tileWritten n = false → (∀ p ∈ ps, usesCell p.loc (s.mapTag mp) = false) →
       ∃ t x, exec i s = .next t ∧ TileIssued s t (.tst n f) { k with tstate := Tab.write .empty k.tstate n.val .draining } ∧ t.ops = s.ops ++ [x] ∧
         x.reads = [] ∧ x.writes = groupMoves (ps.map (s.moveOf (s.mapTag mp)))))

/-! # Engine operations and quantised blocks -/

/-- What the copy, gather and collective engines are given. It rests on the model's own readings and choices in log entries 23 and 44.
CPY and GATH of tensors of no more than one dimension of the same floating format, whose addresses pass every check (R207, R208): they stand among the operations in flight and count as copies; a malformed source map raises TSHAPE.
COLL (R210): with a descriptor that keeps its rules, a member list that names this cube, shapes and formats as the operation needs and addresses that pass every check, the
collective stands among the operations in flight and counts as a copy; its completion word is the one at DONE. -/
def Obligations.EngineWork : Prop :=
  (∀ (s : State) (d z : Fin 16) (c im : Fin 32), let md := tmapOf (s.me.readTm d); let ms := tmapOf (s.me.readTm z)
     let plain (m : TMap) : Prop := m.misshapen = false ∧ m.zpad = false ∧ m.trans = false ∧ m.misaligned = false ∧ 1 ≤ m.fmt ∧ m.fmt ≤ 4 ∧ m.ndim ≤ 1
     s.me.copies < 65535 → s.me.readX c = 0 → s.copyOps (coreOf s.cur) < 256 →
     (ms.misshapen = true → ∃ t, exec (.cpy d z c) s = .next t ∧ StopsOn s t .tshape 0 0 0) ∧
     (ms.misshapen = true → ∃ t, exec (.gath d z im c) s = .next t ∧ StopsOn s t .tshape 0 0 0) ∧
     (∀ src dst, plain md → plain ms → md.fmt = ms.fmt → md.extent 0 = ms.extent 0 → md.extent 1 = ms.extent 1 →
       s.checkRuns (fun _ => true) .read (s.mapTag ms) false true (cutRuns (tensorRuns ms)) = .ok src →
       s.checkRuns (fun _ => true) .write (s.mapTag md) true true (cutRuns (tensorRuns md)) = .ok dst →
       ∃ t x, exec (.cpy d z c) s = .next t ∧ t.me = goesOn s { s.me with copies := s.me.copies + 1 } 4 ∧ { t with units := s.units, ops := s.ops, fresh := s.fresh } = s ∧
         t.ops = s.ops ++ [x] ∧ x.kind = .cpy ∧ x.ctr = .copies ∧ x.party = s.cur ∧ x.done = none ∧ x.reads = groupMoves (src.map (s.moveOf (s.mapTag ms))) ∧
         x.writes = groupMoves (dst.map (s.moveOf (s.mapTag md)))) ∧
     (∀ all lp dst src s1 bs, plain md → plain ms → md.fmt = ms.fmt → md.extent 0 = ms.extent 0 → (s.me.readX im).toNat % 4 = 0 →
       s.checkRuns s.isLocal .read (s.mapTag ms) false false (cutRuns (tensorRuns ms)) = .ok all →
       s.checkRuns s.isLocal .read s.myTag false false (cutRuns [⟨s.me.readX im, 0, 4 * md.extent 1, 0, .none⟩]) = .ok lp →
       s.checkRuns s.isLocal .write (s.mapTag md) true false (cutRuns (tensorRuns md)) = .ok dst → s.readPlaced s.myTag lp = .ok (s1, bs) →
       (∀ k ∈ words32 bs, k < ms.extent 1) → let row := md.extent 0 * elemBitsOf md.fmt / 8
       s.checkRuns s.isLocal .read (s.mapTag ms) false false (cutRuns ((words32 bs).mapIdx fun j k => ⟨ms.addr 0 k 0 0, j * row, row, 0, .none⟩)) = .ok src →
       ∃ t x, exec (.gath d z im c) s = .next t ∧ t.me.copies = s.me.copies + 1 ∧ t.me.pc = pcValue s.cur (s.me.pc + 4) ∧ KeepsExcept s.me t.me (.x 0) ∧
         (∀ b, t.byte b = s.byte b) ∧ t.ops = s.ops ++ [x] ∧ x.kind = .gath ∧ x.ctr = .copies ∧ x.status = 0 ∧ x.reads = groupMoves (src.map (s.moveOf (s.mapTag ms))) ∧
         x.writes = groupMoves (dst.map (s.moveOf (s.mapTag md))))) ∧
  (∀ (s s1 s2 : State) (d z : Fin 16) (c : Fin 32) (bs raw : List Byte) (src dst : List Placed) (l : Loc),
     let md := tmapOf (s.me.readTm d); let ms := tmapOf (s.me.readTm z); let b := leWords bs; let op := cdOp b; let cubes := words32 raw; let list := wordAt b 1
     let root := (wordAt b 2).toNat % 2 ^ 20
     s.me.copies < 65535 → md.misshapen = false → ms.misshapen = false → (md.trans = true → isQ md.fmt = false) → (ms.trans = true → isQ ms.fmt = false) →
     ms.misaligned = false → md.misaligned = false → s.readBlock (s.me.readX c) 64 0 = .ok (s1, bs) → descriptorOk b = true → collShape op (cdCount b) md ms = true →
     md.fmt = ms.fmt → (isQ md.fmt = true → md.gsz = ms.gsz) → (op = 1 ∨ op = 2 → ms.fmt = cdFmt b) → list.toNat % 4 = 0 →
     s1.readCubes list (cdCount b) = .ok (s2, raw) → (∀ x ∈ cubes, x < 2 ^ 20) → noTwice cubes = true → cubes.contains s.cubeNum = true →
     (op < 2 → cubes.contains root = true) → s.collPlaces .read (s.mapTag ms) false (collRuns ms) = .ok src → s.collPlaces .write (s.mapTag md) true (collRuns md) = .ok dst →
     s2.check (wordAt b 4) 8 .write 0 false 0 = .ok l → l.cube = s.cubeNum →
     ∃ t x k, exec (.coll d z c) s = .next t ∧ t.me.copies = s.me.copies + 1 ∧ t.me.pc = pcValue s.cur (s.me.pc + 4) ∧ (∀ a, t.byte a = s.byte a) ∧ t.ops = s.ops ++ [x] ∧
       x.kind = .coll k ∧ x.ctr = .copies ∧ x.party = s.cur ∧ x.done = some l.key ∧ x.status = 0 ∧ k.op = op ∧ k.members = cubes ∧ k.root = root ∧
       k.tmo = (wordAt b 3).toNat % 2 ^ 32 ∧ k.cid = (wordAt b 5).setWidth 24)

/-! # What floating-point arithmetic computes -/

/-- What the arithmetic of FloatResults and Conversions computes (R64, R65, R68, R69, R105): for every finite number of a format, subnormals among them, sums, differences,
products and fused forms are the exact value rounded once by the rule, with the flags of R65; so are conversions from a format and from an integer, and the rounding that ACVT and the engines use.
An operand that is a NaN gives the first canonically held one made quiet, else the canonical quiet NaN, and NV where one signals; ∞ − ∞ and 0 × ∞
give the canonical quiet NaN and NV. -/
def Obligations.FloatRounding : Prop :=
  ∀ (f : Fmt) (r : Round), f ∈ [fp64, fp32, fp16, bf16] →
    (∀ a b c, isFinitePattern f a → isFinitePattern f b → isFinitePattern f c → ∀ np nc : Bool,
      let va := numberOf f a; let vb := numberOf f b; let na := negative f a; let nb := negative f b
      let x := (if np then -(va * vb) else va * vb) + (if nc then -(numberOf f c) else numberOf f c)
      let sum := fadd f r (f.opnd a) (f.opnd b); let difference := fsub f r (f.opnd a) (f.opnd b); let product := fmul f r (f.opnd a) (f.opnd b)
      let fused := fmadd f r np nc (f.opnd a) (f.opnd b) (f.opnd c)
      RoundsTo f r (sumSign r (va + vb) na nb) (va + vb) sum.1 sum.2 ∧
      RoundsTo f r (sumSign r (va - vb) na (!nb)) (va - vb) difference.1 difference.2 ∧
      RoundsTo f r (na != nb) (va * vb) product.1 product.2 ∧
      RoundsTo f r (sumSign r x ((na != nb) != np) (negative f c != nc)) x fused.1 fused.2) ∧
    (∀ g a, g ∈ [fp64, fp32, fp16, bf16] → isFinitePattern g a →
      RoundsTo f r (negative g a) (numberOf g a) (cvtFloat g f r none (g.opnd a)).1 (cvtFloat g f r none (g.opnd a)).2) ∧
    (∀ v : Int, RoundsTo f r (decide (v < 0)) (v : Rat) (cvtOfInt f r none v).1 (cvtOfInt f r none v).2) ∧
    (∀ (neg : Bool) (m : Nat) (e : Int), RoundsTo f r neg ((if neg then -1 else 1) * (m : Rat) * (2 : Rat) ^ e) (f.round r neg m e).1 (f.round r neg m e).2) ∧
    (∀ (a b : Word), let x := f.readReg a; let y := f.readReg b
      let nan (w : Word) : Prop := isNanPattern f w.toNat ∨ 2 ^ f.width ≤ w.toNat
      let signals : Prop := isSignallingPattern f a.toNat ∨ isSignallingPattern f b.toNat
      nan a ∨ nan b → ∀ z, z ∈ [fadd f r x y, fsub f r x y, fmul f r x y, fdiv f r x y] →
        nanResult f [a.toNat, b.toNat] z.1 ∧ (signals → z.2 = flagNV) ∧ (¬ signals → z.2 = 0)) ∧
    fadd f r (f.opnd (f.infBits false)) (f.opnd (f.infBits true)) = (f.qnan, flagNV) ∧
    (∀ neg z, isFinitePattern f z → numberOf f z = 0 → fmul f r (f.opnd (f.infBits neg)) (f.opnd z) = (f.qnan, flagNV))

/-! # Privileged instructions -/

/-- The privileged instructions, on the units that may not and those that may execute them (R167 to R169). It rests on the model's own readings and choices in log entries 20 and 42, and
112 (the address that CTXLD's PERM reports).
TLBW, TLBI, MBXR, CTXSV, CTXLD and GSTOP raise PRIV on every strand and spindle core (R167).
On a service core (R167 to R169, R242, R244): TLBW writes entry [13:8] of the core in [7:0], with V = 0 for a malformed entry; TLBI waits for the
accesses in flight, drops every matching entry of the context in every core, and completes once bank commands that hold such a page have stalled; MBXR answers 0 where no message matches; CTXSV changes no unit but itself; CTXLD of a core that runs raises
PERM; GSTOP of a context whose parties have all halted completes, and its resumption completes at once. -/
def Obligations.Privileged : Prop :=
  (∀ (s : State) (i : Instr) (a b c d : Fin 32), i ∈ [Instr.tlbw a b c, .mbxr d a b, .ctxsv a b, .ctxld a b, .gstop a, .tlbi a b] → isService s.cur = false →
     ∃ t, exec i s = .next t ∧ StopsOn s t .priv 0 0 0) ∧
  (∀ (s : State) (a b c d : Fin 32), isService s.cur = true → let w := (s.me.readX a).toNat
     (∃ t, exec (.tlbw a b c) s = .next t ∧ { t with units := s.units, cores := s.cores } = s ∧ t.me = goesOn s s.me 4 ∧
       Tab.read none (t.core (w % 256)).tlb (w / 2 ^ 8 % 64) =
         (if (s.me.readX b).getLsbD 0 = true ∧ malformedPte (s.me.readX b) (s.me.readX c) = false then some (pteOf (s.me.readX b) (s.me.readX c)) else none) ∧
       ∀ e, e ≠ w / 2 ^ 8 % 64 → Tab.read none (t.core (w % 256)).tlb e = Tab.read none (s.core (w % 256)).tlb e) ∧
     (let all := (s.me.readX b).getLsbD 2; let ctx := (s.me.readX b).toNat / 16 % 16
      let n := if (s.me.readX b).toNat % 4 = 0 then 16 else if (s.me.readX b).toNat % 4 = 1 then 21 else 30
      let dropping := s.me.hold.map (·.kind) = some .shootdown; let s1 := ((s.tlbi ctx w n all).settleMasks ctx).stallBanks ctx w n all
      (all = true ∨ (s.me.readX b).toNat % 4 ≠ 3) →
      (¬ dropping → s.inFlight ctx w n all = true → ∃ t, exec (.tlbi a b) s = .next t ∧ WaitsAtIssue s t .operations) ∧
      (¬ dropping → s.inFlight ctx w n all = false → ∃ t, exec (.tlbi a b) s = .next t ∧
        (∀ core e p, (e, some p) ∈ (t.core core).tlb → p.ctx.toNat = ctx → all = false ∧ overlaps (p.vpn.toNat * 2 ^ 16) p.shift w n = false) ∧
        ((∀ e ∈ s.banks, ∀ r, e.2.run = some r → r.names ctx w n all = false) → ∀ x, t.byte x = s.byte x) ∧
        (s1.stallPending ctx w n all = false → t.me = goesOn s s.me 4) ∧
        (s1.stallPending ctx w n all = true → ∃ h, t.me = { s.me with hold := some h } ∧ h.kind = .shootdown)) ∧
      (dropping → s.stallPending ctx w n all = false → ∃ t, exec (.tlbi a b) s = .next t ∧ t.me = goesOn s s.me 4 ∧ ∀ x, t.byte x = s.byte x)) ∧
     ((s.me.readX b).toNat % 64 = 0 → takeMessage (w / 2 ^ 10 % 16) (Tab.read [] (s.core (w % 256)).inbox (w / 2 ^ 8 % 4)) = none →
       ∃ t, exec (.mbxr d a b) s = .next t ∧ WritesX s t d 0 (s.me.pc + 4)) ∧
     (∀ key, s.firmwarePlace (s.me.readX b) = some key →
       ∃ t, exec (.ctxsv a b) s = .next t ∧ t.me = goesOn s s.me 4 ∧ { t with units := s.units, mem := s.mem } = s ∧ (∀ k, k ≠ s.cur → t.unit k = s.unit k) ∧
         ∀ x, (x < key ∨ key + 4096 ≤ x) → t.byte x = s.byte x) ∧
     ((s.unit (unitKey (w % 256) (w / 2 ^ 8 % 8))).halted = false → ∃ t, exec (.ctxld a b) s = .next t ∧ StopsOn s t .perm (s.me.readX b) 0 0) ∧
     (∀ key, (s.unit (unitKey (w % 256) (w / 2 ^ 8 % 8))).halted = true → s.firmwarePlace (s.me.readX b) = some key →
       ∃ t, exec (.ctxld a b) s = .next t ∧ t.me = goesOn s s.me 4 ∧ ∀ x, t.byte x = s.byte x) ∧
     ((s.me.readX a).getLsbD 4 = true → (s.stopCtx (w % 16)).quietCtx (w % 16) = true → ∃ t, exec (.gstop a) s = .next t ∧ t.me = goesOn s s.me 4) ∧
     ((s.me.readX a).getLsbD 4 = false → ∃ t, exec (.gstop a) s = .next t ∧ t.me.pc = pcValue s.cur (s.me.pc + 4)))

/-! # Steps of the machine: scheduling -/

/-- Which work a core takes up, and what leaves a strand. It rests on the model's own readings and choices in log entry 7.
RECORD_PICKUP, STEAL_SCAN, STEAL_SCAN_RETRY and SPILL_RESUME (R14, R17, R20, R253, R254): an idle strand takes up the core's own work, the head of the highest
list that holds one where nothing is ready or aged; without any, a scan takes the victim's oldest stealable record, or notes when it found none; a spill entry comes
back with its registers.
SPILL, SPILL_READY_TIMEOUT, AGEING_PROMOTION, GANG_REQUEST and GANG_START (R20, R23, R33): a strand blocked for BLKTMO leaves for the lowest free spill slot, which is
ready after BLKTMO more; work that has waited 65,536 cycles behind higher priorities is promoted; a gang's request reserves idle strands one core after the other, and with all of them
every member starts, while no core of theirs is kept from taking up work (R323). -/
def Obligations.Scheduling : Prop :=
  (∀ (s : State), let core := s.inp.core; let k := s.core core
     (∀ key p i e, s.mayTake core = true → s.idleStrand core = some key → s.localWork core = some (.run p i) → (Tab.read [] k.runq p)[i]? = some e →
       ∃ t, exec .recordPickup s = .next t ∧ TakenUp s t key (s.record core e.slot) ∧ Tab.read none (t.core core).slots e.slot = none ∧
         Tab.read [] (t.core core).runq p = (Tab.read [] k.runq p).eraseIdx i ∧ t.mayTake core = false) ∧
     (∀ p, p < 4 → s.agedWork core = none → readySpills k = [] → Tab.read [] k.runq p ≠ [] → (∀ q, p < q → q < 4 → Tab.read [] k.runq q = []) →
       s.localWork core = some (.run p 0)) ∧
     (∀ i key, s.scanner core = some key → (i = .stealScan ∧ k.scanSince = 0 ∨ i = .stealScanRetry ∧ k.scanSince ≠ 0 ∧ 64 ≤ s.cycle + 1 - k.scanSince) →
       (∀ d p j e, (scanOrder k.stealFrom).findSome? (fun d => (stealableOf (s.core (victimOf core d))).map fun e => (d, e)) = some (d, p, j, e) →
         ∃ t, exec i s = .next t ∧ TakenUp s t key (s.record (victimOf core d) e.slot) ∧ Tab.read none (t.core (victimOf core d)).slots e.slot = none ∧
           (t.core core).scanSince = 0) ∧
       ((∀ d, 1 ≤ d → d ≤ 7 → stealableOf (s.core (victimOf core d)) = none) →
         ∃ t, exec i s = .next t ∧ t = s.setCore core { k with scanSince := s.cycle + 1 })) ∧
     (∀ key slot p, s.mayTake core = true → s.idleStrand core = some key → s.localWork core = some (.spill slot) → Tab.read none k.spills slot = some p →
       let ws := s.wordsAt (scratchKey core (spillOff k slot)) 512
       ∃ t, exec .spillResume s = .next t ∧ (t.unit key).st = .run ∧ (t.unit key).wid = p.wid ∧ (t.unit key).pc = wordAt ws 0 ∧
         (t.unit key).ply = (wordAt ws 397).setWidth 16 ∧ (t.unit key).rngst = (s.unit key).rngst ∧
         (∀ r : Fin 32, (t.unit key).readX r = if r = 0 then 0 else wordAt ws r.val) ∧ (∀ r : Fin 32, (t.unit key).readF r = wordAt ws (32 + r.val)) ∧
         Tab.read none (t.core core).spills slot = none)) ∧
  (∀ (s : State), let core := s.inp.core; let k := s.core core; let key := unitKey core s.inp.slot; let d := s.inp.part
     (∀ w slot, s.timedOut key = some w → freeSpill k = some slot → s.spillsFirst key w = false →
       ∃ t, exec .spill s = .next t ∧ (t.unit key).st = .idle ∧ (∀ u, u ≠ key → t.unit u = s.unit u) ∧
         ∃ e, Tab.read none (t.core core).spills slot = some e ∧ e.ready = false ∧ e.since = s.cycle ∧ e.wait = w ∧ e.wid = (s.unit key).wid) ∧
     (∀ p, Tab.read none k.spills s.inp.index = some p → p.ready = false → k.blktmo ≤ s.cycle - p.since → s.works core = true →
       ∃ t, exec .spillReadyTimeout s = .next t ∧ t.units = s.units ∧
         Tab.read none (t.core core).spills s.inp.index = some { p with ready := true, readyAt := s.cycle, readySeq := s.fresh }) ∧
     (s.works core = true → ∃ t, exec .ageingPromotion s = .next t ∧ { t with cores := s.cores } = s ∧ (∀ c, c ≠ core → t.core c = s.core c) ∧
       (∀ p l, (p, l) ∈ k.runq → ∃ l', (p, l') ∈ (t.core core).runq ∧ l'.length = l.length ∧ ∀ (i : Nat) (e : RunEntry), l[i]? = some e →
         ∃ e' : RunEntry, l'[i]? = some e' ∧ e' = { e with aged := e'.aged } ∧ (e'.aged = true ↔ e.aged = true ∨ ∃ b, e.behind = some b ∧ 65536 ≤ s.cycle - b))) ∧
     (∀ g rest c ws more, (s.die d).gangs = g :: rest → (s.ctx g.ctx).stopped = false → g.todo = (c, ws) :: more →
       (s.idleStrand c = none ∨ s.works c = false → ∃ t, exec .gangRequest s = .next t ∧ t.units = s.units ∧ (t.die d).gangs = g :: rest) ∧
       (∀ u, more = [] → s.works c = true → s.idleStrand c = some u → ∃ t, exec .gangRequest s = .next t ∧ (t.unit u).st = .reserved ∧
         (t.die d).gangs = { g with todo := [], reserved := g.reserved ++ [(u, ws)] } :: rest)) ∧
     (∀ g rest, (s.die d).gangs = g :: rest → g.todo = [] → (∃ r ∈ g.reserved, s.works (coreOf r.1) = false) → exec .gangStart s = .next s) ∧
     (∀ g rest, (s.die d).gangs = g :: rest → g.todo = [] → (g.reserved.map (·.1)).Nodup → (∀ r ∈ g.reserved, s.works (coreOf r.1) = true) →
       ∃ t, exec .gangStart s = .next t ∧ (t.die d).gangs = rest ∧ ∀ r ∈ g.reserved, TakenUp s t r.1 r.2))

/-! # Steps of the machine: launches and contexts -/

/-- DOORBELL, LAUNCH_INGESTION, LAUNCH_START, ENGAGEMENT_ACKNOWLEDGEMENT and LAUNCH_COMPLETION (R24, R27, R35): a readable record is queued, a misaligned one counted; the
oldest submission without a live launch takes what was written in STATE 1, and is refused for its completion address, fails with its status, or is live with the
record's parameters in every core of the partition; another cube's start engages this cube, or is counted with the launch that is live here; an acknowledgement settles
as many engagements as it says; the last of a launch's work ends it. It rests on the model's own readings and choices in log entries 18, 83 (a record in a scratch
window), 105, 107 and 116. -/
def Obligations.LaunchSteps : Prop :=
  ∀ (s : State), let ctx := s.inp.ctx; let k := s.ctx ctx
    (∀ ws, s.hostPending ctx = false → s.submitHeld ctx s.inp.word0 = false → k.state ≠ .free → s.inp.word0.toNat % 64 = 0 → s.mgmtWords ctx s.inp.word0 32 = some ws →
      k.submissions.length < (if k.launch.isSome then 8 else 9) →
      ∃ t, exec .doorbell s = .next t ∧ t = s.setCtx ctx { k with submissions := k.submissions ++ [⟨ws, 0, s.confAt ctx s.inp.word0⟩] }) ∧
    ((s.hostPending ctx = true ∨ s.submitHeld ctx s.inp.word0 = true) → exec .doorbell s = .next s) ∧
    (s.hostPending ctx = false → s.submitHeld ctx s.inp.word0 = false → k.state ≠ .free → s.inp.word0.toNat % 64 ≠ 0 → ∃ t, exec .doorbell s = .next t ∧ Counted s t ctx .refusedSubmission ∧ (t.ctx ctx).submissions = k.submissions) ∧
    (∀ sub rest, k.launch = none → k.submissions = sub :: rest → (k.state = .idle ∨ k.state = .running) → k.stopped = false → s.plat.boot ≠ .failed → s.launchHeld ctx sub.words = false →
      let ws := sub.words; let s1 := s.setCtx ctx { s.configured ctx with submissions := rest }
      (((wordAt ws 2).toNat % 8 ≠ 0 ∨ s1.mgmtPlace ctx (wordAt ws 2) true = none) →
        ∃ t, exec .launchIngestion s = .next t ∧ Counted s t ctx .refusedSubmission ∧ (t.ctx ctx).submissions = rest ∧ (t.ctx ctx).launch = none) ∧
      (∀ a e, (wordAt ws 2).toNat % 8 = 0 → s1.mgmtPlace ctx (wordAt ws 2) true = some a → s1.prepare ctx ws = .error e →
        ∃ t, exec .launchIngestion s = .next t ∧ (t.ctx ctx).submissions = rest ∧ (t.ctx ctx).launch = none ∧ t.units = s.units ∧ t = s1.writeDone ctx ws e) ∧
      (∀ a cubes tab skeins position recs, (wordAt ws 2).toNat % 8 = 0 → s1.mgmtPlace ctx (wordAt ws 2) true = some a →
        s1.prepare ctx ws = .ok (cubes, tab, skeins, position, recs) →
        ∃ t l, exec .launchIngestion s = .next t ∧ (t.ctx ctx).state = .running ∧ (t.ctx ctx).launch = some l ∧ l.words = ws ∧ l.root = true ∧ l.cubes = cubes ∧
          l.position = position ∧ l.sent.map (·.cube) = cubes.filter (fun c => c != s.cubeNum) ∧
          ∀ c ∈ s.coresOf ctx, (t.core c).poolSize = orDefault (launchPool ws) 1024 ∧ (t.core c).spillSize = orDefault (launchSpill ws) 16 ∧
            (t.core c).blktmo = orDefault (launchBlk ws) 65536 ∧ (t.core c).hbudget = orDefault (launchBudget ws) 200000)) ∧
    (∀ p rest, takePacket (fun q => decide (q.kind = .launchStart)) s.mgmt = some (p, rest) → (s.ctx p.ctx).state ≠ .out → (s.ctx p.ctx).stopped = false → s.launchHeld p.ctx p.payload = false →
      s.plat.boot ≠ .failed → let c := s.ctx p.ctx; let s0 : State := { s with mgmt := rest }
      (c.state = .free → ∃ t, exec .launchStart s = .next t ∧ t.mgmt = rest ∧ t.units = s.units ∧ (t.ctx p.ctx).state = .free ∧ (t.ctx p.ctx).launch = c.launch) ∧
      (∀ cubes tab skeins position recs, c.state ≠ .free → c.launch = none → p.scube ≠ s.cubeNum →
        (s0.setCtx p.ctx (s.configured p.ctx)).prepare p.ctx p.payload = .ok (cubes, tab, skeins, position, recs) →
        ∃ t l, exec .launchStart s = .next t ∧ t.mgmt = rest ∧ (t.ctx p.ctx).state = .running ∧ (t.ctx p.ctx).launch = some l ∧ l.words = p.payload ∧ l.root = false ∧
          l.position = position ∧ (t.ctx p.ctx).engagers = [p.scube]) ∧
      (∀ l0 cubes tab skeins position recs, c.state ≠ .free → c.launch = some l0 → l0.words ≠ [] →
        (s0.setCtx p.ctx c).prepare p.ctx p.payload = .ok (cubes, tab, skeins, position, recs) →
        ∃ t, exec .launchStart s = .next t ∧ t.mgmt = rest ∧ (t.ctx p.ctx).launch = some { l0 with queues := l0.queues ||| wordAt p.payload 5 } ∧
          (t.ctx p.ctx).engagers = c.engagers ++ [p.scube])) ∧
    (∀ p rest l, takePacket (fun q => decide (q.kind = .engagementAck) && decide (q.ctx = ctx)) s.mgmt = some (p, rest) → (s.ctx p.ctx).launch = some l →
      ∃ t, exec .engagementAcknowledgement s = .next t ∧ t.mgmt = rest ∧
        (t.ctx p.ctx).launch = some { l with sent := (List.range (p.aux.toNat / 16 + 1)).foldl (fun q _ => settleEngagement p.scube q) l.sent, status := lowStatus l.status ((wordAt p.payload 0).toNat % 256) }) ∧
    (∀ l, k.launch = some l → s.live ctx = false → k.state ≠ .out → (l.root = true → s.mgmtHeld ctx (wordAt l.words 2) = false) →
      ∃ t, exec .launchCompletion s = .next t ∧ (t.ctx ctx).launch = none ∧ (t.ctx ctx).state = .idle ∧ (t.ctx ctx).skeins = [])

/-- CONTEXT_CREATE, CONTEXT_FREE, CONTEXT_RESET, CONTEXT_SWITCH_OUT, CONTEXT_SWITCH_IN, DHALT, PSTOP, HREPLY and REGISTER_WRITE (R6, R91, R266, R267, R271, R313 to R315,
R323). It rests on the model's own readings and choices in log entries 51 and 63 (a register write lands at its offset rounded down to 8 bytes). -/
def Obligations.ContextSteps : Prop :=
  ∀ (s : State), let ctx := s.inp.ctx; let k := s.ctx ctx
    (ctx < 16 → s.plat.boot ≠ .failed → s.inp.part = 0 → k.state = .free → maskClusters k.clmask ≠ [] → (∀ c ∈ maskClusters k.clmask, (s.cluster c).ctx = none) →
      ∃ t, exec .contextCreate s = .next t ∧ (t.ctx ctx).state = .idle ∧ ∀ c ∈ maskClusters k.clmask, (t.cluster c).ctx = some ctx) ∧
    (ctx < 16 → s.plat.boot ≠ .failed → (s.inp.part ≠ 0 ∨ k.state ≠ .free) → ∃ t, exec .contextCreate s = .next t ∧ t = s.setCtx ctx { k with cfgerr := true }) ∧
    (s.inp.part = 0 → k.state = .idle → ∃ t, exec .contextFree s = .next t ∧ (t.ctx ctx).state = .free ∧ (t.ctx ctx).gen = k.gen + 1 ∧
      ∀ c ∈ s.clustersOf ctx, ∃ l, t.cluster c = { svc := l } ∧ (∀ e ∈ l, e.ctx ≠ ctx) ∧ ∀ e ∈ (s.cluster c).svc, e.ctx ≠ ctx → e ∈ l) ∧
    (s.inp.part ≠ 0 ∨ k.state ≠ .idle → ∃ t, exec .contextFree s = .next t ∧ t = s.setCtx ctx { k with cfgerr := true }) ∧
    (k.state ≠ .free → (s.inp.part = 0 ∨ s.hostPending ctx = false) → (∀ b ∈ k.submissions, s.mgmtHeld ctx (wordAt b.words 2) = false) →
      (∀ l, k.launch = some l → l.root = true → s.mgmtHeld ctx (wordAt l.words 2) = false) → ∃ t, exec .contextReset s = .next t ∧ (t.ctx ctx).state = .idle ∧ (t.ctx ctx).gen = k.gen + 1 ∧ (t.ctx ctx).launch = none ∧
      (t.ctx ctx).submissions = [] ∧ ∀ o ∈ t.ops, o.ctx ≠ ctx) ∧
    (k.state = .idle ∨ k.state = .running →
      (k.stopped = false → ∃ t, exec .contextSwitchOut s = .next t ∧ (t.ctx ctx).stopped = true ∧ AllHalted t (s.coresOf ctx)) ∧
      (k.stopped = true → s.quietCtx ctx = true → ∃ t, exec .contextSwitchOut s = .next t ∧ (t.ctx ctx).state = .out)) ∧
    (k.state = .out → (∀ e ∈ k.savedClusters, (s.cluster e.1).ctx = none) →
      ∃ t, exec .contextSwitchIn s = .next t ∧ (t.ctx ctx).state = (if k.launch.isSome then .running else .idle) ∧ (t.ctx ctx).stopped = false) ∧
    (k.dhalt = false → s.inp.flag = true → (s.inp.part = 0 ∨ s.hostPending ctx = false) → ∃ t, exec .dhalt s = .next t ∧ (t.ctx ctx).dhalt = true ∧ AllHalted t (s.selected ctx)) ∧
    (k.dhalt = true → s.inp.flag = false → (s.inp.part = 0 ∨ s.hostPending ctx = false) → k.stopped = false → k.state ≠ .out →
      ∃ t, exec .dhalt s = .next t ∧ (t.ctx ctx).dhalt = false ∧ ∀ c ∈ s.coresOf ctx, ∀ u ∈ unitsOfCore c, (t.unit u).halted = false) ∧
    ((s.inp.part = 0 ∨ s.hostPending ctx = false) → ∃ t, exec .pstop s = .next t ∧ t = s.setCtx ctx { k with pstop := s.inp.flag }) ∧
    (∀ e rest, k.hevt = e :: rest → e.ctx = ctx → (s.inp.part = 0 ∨ s.hostPending ctx = false) → let w := s.inp.word0.toNat
      (w / 2 ^ 8 % 8 = e.strand → w / 2 ^ 16 % 2 ^ 8 = e.code.num → w / 2 ^ 24 % 2 ^ 8 = e.gen.toNat →
        ∃ t, exec .hreply s = .next t ∧ (t.ctx ctx).hevt = rest ∧
          Posted s t fun p => p.kind = .builtin ∧ p.hcls = 8 ∧ p.dunit = e.unit ∧ wordAt p.payload 0 = s.inp.word0 ∧ wordAt p.payload 1 = k.hreply1) ∧
      (w / 2 ^ 24 % 2 ^ 8 ≠ e.gen.toNat → ∃ t, exec .hreply s = .next t ∧ (t.ctx ctx).hevt = e :: rest ∧ Counted s t ctx .discardedReply)) ∧
    (∀ fn, s.inp.part = fn + 1 → fn < 16 → s.inp.flag = false → 0x100000 ≤ s.inp.index → s.inp.index < 0x200000 → s.hostPending fn = false →
      let off := s.inp.index / 8 * 8 - 0x100000; let k1 := (s.ctx fn).write false off s.inp.word0
      ∃ t, exec .registerWrite s = .next t ∧ (¬ (0x088 ≤ off ∧ off < 0x0A8 ∧ (s.ctx fn).dhalt = true) → t = s.setCtx fn k1) ∧
        (0x088 ≤ off ∧ off < 0x0A8 ∧ (s.ctx fn).dhalt = true → (t.ctx fn).dcores = k1.dcores ∧ AllHalted t ((s.coresOf fn).filter k1.dcores.getLsbD)) ∧
        ((0x008 ≤ off ∧ off ≤ 0x030) ∨ off = 0x050 ∨ (0x100 ≤ off ∧ off < 0x180) → t = s.setCtx fn { s.ctx fn with cfgerr := true }))

/-! # Steps of the machine: messages and events -/

/-- Arrival, handlers, spawns, decrements, queue items and accesses at strand 0, responses (R21, R22, R28 to R30, R121, R151, R153, R162, R225, R295). It rests on the model's own readings and choices in log entries 13, 18 (a response's
payload begins with its request's tag), 28, 30 (a write to the queue window leaves the ring's bytes), 43, 67 and 98 (a performed request leaves LAST). -/
def Obligations.MessageSteps : Prop :=
  ∀ (s : State), let core := s.inp.core; let n := s.inp.index
    (∀ p, s.inner[n]? = some p → (p.kind = .user ∨ p.kind = .builtin ∧ p.hcls ≠ 8 ∨ p.kind = .response ∧ p.reply ≠ 0) → s.overtakes n p = false → s.lateBefore p = false →
      (p.kind = .user → p.ocls = 0 → s.unperformed p p.ord = false) →
      (p.kind = .user → isGateway p.dunit = true → p.origin = none → ∃ t, exec .messageArrival s = .next t ∧ t.inner = s.inner.eraseIdx n ∧ t.gateways = s.gateways ++ [p]) ∧
      (∀ c, ¬ (p.kind = .user ∧ isGateway p.dunit = true) → (s.ctx p.ctx).state ≠ .out → s.serverCore p = some c →
        (s.inPartition p.ctx c = true → s.noEntry p = false → (s.cluster (c / 8)).gated = false →
          regionFree (s.regionMsgs c p.pri) p.pri s.inp.index2 (32 * (1 + p.plen)) = true →
          ∃ t, exec .messageArrival s = .next t ∧ (p.origin = none → t.inner = s.inner.eraseIdx n) ∧
            Tab.read [] (t.core c).inbox p.pri = Tab.read [] (s.core c).inbox p.pri ++ [⟨p, inboxBase + p.pri * 16384 + s.inp.index2 + 32, s.gtime, false⟩]) ∧
        (s.inPartition p.ctx c = false → ∃ t, exec .messageArrival s = .next t ∧ Counted s t p.ctx .discardedMessage))) ∧
    (∀ pri i m, s.strandZeroFree core = true → s.nextMessage core = some (pri, i, m) → 9 ≤ m.pkt.hcls →
      (∀ pc, (s.ctx m.pkt.ctx).handler m.pkt.hcls = some pc → ∃ t, exec .handlerEntry s = .next t ∧ let u := t.unit (unitKey core 0)
        u.st = .run ∧ u.pc = pc ∧ u.ply = m.pkt.ply ∧ u.readX 11 = BitVec.ofNat 64 (32 * m.pkt.plen) ∧ u.readX 12 = wordAt m.pkt.payload 0 ∧ u.msgcls = BitVec.ofNat 6 m.pkt.hcls ∧
        u.msgrpl = m.pkt.reply ∧ Tab.read [] (t.core core).inbox pri = (Tab.read [] (s.core core).inbox pri).eraseIdx i) ∧
      ((s.ctx m.pkt.ctx).handler m.pkt.hcls = none → ∃ t, exec .handlerEntry s = .next t ∧ Counted s t m.pkt.ctx .discardedMessage)) ∧
    (∀ m s1, s.builtin core 3 = some (m, s1) → m.pkt.scube ≠ s.cubeNum → m.pkt.origin = none → m.pkt.aux.getLsbD 4 = false →
      (∀ slot, s1.allocSlot core = some slot → ∃ t e, exec .taskSpawn s = .next t ∧ Tab.read none (t.core core).slots slot = some e ∧ e.park = .runnable) ∧
      (s1.allocSlot core = none → ∃ t, exec .taskSpawn s = .next t ∧ t.units = s.units ∧ Posted s t fun q => q.kind = .response ∧ q.dcube = m.pkt.scube ∧ q.aux = 3)) ∧
    (∀ p, (s.core core).spawns.find? (fun q => !q.awaited && decide (1024 ≤ s.cycle - q.req) && (s.isRemoved q.dcube || decide (s.sendState q.dcube q.sunit 0 = .ready))) = some p →
      (s.isRemoved p.dcube = true → p.origin = none → p.scube = s.cubeNum → p.kind = .builtin → p.hcls = 3 → coreOfUnit p.sunit = some core →
        ∃ t q, exec .spawnResend s = .next t ∧ (t.core core).spawns = (s.core core).spawns.filter (fun x => !decide (x.ord = p.ord)) ∧ t.inner = s.inner ++ [q] ∧
          q.kind = .response ∧ q.aux = 1 ∧ q.dunit = p.sunit) ∧
      (s.isRemoved p.dcube = false → ∃ t, exec .spawnResend s = .next t ∧ Posted s t fun q => q.kind = p.kind ∧ q.hcls = p.hcls ∧ q.payload = p.payload ∧ q.ord = s.fresh)) ∧
    (∀ m s1, s.builtin core 4 = some (m, s1) → m.pkt.scube ≠ s.cubeNum → let k := s.core core; let off := (wordAt m.pkt.payload 0).toNat % 2 ^ 20
      let slot := (off - counterOff k 0) / 8; let w := s.counterWord core slot; let amt := (wordAt m.pkt.payload 1).toNat % 2 ^ 48
      (counterOff k 0 ≤ off → off < counterOff k k.poolSize → off % 8 = 0 → (∃ e, Tab.read none k.slots slot = some e ∧ e.park = .counter) → (wordAt m.pkt.payload 0).toNat / 2 ^ 20 % 2 ^ 8 = counterGen w → amt < counterCount w →
        ∃ t, exec .dependenceDecrement s = .next t ∧ t.bytes (scratchKey core off) 8 = leBytes 8 (counterCount w - amt + counterGen w * 2 ^ 48)) ∧
      (off < counterOff k 0 ∨ counterCount w = 0 ∧ off % 8 = 0 → ∃ t, exec .dependenceDecrement s = .next t ∧ Counted s t m.pkt.ctx .staleDecrement)) ∧
    (∀ m s1 h, s.builtin core 6 = some (m, s1) → m.pkt.scube ≠ s.cubeNum → m.pkt.origin = none → let q := (wordAt m.pkt.payload 8).toNat % 64
      (s.ctx m.pkt.ctx).claims q = true → (∀ e ∈ s1.parked m.pkt.ctx (fun p => match p with
        | .queue x _ => decide (x = q)
        | _ => false), False) → Tab.read none (s.ctx m.pkt.ctx).queues q = some h →
      (h.items.length < h.capacity → ∃ t, exec .queueItem s = .next t ∧
        (Tab.read none (t.ctx m.pkt.ctx).queues q).map (·.items) = some (h.items ++ [ofLineBytes (bytesOfWords (m.pkt.payload.take 8))]) ∧
        Posted s t fun r => r.kind = .response ∧ r.aux = 0) ∧
      (h.capacity ≤ h.items.length → ∃ t, exec .queueItem s = .next t ∧ (Tab.read none (t.ctx m.pkt.ctx).queues q).map (·.overflow) = some (h.overflow + 1) ∧
        Posted s t fun r => r.kind = .response ∧ r.aux = 3)) ∧
    (∀ h, let ctx := s.inp.ctx; let q := n % 64
      s.hostPending ctx = false → (s.ctx ctx).claims q = true → (∀ e ∈ s.parked ctx (fun p => match p with
        | .queue x _ => decide (x = q)
        | _ => false), False) → Tab.read none (s.ctx ctx).queues q = some h →
      (h.items.length < h.capacity → ∃ t, exec .queueWindowWrite s = .next t ∧
        t = s.setCtx ctx { s.ctx ctx with queues := Tab.write none (s.ctx ctx).queues q (some { h with items := h.items ++ [s.inp.wide] }) }) ∧
      (h.capacity ≤ h.items.length → ∃ t, exec .queueWindowWrite s = .next t ∧
        t = s.setCtx ctx { s.ctx ctx with queues := Tab.write none (s.ctx ctx).queues q (some { h with overflow := h.overflow + 1 }) })) ∧
    (∀ m s1, s.builtin core 0 = some (m, s1) → m.pkt.scube ≠ s.cubeNum → m.pkt.origin = none →
      (∀ key, s1.remoteKey m.pkt false = .ok key → s.uncorrectable key = false →
        ∃ t, exec .remoteLoad s = .next t ∧ t.mem = s.mem ∧
          Posted s t fun r => r.kind = .response ∧ r.dcube = m.pkt.scube ∧ r.aux = 0 ∧ r.payload = flitWords (m.pkt.tag ::
            wordsOf (if m.pkt.opcode = 1 then maskedBytes (wordAt m.pkt.payload 2).toNat (s.bytes (key / 64 * 64) 64) else s.bytes key m.pkt.size))) ∧
      (∀ c, s1.remoteKey m.pkt false = .error c ∨ c = .eccu ∧ (∃ key, s1.remoteKey m.pkt false = .ok key ∧ s.uncorrectable key = true) →
        ∃ t, exec .remoteLoad s = .next t ∧ t.mem = s.mem ∧
          Posted s t fun r => r.kind = .response ∧ r.dcube = m.pkt.scube ∧ r.aux = (if c = .eccu then 4 else 5))) ∧
    (∀ m s1 key, s.builtin core 1 = some (m, s1) → s1.remoteKey m.pkt true = .ok key → m.pkt.scube ≠ s.cubeNum → m.pkt.origin = none → m.pkt.opcode ≠ 1 →
      ∃ t, exec .remoteStore s = .next t ∧ (∀ i, i < m.pkt.size → t.byte (key + i) = (leBytes m.pkt.size (wordAt m.pkt.payload 2).toNat).getD i 0) ∧
        (∀ a, (a < key ∨ key + m.pkt.size ≤ a) → t.byte a = s.byte a) ∧ Posted s t fun r => r.kind = .ack ∧ r.dcube = m.pkt.scube) ∧
    (∀ m s1 key v status ws, s.builtin core 2 = some (m, s1) → s1.remoteKey m.pkt true = .ok key → s.uncorrectable key = false → m.pkt.scube ≠ s.cubeNum →
      m.pkt.origin = none → let len := if m.pkt.opcode < 10 then m.pkt.size else 8
      atomicAnswer m.pkt.opcode len (leVal (s.bytes key len)) m.pkt.payload = (some v, status, ws) →
      ∃ t, exec .remoteAtomic s = .next t ∧ (∀ i, i < len → t.byte (key + i) = (leBytes len v).getD i 0) ∧ (∀ a, (a < key ∨ key + len ≤ a) → t.byte a = s.byte a) ∧
        Posted s t fun r => r.kind = .response ∧ r.dcube = m.pkt.scube ∧ r.payload = flitWords (m.pkt.tag :: ws)) ∧
    (∀ m s1 key, s.builtin core 5 = some (m, s1) → s1.localOf m.pkt.reply.toNat = some key →
      ∃ t, exec .responseDelivery s = .next t ∧ t.bytes key 8 = leBytes 8 (wordAt m.pkt.payload 0).toNat ∧ t.bytes (key + 8) 8 = leBytes 8 (wordAt m.pkt.payload 1).toNat ∧
        (isScratchKey key = true → t.isFull key = true)) ∧
    (∀ p, s.inner[n]? = some p → p.kind = .ack → s.overtakes n p = false → ∃ t, exec .remoteAcknowledgement s = .next t ∧ t.inner = s.inner.eraseIdx n ∧
      ∀ party key, partyOf p.dunit p.wid = some party → workUnit s.unit party p.wid = some key → s.isOut p.ctx = false →
        t.unit key = { (s.unit key).lowerCtr (ackCounter p) with pts := (t.unit key).pts }) ∧
    (∀ k slot c r e, let ctx := s.inp.ctx; let i := s.inp.slot
      s.skein ctx n = some k → firstParked (s.parked ctx fun p => decide (p = .bobbin n i)) = some (c, slot) → (s.ctx ctx).state ≠ .out → k.ready i = true →
      (k.stage i).bobbin.head? = some r → Tab.read none (s.core c).slots slot = some e →
      ∃ t e1, exec .skeinRecordDelivery s = .next t ∧ Tab.read none (t.core c).slots slot = some e1 ∧ e1.park = .runnable ∧
        (i ≠ 16 → e1.held = some r.visited ∧ e1.worker = some ⟨n, i⟩) ∧ ∃ k1, t.skein ctx n = some k1 ∧ k1 = k.setStage i (k.stage i).pop)

/-- EVENT_MESSAGE, EVENT_POLICY_REPLY, TLB_MISS_WALK, EVENT_REPLY, HOVERRUN, PLYPOOL_TIMEOUT and PLYPOOL_NOTE (R31, R87, R91, R138, R207, R246, R316): the message reaches the
service core, whose firmware answers by the context's policy, an XMISS by the walk's entry; the reply retries, skips or terminates. It rests on the model's own readings and choices in log entries 45, 46, 65 and 85
(an XMISS goes to the service core whose shard its walk begins in). -/
def Obligations.EventSteps : Prop :=
  ∀ (s : State), let key := unitKey s.inp.core s.inp.slot; let u := s.unit key; let c := s.inp.part
    (∀ e, u.event = some e → u.st = .stopped → u.posted = false → (s.cluster (clusterOf key)).svc.length < 256 → (e.code ≠ .xmiss → e.code ≠ .plypool → (s.ctx e.ctx).policy e.code = 3 → (s.ctx e.ctx).hevt.length < 64) →
      ∃ t, exec .eventMessage s = .next t ∧ (t.cluster (clusterOf key)).svc = (s.cluster (clusterOf key)).svc ++ [e] ∧ t.unit key = { u with posted := true }) ∧
    (∀ e rest, s.plat.boot ≠ .failed → takeEvent (fun e => e.note || decide (e.code ≠ .xmiss)) (s.cluster c).svc = some (e, rest) → e.gen = (s.ctx e.ctx).gen → e.code ≠ .plypool → e.note = false →
      let policy := (s.ctx e.ctx).policy e.code
      (policy < 3 → ∃ t, exec .eventPolicyReply s = .next t ∧ (t.cluster c).svc = rest ∧
        Posted s t fun p => p.kind = .builtin ∧ p.hcls = 8 ∧ p.dunit = e.unit ∧ wordAt p.payload 0 = replyWord e (2 - policy) false) ∧
      (policy = 3 → (s.ctx e.ctx).hevt.length < 64 → ∃ t, exec .eventPolicyReply s = .next t ∧ (t.cluster c).svc = rest ∧ (t.ctx e.ctx).hevt = (s.ctx e.ctx).hevt ++ [e]) ∧
      (policy = 3 → 64 ≤ (s.ctx e.ctx).hevt.length → s.isOut e.ctx = false → (s.unit e.party).event = some e → ∃ t, exec .eventPolicyReply s = .next t ∧
        (t.cluster c).svc = rest ∧ t.unit e.party = { s.unit e.party with posted := false } ∧ (t.ctx e.ctx).hevt = (s.ctx e.ctx).hevt)) ∧
    (∀ e rest, s.plat.boot ≠ .failed → takeEvent (fun e => !e.note && decide (e.code = .xmiss)) (s.cluster c).svc = some (e, rest) → e.gen = (s.ctx e.ctx).gen → (s.ctx e.ctx).shard e.addr ≠ c →
      ∃ t, exec .tlbMissWalk s = .next t ∧ (t.cluster c).svc = rest ∧
        (t.cluster ((s.ctx e.ctx).shard e.addr)).svc = (s.cluster ((s.ctx e.ctx).shard e.addr)).svc ++ [e]) ∧
    (∀ e rest p, s.plat.boot ≠ .failed → takeEvent (fun e => !e.note && decide (e.code = .xmiss)) (s.cluster c).svc = some (e, rest) → e.gen = (s.ctx e.ctx).gen → (s.ctx e.ctx).shard e.addr = c →
      (s.setCluster c { s.cluster c with svc := rest }).walk e.ctx e.addr = some p →
      ∃ t, exec .tlbMissWalk s = .next t ∧ Tab.read none (t.core (coreOf e.party)).tlb (s.inp.index % 64) = some p ∧
        Posted s t fun q => q.hcls = 8 ∧ q.dunit = e.unit ∧ wordAt q.payload 0 = replyWord e 0 false) ∧
    (∀ p rest k e, let w := (wordAt p.payload 0).toNat; let v := s.unit k
      takePacket (fun p => decide (p.kind = .builtin) && decide (p.hcls = 8) && (match unitKeyOf p.dunit with
        | some x => !isService x && decide (coreOf x = s.inp.core)
        | none => false)) s.inner = some (p, rest) →
      replyKey p.dunit (wordAt p.payload 0) = some k → isSpindle k = false → (s.ctx p.ctx).state ≠ .out → s.inPartition p.ctx (coreOf k) = true → v.st = .stopped → v.event = some e →
      v.haltReq = false → w / 2 ^ 24 % 2 ^ 8 = (s.ctx p.ctx).gen.toNat → w / 2 ^ 16 % 2 ^ 8 = e.code.num →
      (w % 4 = 0 → ∃ t, exec .eventReply s = .next t ∧ t.inner = rest ∧ (t.unit k).st = .run ∧ (t.unit k).event = none ∧ (t.unit k).pc = v.pc) ∧
      (w % 4 = 1 → w / 4 % 2 = 0 → v.irLen ≠ 0 → ∃ t, exec .eventReply s = .next t ∧ t.inner = rest ∧ (t.unit k).st = .run ∧
        (t.unit k).pc = pcValue k (v.pc + BitVec.ofNat 64 v.irLen)) ∧
      (w % 4 = 2 → isMsgStrand k = false → ∃ t, exec .eventReply s = .next t ∧ atRest (t.unit k))) ∧
    (let z := unitKey s.inp.core 0; (s.unit z).st = .run → (s.unit z).halted = false → (s.unit z).remote = none → (s.unit z).vec = none → s.overBudget z = true →
      ∃ t, exec .hoverrun s = .next t ∧ UnitStops s t z .hoverrun 0) ∧
    (∀ va lane since till, u.hold = some ⟨.plyPool va lane, since, till⟩ → u.st = .run → u.halted = false → 4096 ≤ s.cycle - since →
      ∃ t, exec .plypoolTimeout s = .next t ∧ UnitStops s t key .plypool va) ∧
    (∀ o since, s.inp.flag = false → s.ops[s.inp.index]? = some o → o.stuck = some since → 4096 ≤ s.cycle - since →
      ∃ t e, exec .plypoolNote s = .next t ∧ (t.cluster (clusterOf o.party)).svc = (s.cluster (clusterOf o.party)).svc ++ [e] ∧ e.code = .plypool ∧ e.note = true ∧ e.ctx = o.ctx)

/-! # Steps of the machine: units and engines -/

/-- LOAD_RETURN, STORE_PERFORMED, LOCK_REMOTE_RETRY, IDLE_WAIT_EXPIRY, LEASE_EXPIRY, SPINDLE_GO, SPINDLE_HALT and SPINDLE_IMAGE_LOAD (R44, R51, R117, R122, R133, R191,
R264). It rests on the model's own readings and choices in log entry 34. -/
def Obligations.UnitSteps : Prop :=
  ∀ (s : State), let key := unitKey s.inp.core s.inp.slot; let u := s.unit key; let z := unitKey s.inp.core (if s.inp.flag then 9 else 8); let c := s.cluster s.inp.part
    (∀ p rest, s.answerFor key = none → u.pend = p :: rest → (p.dest = .none ∨ ∀ q ∈ rest, q.dest ≠ p.dest) → p.dest ≠ .x 0 → ∃ t, exec .loadReturn s = .next t ∧ { t with units := s.units } = s ∧
      (t.unit key).loads = u.loads - 1 ∧ (t.unit key).pend = rest ∧ (∀ r, (t.unit key).readX r = u.readX r) ∧ (∀ r, (t.unit key).readV r = u.readV r) ∧
      ∀ r, (t.unit key).readTm r = u.readTm r) ∧
    (∀ o w, s.ops[s.inp.index]? = some o → o.kind = .store → o.ctr = .stores → s.unackedOf o.ord = false → s.isOut o.ctx = false → workUnit s.unit o.party o.wid = some w →
      ∃ t, exec .storePerformed s = .next t ∧ t.ops = s.ops.eraseIdx s.inp.index ∧ t.mem = s.mem ∧ (t.unit w).stores = (s.unit w).stores - 1) ∧
    (∀ w l, u.wait = some w → u.st = .blocked → u.halted = false → (w.kind = .rlk ∨ w.kind = .wlk) → 256 ≤ s.cycle - u.lockTried →
      s.resolve (coreOf key) (s.ctxOf key) w.addr .write u.ply = .ok l → l.cube ≠ s.cubeNum →
      ∃ t, exec .lockRemoteRetry s = .next t ∧ t = s.setUnit key { u with st := .run, lockTried := s.cycle }) ∧
    (∀ since till, u.hold = some ⟨.idle, since, till⟩ → till ≤ s.cycle → ∃ t, exec .idleWaitExpiry s = .next t ∧ t = s.setUnit key { u with hold := none }) ∧
    (∀ h w, c.holder = some h → 16384 ≤ s.cycle - c.leaseSince → w < 8 → c.waiting = [w] → s.tileWaiting (s.inp.part * 8 + h) = false →
      ∃ t, exec .leaseExpiry s = .next t ∧ (t.cluster s.inp.part).holder = some w ∧ (t.cluster s.inp.part).waiting = [] ∧ (t.cluster s.inp.part).cmds = 0) ∧
    ((s.unit z).busy = false → s.ctxOf z ≠ 16 → ∃ t, exec .spindleGo s = .next t ∧ (t.unit z).busy = true ∧ (t.unit z).st = .run ∧
      (t.unit z).pc = BitVec.ofNat 64 ((s.unit z).start.toNat * 2) ∧ (∀ r, (t.unit z).readX r = 0) ∧ (t.unit z).loads = 0 ∧ (t.unit z).stores = 0) ∧
    ((s.unit z).haltReq = true → (s.unit z).event = none → ∃ t, exec .spindleHalt s = .next t ∧ (t.unit z).busy = false ∧ (t.unit z).st = .idle ∧ (t.unit z).haltReq = false) ∧
    (let v := s.inp.word0.toNat; v % 4096 = 0 → v / 2 ^ 60 = 15 → v / 2 ^ 56 % 16 = 0 → v / 2 ^ 20 % 256 = 0 → v / 2 ^ 36 % 2 ^ 20 = s.cubeNum → v / 2 ^ 28 % 256 = s.inp.core →
      ∃ t, exec .spindleImageLoad s = .next t ∧ (∀ j, j < 4096 → Tab.read 0 (t.unit z).imem j = t.byte (scratchKey s.inp.core (v % 2 ^ 20) + j)) ∧
        ((s.unit z).busy = false → t.mem = s.mem) ∧ ((s.unit z).busy = true → (s.unit z).event = none → (t.unit z).busy = false ∧ (t.unit z).st = .idle) ∧
        ((s.unit z).busy = true → (s.unit z).event ≠ none → (t.unit z).haltReq = true ∧ t.mem = s.mem))

/-- TLD_COMPLETE, TST_COMPLETE, CPY_COMPLETE, GATH_COMPLETE, PLYRET_C_LINE_WRITE, PLYRET_COMPLETE and REBASE (R141, R203, R204, R207 to R209, R221): the tile takes the
bytes that were read; a transfer without lines left ends, and one of a single piece copies its bytes; a commit writes the marked bytes of its cell; the tag is
free once nothing of it is left. It rests on the model's own readings and choices in log entries 44 and 48. -/
def Obligations.TransferSteps : Prop :=
  ∀ (s : State), let n := s.inp.index
    (∀ (o : Op) tile, s.ops[n]? = some o → o.kind = .tld tile → o.reads = [] → let c := clusterOf o.party; let w := (s.cluster c).tcfgOf tile
      ∃ t, exec .tldComplete s = .next t ∧ t.ops = s.ops.eraseIdx n ∧ (t.cluster c).stateOf tile = .ready ∧
        ∀ j, j < elementPlane w + headerPlane w → Tab.read 0 (t.cluster c).tiles (tile.val * 65536 + j) = (Tab.read none o.buf j).getD 0) ∧
    (∀ (o : Op) tile f, s.ops[n]? = some o → o.kind = .tst tile f → o.writes = [] → s.unackedOf o.ord = false →
      ∃ t, exec .tstComplete s = .next t ∧ t.ops = s.ops.eraseIdx n ∧ (t.cluster (clusterOf o.party)).stateOf tile = if f then .empty else .ready) ∧
    (∀ i (o : Op) key, (i = .cpyComplete ∧ o.kind = .cpy ∨ i = .gathComplete ∧ o.kind = .gath) → s.ops[n]? = some o → s.unackedOf o.ord = false → s.isOut o.ctx = false →
      workUnit s.unit o.party o.wid = some key → o.ctr = .copies →
      (o.reads = [] → o.writes = [] → ∃ t, exec i s = .next t ∧ t.ops = s.ops.eraseIdx n ∧ (t.unit key).copies = (s.unit key).copies - 1 ∧
        ∀ d, o.done = some d → t.bytes d 8 = leBytes 8 (o.status % 2 ^ 64)) ∧
      (∀ src dst len, o.reads = [[⟨.mem src o.ctx 0, 0, len, .none, false, 0⟩]] → o.writes = [[⟨.mem dst o.ctx 0, 0, len, .none, false, 0⟩]] → o.buf = [] → o.pool = [] → o.done = none →
        0 < len → s.uncorrectable src = false → s.copiedAway src = false → s.copiedAway dst = false → ∃ t, exec i s = .next t ∧ t.ops = s.ops.eraseIdx n ∧ (∀ j, j < len → t.byte (dst + j) = s.byte (src + j)) ∧
          ∀ a, (a < dst ∨ dst + len ≤ a) → t.byte a = s.byte a)) ∧
    (∀ (o : Op) tag ck (cell : Machine.Cell), s.ops[n]? = some o → o.kind = .plyret tag true → (s.cellsOf o.ctx tag)[s.inp.index2]? = some ck →
      Tab.read none s.cells ck = some cell → let line := ck % 2 ^ 40 * 64
      ∃ t, exec .plyretCLineWrite s = .next t ∧ Tab.read none t.cells ck = none ∧
        (∀ j, j < 64 → t.byte (line + j) = if cell.mask.getLsbD j then (lineBytes cell.data).getD j 0 else s.byte (line + j)) ∧
        ∀ a, (a < line ∨ line + 64 ≤ a) → t.byte a = s.byte a) ∧
    (∀ (o : Op) tag commit, s.ops[n]? = some o → o.kind = .plyret tag commit →
      (∃ p ∈ s.ops.take n, p.party = o.party ∧ p.ctx = o.ctx ∧ ∃ g c, p.kind = .plyret g c) → exec .plyretComplete s = .next s) ∧
    (∀ (o : Op) tag commit, s.ops[n]? = some o → o.kind = .plyret tag commit → (commit = true → s.cellsOf o.ctx tag = []) →
      (∀ p ∈ s.ops.take n, p.party = o.party → p.ctx = o.ctx → ∀ g c, p.kind ≠ .plyret g c) → ∃ t, exec .plyretComplete s = .next t ∧ t.ops = s.ops.eraseIdx n ∧ (s.isOut o.ctx = false → Tab.read none (t.ctx o.ctx).tags tag = none) ∧
        ∀ ck ∈ s.cellsOf o.ctx tag, Tab.read none t.cells ck = none) ∧
    (2 ^ 47 ≤ s.topStamp → let b := s.topStamp - 2 ^ 44
      ∃ t, exec .rebase s = .next t ∧ t.mem = s.mem ∧ t.ops = s.ops.map (fun o => { o with pts := o.pts - b }) ∧
        ∀ d, d < 4 → (t.die d).rebases = ((s.die d).rebases + 1) % 2 ^ 32)

/-- ARRAY_COMMAND_COMPLETE (R194, R198, R199): a command with no earlier one of its core before it on its tiles or accumulators takes place and leaves; a product puts into
every element its blocks, one after the other, each added exactly and rounded once, and leaves every other slot; ACVT puts into every element of the tile its accumulator element rounded by R64 to the tile's format (saturated
where SAT is set and it overflows, a NaN canonical, an infinity kept) and leaves or clears the accumulator; AZERO and TZERO clear. -/
def Obligations.ArraySteps : Prop :=
  ∀ (s : State) (o : Op) (cmd : ArrayCmd), s.ops[s.inp.index]? = some o → o.kind = .array cmd → s.arrayBehind s.inp.index (coreOf o.party) cmd = false →
    let n := clusterOf o.party; let k := s.cluster n
    ∃ t, exec .arrayCommandComplete s = .next t ∧ t.ops = s.ops.eraseIdx s.inp.index ∧ (∀ c, c ≠ n → t.cluster c = s.cluster c) ∧
      let product (f64 z sat : Bool) (c : Fin 4) (rows cols : Nat) (blocks : Nat → Nat → List (Option Machine.Num)) : Prop :=
        (∀ i j, i < rows → j < cols → Tab.read 0 (t.cluster n).acc (accKey c i j) = BitVec.ofNat 64
          ((blocks i j).foldl (fun q e => (accumulate (accFmt f64) sat q e).1) (if z then 0 else accRead f64 (Tab.read 0 k.acc (accKey c i j))))) ∧
        (∀ x, (∀ i j, i < rows → j < cols → x ≠ accKey c i j) → Tab.read 0 (t.cluster n).acc x = Tab.read 0 k.acc x) ∧ (t.cluster n).tiles = k.tiles
      match cmd with
      | .mma fmt z c a b sat => product (decide (fmt = 2)) z sat c (tcRows (k.tcfgOf a)) (tcRows (k.tcfgOf b)) (mmaBlocks fmt.val (k.tileView a) (k.tileView b))
      | .mms q8 z p c a b sat => product false z sat c (tcRows (k.tcfgOf a)) (tcRows (k.tcfgOf b)) (mmsBlocks q8 p (k.tileView a) (k.tileView b))
      | .acvt tile c off mode clr sat f64 => let w := k.tcfgOf tile; let g := fmtOfTile (tcFmt w)
          let value (i j : Nat) : Nat := match (accFmt f64).unpack (accRead f64 (Tab.read 0 k.acc (accKey c (off + i) j))) with
            | .nan _ => g.qnan
            | .inf neg => g.infBits neg
            | .fin neg m e => let q := g.round (acvtRound mode) neg m e
                if sat = true ∧ q.2.getLsbD 2 = true then g.maxBits neg else q.1
          (t.cluster n).stateOf tile = .ready ∧
          (∀ i j b, i < tcRows w → j < tcCols w → b < g.width / 8 →
            Tab.read 0 (t.cluster n).tiles (tile.val * 65536 + (i * tcCols w + j) * (g.width / 8) + b) = (leBytes (g.width / 8) (value i j)).getD b 0) ∧
          (∀ x, (x < tile.val * 65536 ∨ tile.val * 65536 + tcRows w * tcCols w * (g.width / 8) ≤ x) → Tab.read 0 (t.cluster n).tiles x = Tab.read 0 k.tiles x) ∧
          (clr = false → (t.cluster n).acc = k.acc) ∧
          (clr = true → (∀ i j, i < tcRows w → j < tcCols w → Tab.read 0 (t.cluster n).acc (accKey c (off + i) j) = 0) ∧
            ∀ x, (∀ i j, i < tcRows w → j < tcCols w → x ≠ accKey c (off + i) j) → Tab.read 0 (t.cluster n).acc x = Tab.read 0 k.acc x)
      | .azero c => (∀ i j, i < 256 → j < 256 → Tab.read 0 (t.cluster n).acc (accKey c i j) = 0) ∧ (t.cluster n).tiles = k.tiles
      | .tzero tile => (t.cluster n).stateOf tile = .ready ∧ (∀ off, off < 65536 → Tab.read 0 (t.cluster n).tiles (tile.val * 65536 + off) = 0) ∧ (t.cluster n).acc = k.acc

/-- COLL_COMPLETE, REDUCE_CHUNK, MULTICAST_CHUNK, CHUNK_RESEND and COLLTMO (R210, R300, R302 to R304): a child's chunk is taken in; with every child's, the sum in the
fixed order is formed; a multicast chunk is taken in at a leaf; the routers' report completes a chunk, or ends a collective whose members disagree with status 5; an unanswered chunk goes up again;
past its time a member ends with status 1. It rests on the model's own readings and choices in log entries 23 and 92. -/
def Obligations.CollectiveSteps : Prop :=
  ∀ (s : State) (o : Op) (c : Coll), let n := s.inp.index; let i := s.inp.index2; let p := c.place s.cubeNum; let kids := (c.children p).map c.at
    (s.collLive n = some (o, c) → c.inWindow s.cubeNum i = true → c.op = 1 ∨ c.op = 2 →
      (∀ k rest, s.inp.flag = false → takeChunk o c .reduce i s.inner = some (k, rest) → kids.contains k.scube = true → k.plen ≠ 0 → i < c.chunks → k.plen = (c.chunkLen i + 31) / 32 →
        let j := kids.findIdx (· == k.scube)
        c.part j i = none → ∃ t, exec .reduceChunk s = .next t ∧
          t = ({ s with inner := rest } : State).setOp n ({ o with conf := o.conf || k.conf }.withColl (c.setPart j i ((bytesOfWords k.payload).take (c.chunkLen i))))) ∧
      (∀ parts own, s.inp.flag = false → takeChunk o c .reduce i s.inner = none → i < c.chunks → c.part formedPart i = none → c.fromChildren p i = some parts → o.reads = [] → c.op = 2 → c.parent p = none →
        bufGet o.buf (4096 * i) (c.chunkLen i) = some own → ∃ t o1 c1, exec .reduceChunk s = .next t ∧ t.ops[n]? = some o1 ∧ o1.kind = .coll c1 ∧
          c1.part formedPart i = some (parts.foldl (sumChunks c.format) (if c.count = 1 then canonChunk c.format own else own)))) ∧
    (∀ words, s.collLive n = some (o, c) → s.inp.flag = true → s.inp.words = words →
      (words ≠ c.agreed → ∃ t, exec .reduceChunk s = .next t ∧ t = s.setOp n (o.fail 5)) ∧
      (words = c.agreed → i < c.chunks → c.hasPart s.cubeNum i = true → ∃ t, exec .reduceChunk s = .next t ∧ t = s.setOp n (o.withColl (c.setPart donePart i [])))) ∧
    (∀ k rest, s.collLive n = some (o, c) → c.inWindow s.cubeNum i = true → (c.op = 0 ∨ c.op = 2) → takeChunk o c .multicast i s.inner = some (k, rest) →
      (c.parent p).isSome → (k.scube = c.at 0 ∨ (c.parent p).map c.at = some k.scube) → c.part resultPart i = none → i < c.chunks → k.plen = (c.chunkLen i + 31) / 32 → c.children p = [] →
      ∃ t, exec .multicastChunk s = .next t ∧ t.inner = rest ∧ t.ops = s.ops.set n ({ o with conf := o.conf || k.conf }.withColl
        (c.setPart resultPart i ((bytesOfWords k.payload).take (c.chunkLen i))))) ∧
    (∀ t0 bs q, s.collLive n = some (o, c) → Tab.read none c.sent i = some t0 → c.part resultPart i = none → c.part formedPart i = some bs → c.parent p = some q → t0 + 100000 ≤ s.gtime →
      c.chunkDone s.cubeNum i = false → s.sendState (c.at q) o.engineUnit 3 ≠ .unreach →
      ∃ t c1, exec .chunkResend s = .next t ∧ Posted s t (fun x => x.kind = .reduce ∧ x.dcube = c.at q) ∧ t.ops[n]? = some (o.withColl c1) ∧
        c1 = { c with sent := Tab.write none c.sent i (some s.gtime) }) ∧
    (∀ key, s.collAt n = some (o, c) → s.isOut o.ctx = false → workUnit s.unit o.party o.wid = some key →
      (c.tmo ≠ 0 → c.tmo * 1800 ≤ s.cycle - o.since → o.status = 0 → ∃ t, exec .colltmo s = .next t ∧ t.ops = s.ops.eraseIdx n ∧
        ∀ d, o.done = some d → t.bytes d 8 = leBytes 8 (1 + c.cid.toNat * 2 ^ 8)) ∧
      (s.collStarted n o = true → o.cut = false → (∀ x ∈ c.members, s.isRemoved x = false) → c.op < 3 → c.chunks ≤ c.base s.cubeNum → o.writes = [] → s.unackedOf o.ord = false →
        ∃ t, exec .collComplete s = .next t ∧ t.ops = s.ops.eraseIdx n ∧ ∀ d, o.done = some d → t.bytes d 8 = leBytes 8 ((o.status + c.cid.toNat * 2 ^ 8) % 2 ^ 64)))

/-! # Steps of the machine: the bank and reduction engines, the stage router -/

/-- The bank-engine controllers and the reduction engine (R272 to R288): start or refusal of a command, waves, elements, alerts, refreshes, the stall's limit, the end. It rests on the model's own readings and choices in log entries 36, 72 and 92 (a lone NaN is made canonical). -/
def Obligations.NearBankSteps : Prop :=
  ∀ (s : State), let ctl := s.inp.part; let k := s.bank ctl
    (∀ c rest b, k.run = none → takeCommand (fun c => decide (s.formatOf c ≠ 2)) k.inbox = some (c, rest) → (s.setBank ctl { k with inbox := rest }).readCommand c 52 c.addr = some b →
      (blockOk b = false → s.inp.flag2 = false → ∃ t, exec .bankCommandStart s = .next t ∧ (t.bank ctl).run = none ∧ (t.bank ctl).inbox = rest) ∧
      (∀ d st pages, blockOk b = true → s.reportPlace c (bkDone b) 8 = some d → s.reportLines c (bkStat b) 2 = some st → bkRes b = 0 →
        s.bankPages ctl c b ((b.drop 24).take 8) (List.range 8) = .ok pages →
        ∃ t r, exec .bankCommandStart s = .next t ∧ (t.bank ctl).run = some r ∧ (t.bank ctl).inbox = rest ∧ r.cmd = c ∧ r.block = b ∧ r.state = .running ∧ r.pages = pages ∧
          let r0 : BankRun := { r with active := 0 }
          (∀ b, b < 16 → (r.active.getLsbD b = true ↔ b ∈ r0.wave k.pab)) ∧ r.waves = if r0.waiting = [] then 0 else 1)) ∧
    (∀ r, k.run = some r →
      (r.state = .running → r.active = 0 → r.waiting ≠ [] → ∃ t r1, exec .waveFormation s = .next t ∧ t = s.setBank ctl { k with run := some r1 } ∧
        r1 = { r with active := r1.active, waves := min 255 (r.waves + 1) } ∧ ∀ b, b < 16 → (r1.active.getLsbD b = true ↔ b ∈ r.wave k.pab)) ∧
      (r.state = .running → r.active ≠ 0 → s.inp.flag2 = false → r.midElement = false → r.alert = false → r.stallDue = false → ∃ t r1, exec .bankElement s = .next t ∧ (t.bank ctl).run = some r1 ∧ r1.state = .running ∧ r1.block = r.block ∧
        ∀ b, Tab.read 0 r1.next b = Tab.read 0 r.next b + (if b < 16 ∧ r.active.getLsbD b = true then 1 else 0)) ∧
      (r.alert = false → r.state = .running → r.midElement = false → ∃ t r1, exec .disturbanceAlert s = .next t ∧ (t.bank ctl).run = some r1 ∧ r1.state = .paused ∧ r1.alert = true ∧
        r1.alerts = min 255 (r.alerts + 1)) ∧
      (r.alert = true → r.state = .paused → ∃ t r1, exec .alertClear s = .next t ∧ (t.bank ctl).run = some r1 ∧ r1.alert = false ∧
        r1.state = if r.stallDue then .stalled else .running) ∧
      (r.state = .stalled → r.lstmo * 1000 ≤ s.gtime - r.stallSince → s.inp.flag2 = false → ∃ t e, exec .lstmoTimeout s = .next t ∧ (t.bank ctl).run = none ∧
        (t.cluster (r.cmd.core / 8)).svc = (s.cluster (r.cmd.core / 8)).svc ++ [e] ∧ e.code = .liststale ∧ e.addr = r.cmd.addr) ∧
      (r.state = .running → r.active = 0 → r.waiting = [] → (s.inp.flag2 = false → ∃ t, exec .bankCommandEnd s = .next t ∧ (t.bank ctl).run = none) ∧
        (s.inp.flag2 = true → ∃ t, exec .bankCommandEnd s = .next t ∧
          t = s.setRun ctl (some { r with state := .ended, status := if r.eccu then 4 else 0, active := 0, steps := [] })))) ∧
    (∀ c rest b, takeCommand (fun c => decide (s.formatOf c = 2)) k.inbox = some (c, rest) → (s.setBank ctl { k with inbox := rest }).readCommand c 2 c.addr = some b →
      (k.run = none → ∃ t, exec .refreshBlock s = .next t ∧ (t.bank ctl).inbox = rest ∧ (t.bank ctl).run = none) ∧
      (∀ r pages, k.run = some r → r.state = .stalled → r.alert = false → r.midElement = false → wordAt b 0 = 2 → wordAt b 2 = 0 → (∀ i, i < 5 → wordAt b (3 + i) = 0) → r.cmd.ctx = c.ctx →
        wordAt b 1 = bkStat r.block → s.bankPages ctl c r.block (b.drop 8) (List.range 8) = .ok pages →
        ∃ t r1, exec .refreshBlock s = .next t ∧ (t.bank ctl).inbox = rest ∧ (t.bank ctl).run = some r1 ∧ r1.state = .running ∧ r1.pages = pages)) ∧
    (∀ c rest b, let e := s.die ctl
      e.redRun = none → e.redInbox = c :: rest → (s.setDie ctl { e with redInbox := rest }).readCommand c 3 c.addr = some b →
      (redBlockOk b = false → ∃ t, exec .reductionCommandStart s = .next t ∧ (t.die ctl).redRun = none ∧ (t.die ctl).redInbox = rest) ∧
      (∀ d ptes, redBlockOk b = true → s.reportPlace c (wordAt b 3) 8 = some d → s.redAll ctl c b (redRanges b) = .ok ptes →
        ∃ t r, exec .reductionCommandStart s = .next t ∧ (t.die ctl).redRun = some r ∧ (t.die ctl).redInbox = rest ∧ r.cmd = c ∧ r.block = b ∧
          r.todo = List.range (rdLen b / 64) ∧ r.done = some d)) ∧
    (∀ r line places r1, (s.die ctl).redRun = some r → r.now = [] → r.lost = [] → s.inp.flag2 = false → rdNsrc r.block ≤ 16 → r.todo[s.inp.index2]? = some line → s.redPlaces ctl r line (redRanges r.block) = .ok (places, r1) →
      r.todo.eraseIdx s.inp.index2 ≠ [] → let srcs := places.take (rdNsrc r.block); let dst := places.getD (rdNsrc r.block) 0
      (∀ a ∈ srcs, s.uncorrectable a = false) → let bs := redLine (redFormat r.block) (srcs.map fun a => some (s.bytes a 64))
      ∃ t r2, exec .reductionLine s = .next t ∧ (t.die ctl).redRun = some r2 ∧ r2.todo = r.todo.eraseIdx s.inp.index2 ∧
        (∀ j, j < bs.length → t.byte (dst + j) = bs.getD j 0) ∧ ∀ a, (a < dst ∨ dst + bs.length ≤ a) → t.byte a = s.byte a)

/-- ROUTER_RELEASE, HOLD_SLOT_ROUTE and WORKER_REASSIGNMENT (R163, R257, R258, R262): the earliest release by its point of all that a die's router serves, one per cycle, leaves and counts in its stage's window, a
passed record is placed, or held where nothing has room; a held record moves once it has; workers are allotted every 4,096 cycles. It rests on the model's own readings and choices in log entries 54 and 103 (the random
bits that a hold slot's record draws, and its place in the occupancy). -/
def Obligations.RouterSteps : Prop :=
  ∀ (s : State), let ctx := s.inp.ctx; let sid := s.inp.index; let n := s.inp.index2; let s0 := s.settleRouters
    s.isOut ctx = false →
    (∀ k rel, s0.skein ctx sid = some k → s0.dueRelease sid k = some n → k.releases[n]? = some rel → let i := rel.record.stage.toNat
      let k1 := ({ k with releases := k.releases.eraseIdx n } : Skein).setStage i ((k.stage i).leave rel.pass (s.cycle - rel.since))
      (s.die (sid % 4)).routedAt ≠ some s.cycle ∧ (∀ q ∈ s0.routerSkeins (sid % 4), ∀ x ∈ q.releases, q.takes x = true → rel.point.getD 0 ≤ x.point.getD 0) ∧
      (rel.pass = true → (k.stage i).hold = none ∧
        ∃ t, exec .routerRelease s = .next t ∧ t = (s0.setDie (sid % 4) { s0.die (sid % 4) with routedAt := some s.cycle }).setSkein ctx sid (k1.flush.route rel.record)) ∧
      (rel.pass = false → ∃ t, exec .routerRelease s = .next t ∧ t.skein ctx sid = some k1 ∧ (t.die (sid % 4)).routedAt = some s.cycle)) ∧
    (∀ k r j k1, s.skein ctx sid = some k → (k.stage s.inp.slot).hold = some r → k.place (k.candidates s.inp.slot r.done) = some (j, k1) →
      ∃ t, exec .holdSlotRoute s = .next t ∧ t = s.setSkein ctx sid ((k1.setStage s.inp.slot { k1.stage s.inp.slot with hold := none }).insert j r)) ∧
    (∀ k, s0.skein ctx sid = some k → k.reassigned + 4096 ≤ s.cycle → s0.dueRelease sid k = none →
      (k.byOccupancy = [] → ∃ t, exec .workerReassignment s = .next t ∧ t = s.setSkein ctx sid { k with reassigned := k.reassigned + 4096 }) ∧
      (k.byOccupancy ≠ [] → ∃ t, exec .workerReassignment s = .next t ∧ t.units = s.units ∧
        t.skein ctx sid = some { k with reassigned := k.reassigned + 4096, allot := k.allotment ((List.range k.nstg).map (s.workersOf ctx sid)).sum }))

/-! # Steps of the machine: links and the fabric -/

/-- Links: flits, acknowledgements, training, keys and reconfiguration. It rests on the model's own readings and choices in log entries 24, 57 and 62.
FLIT_RECEIVE, NAK_RECEIVE, LINK_ACK_RECEIVE, LINK_ACK_INTERVAL, REPLAY_TIMEOUT, RETRAIN_TIMEOUT, TRAINING_COMPLETE and LINK_RESTART (R289, R291, R292, R305): a flit out
of turn or with a wrong CRC is rejected, the last of a packet hands it to the router; a NAK and a timeout replay; the third failure or 1 ms takes the link DOWN.
KEY_INSTALL, KEY_ROTATION_COMPLETE, RECONFIGURATION_WINDOW and DRAIN_MARKER (R306, R309, R318, R321): keys by direction and epoch, rotation at the next packet, the old
epoch's key gone with its last flit; the window's steps. -/
def Obligations.LinkWork : Prop :=
  (∀ (s : State), let n := s.inp.part; let l := s.link n; let f := s.inp.flit; let lsn : BitVec 12 := BitVec.ofNat 12 s.inp.index
     (l.state = .up ∨ l.state = .replay →
       (f.crc ≠ f.crcOf ∨ f.lsn ≠ l.rxLsn → ∃ t, exec .flitReceive s = .next t ∧ { t with links := s.links } = s ∧ (t.link n).nakked = true ∧ (t.link n).rxLsn = l.rxLsn ∧
         (t.link n).rxFlits = l.rxFlits) ∧
       (f.crc = f.crcOf → f.lsn = l.rxLsn → let ds := l.rxFlits ++ [f.data]
         (ds.length < headFlits (ds.headD 0) → ∃ t, exec .flitReceive s = .next t ∧ { t with links := s.links } = s ∧ (t.link n).rxLsn = l.rxLsn + 1 ∧ (t.link n).rxFlits = ds) ∧
         (∀ p, headFlits (ds.headD 0) ≤ ds.length → l.assemble n f.epoch ds = some (some p) →
           ∃ t, exec .flitReceive s = .next t ∧ t.net = s.net ++ [{ p with vc := f.vc, req := if p.kind = .drain then n + 1 else 0 }] ∧ (t.link n).rxLsn = l.rxLsn + 1 ∧
             (t.link n).rxFlits = [])) ∧
       (∀ rest, (lsn ≠ l.txLsn → fromLsn lsn l.buffer = some rest) → (lsn = l.txLsn → rest = []) → l.stuck < 15 → ∃ t, exec .nakReceive s = .next t ∧
         { t with links := s.links } = s ∧ (t.link n).buffer = rest ∧ (t.link n).state = .replay ∧ (t.link n).replays = min 65535 (l.replays + 1)) ∧
       (l.buffer ≠ [] → l.lastAck + 2000 ≤ s.gtime → l.stuck < 15 → ∃ t, exec .replayTimeout s = .next t ∧ (t.link n).state = .replay ∧ (t.link n).buffer = l.buffer ∧
         (t.link n).replays = min 65535 (l.replays + 1)) ∧
       (l.buffer ≠ [] → l.lastAck + 2000 ≤ s.gtime → 15 ≤ l.stuck → ∃ t, exec .replayTimeout s = .next t ∧ (t.link n).state = .retrain)) ∧
     (∀ g rest, fromLsn lsn l.buffer = some (g :: rest) → ∃ t, exec .linkAckReceive s = .next t ∧ { t with links := s.links } = s ∧ (t.link n).buffer = rest ∧ (t.link n).stuck = 0) ∧
     (l.unacked ≠ 0 → l.rxSince + 200 ≤ s.gtime → ∃ t, exec .linkAckInterval s = .next t ∧ (t.link n).unacked = 0 ∧ (t.link n).sideband = l.sideband ++ [(false, l.rxLsn - 1)]) ∧
     (l.state = .retrain → let failed := l.failed + s.inp.flag.toNat
       (3 ≤ failed ∨ l.retrainSince + 1000000 ≤ s.gtime → ∃ t, exec .retrainTimeout s = .next t ∧ (t.link n).state = .down ∧ (t.link n).buffer = [] ∧ (t.link n).ports = 0) ∧
       (failed < 3 → s.gtime < l.retrainSince + 1000000 → ∃ t, exec .retrainTimeout s = .next t ∧ t = s.setLink n { l with failed := failed })) ∧
     (1 ≤ s.inp.amount → s.inp.amount ≤ l.size →
       (l.state = .train → ∃ t, exec .trainingComplete s = .next t ∧ (t.link n).state = .up ∧ (t.link n).ports = s.inp.amount ∧ (t.link n).nbr = BitVec.ofNat 20 s.inp.index) ∧
       (l.state = .retrain → ∃ t, exec .trainingComplete s = .next t ∧ (t.link n).state = .replay ∧ (t.link n).ports = s.inp.amount ∧ (t.link n).buffer = l.buffer)) ∧
     (l.state = .down → n < 64 → s.portsTaken n (if bundleOk n s.inp.amount then s.inp.amount else l.size) = false → ∃ t, exec .linkRestart s = .next t ∧ (t.link n).state = .train ∧ (t.link n).txLsn = 0 ∧ (t.link n).rxLsn = 0 ∧ (t.link n).counterTx = 0 ∧
       (t.link n).counterRx = 0 ∧ (t.link n).buffer = [])) ∧
  (∀ (s : State), let n := s.inp.part; let l := s.link n; let k : BitVec 256 := s.inp.wide.setWidth 256; let e := s.inp.flag2
     (s.inp.flag = true → l.rxRotating = false → ∃ t, exec .keyInstall s = .next t ∧ { t with links := s.links } = s ∧ (t.link n).key true e = some k ∧
       (t.link n).epoch = l.epoch) ∧
     (s.inp.flag = true → l.key true false ≠ none → l.key true true ≠ none → ∃ t, exec .keyInstall s = .next t ∧ t = s) ∧
     (s.inp.flag = false → (e = l.epoch ∨ l.key false l.epoch = none ∨ l.rotating = false) → ∃ t, exec .keyInstall s = .next t ∧ (t.link n).key false e = some k ∧
       (t.link n).epoch = e ∧ ((t.link n).rotating = true ↔ l.rotating = true ∨ e ≠ l.epoch ∧ l.key false l.epoch ≠ none)) ∧
     (s.inp.flag = false → l.rotating = true → (∀ f ∈ l.buffer, f.epoch = l.epoch) → ∃ t, exec .keyRotationComplete s = .next t ∧ (t.link n).rotating = false ∧
       (t.link n).key false (!l.epoch) = none ∧ (t.link n).key false l.epoch = l.key false l.epoch) ∧
     (s.inp.flag = true → l.key true e ≠ none → ∃ t, exec .keyRotationComplete s = .next t ∧ (t.link n).key true (!e) = none ∧ (t.link n).key true e = l.key true e) ∧
     (s.inp.amount = 1 → s.plat.winOpen = none → ∃ t, exec .reconfigurationWindow s = .next t ∧ t = { s with plat := { s.plat with winOpen := some s.gtime } }) ∧
     (∀ b, s.plat.winOpen = some b →
       (s.inp.amount = 2 → l.state = .up → l.hold = false → l.buffer.length < 2048 → ∃ t, exec .reconfigurationWindow s = .next t ∧ (t.link n).hold = true ∧ (t.link n).markerSent = true ∧
         l.buffer.length < (t.link n).buffer.length) ∧
       (s.inp.amount = 4 → l.hold = true → l.buffer = [] → ∃ t, exec .reconfigurationWindow s = .next t ∧ (t.link n).state = .dark ∧ (t.link n).keys = []) ∧
       (s.inp.amount = 5 → l.state = .dark → ∃ t, exec .reconfigurationWindow s = .next t ∧ (t.link n).state = .train) ∧
       (s.inp.amount = 6 → ∃ t, exec .reconfigurationWindow s = .next t ∧ t.plat.winOpen = none ∧
         t.plat.windows = s.plat.windows ++ [(b, min s.gtime (b + 50000000))] ∧ ∀ m, (t.link m).hold = false)) ∧
     (∀ p rest, takePacket (fun p => decide (p.kind = .drain) && decide (p.req = n + 1)) s.net = some (p, rest) →
       ∃ t, exec .drainMarker s = .next t ∧ t.net = rest ∧ (t.link n).drained = true ∧ (t.link n).unacked = 0))

/-- ROUTER_FORWARD, PACKET_ARRIVAL, E2E_RETRY_TIMEOUT, E2E_UNREACH_TIMEOUT, RESYNC_RETRY, KEY_RELEASE_TIMEOUT, CUBE_REMOVAL and RESTRIPE (R293, R295, R297 to R299, R307, R308). It rests on the model's own readings and choices in
log entries 13 (the form of the acknowledgement of a re-striping), 18, 55, 56, 60, 62 (a packet leaves at once) and 114. -/
def Obligations.FabricSteps : Prop :=
  ∀ (s : State), let n := s.inp.index
    (∀ p, s.net[n]? = some p → p.dcube ≠ s.cubeNum → let gone : State := { s with net := s.net.eraseIdx n }; let e := s.route p.dcube
      (s.isRemoved p.dcube = true ∨ 128 < p.plen ∨ s.tooOld p = true ∨ routeValid e = false → ∃ t, exec .routerForward s = .next t ∧ t = gone.countCube .routerDiscard) ∧
      (s.isRemoved p.dcube = false → p.plen ≤ 128 → s.tooOld p = false → routeValid e = true → isAdaptive p.ocls = false → (s.link (routeFixed e)).state ≠ .down →
        (p.conf = true → (s.link (routeFixed e)).keyed = true) → (s.link (routeFixed e)).open p = true →
        ∃ t fs, exec .routerForward s = .next t ∧ t.net = s.net.eraseIdx n ∧ (t.link (routeFixed e)).buffer = (s.link (routeFixed e)).buffer ++ fs ∧ fs ≠ [] ∧
          (∀ f ∈ fs, f.vc = (p.vc || e.getLsbD 6)) ∧
          ∀ m, m ≠ routeFixed e → t.link m = s.link m)) ∧
    (∀ p, s.net[n]? = some p → p.dcube = s.cubeNum → p.kind ≠ .drain → p.plen ≤ 128 → s.isRemoved p.scube = false →
      (p.kind = .management → sequenced p.ocls = false → s.stale p = false → s.listed p = true → ∃ t, exec .packetArrival s = .next t ∧ t.net = s.net.eraseIdx n ∧ t.mgmt = s.mgmt ++ [p]) ∧
      (p.kind = .response → p.reply ≠ 0 → s.tooOld p = false → s.stale p = false → ∃ t, exec .packetArrival s = .next t ∧ t.net = s.net.eraseIdx n ∧
        t.inner = s.inner ++ [{ p with ord := s.fresh }]) ∧
      (p.kind = .response → p.reply ≠ 0 → s.tooOld p = false → s.stale p = true → ∃ t, exec .packetArrival s = .next t ∧ t.inner = s.inner ∧ Counted s t p.ctx .staleGeneration) ∧
      (p.kind = .reduce → sequenced p.ocls = false → s.stale p = false → s.listed p = false → ∃ t, exec .packetArrival s = .next t ∧ t.inner = s.inner ∧
        Counted s t p.ctx .discardedMessage) ∧
      (p.kind = .reduce → sequenced p.ocls = false → s.stale p = false → s.listed p = true → ∃ t, exec .packetArrival s = .next t ∧ t.net = s.net.eraseIdx n ∧ t.inner = s.inner ++ [p]) ∧
      (p.kind = .reduce → sequenced p.ocls = false → s.stale p = true → ∃ t, exec .packetArrival s = .next t ∧ t.inner = s.inner ∧ Counted s t p.ctx .staleGeneration)) ∧
    (∀ k u, Tab.read none s.srcKeys n = some k → k.unacked[s.inp.index2]? = some u →
      (k.resync = none → 12500 ≤ s.elapsed u.last → u.resent < 8 → ∃ t k1, exec .e2eRetryTimeout s = .next t ∧ t.net = s.net ++ [u.pkt] ∧ Tab.read none t.srcKeys n = some k1 ∧
        k1.unacked = k.unacked.set s.inp.index2 { u with last := s.gtime, resent := u.resent + 1 }) ∧
      (100000 ≤ s.elapsed u.first → ∃ t k1, exec .e2eUnreachTimeout s = .next t ∧ Tab.read none t.srcKeys n = some k1 ∧ k1.unacked = k.unacked.eraseIdx s.inp.index2 ∧
        k1.resync = some (k.resync.getD ⟨s.resyncPacket n k, s.gtime, s.gtime, 0⟩))) ∧
    (∀ k r, Tab.read none s.srcKeys n = some k → k.resync = some r →
      (100000 ≤ s.elapsed r.first → ∃ t p, exec .resyncRetry s = .next t ∧ t.net = s.net ++ [p] ∧ p.kind = .resync ∧ p.seq = k.next.toNat ∧
        Tab.read none t.srcKeys n = some { k with resync := some ⟨p, s.gtime, s.gtime, 0⟩ }) ∧
      (s.elapsed r.first < 100000 → 12500 ≤ s.elapsed r.last → r.resent < 8 → ∃ t, exec .resyncRetry s = .next t ∧ t.net = s.net ++ [r.pkt] ∧
        Tab.read none t.srcKeys n = some { k with resync := some { r with last := s.gtime, resent := r.resent + 1 } })) ∧
    (∀ k, Tab.read none s.dstKeys n = some k → k.held = [] → 1000000 ≤ s.gtime - k.last →
      ∃ t, exec .keyReleaseTimeout s = .next t ∧ t = { s with dstKeys := Tab.write none s.dstKeys n none }) ∧
    (let c := s.inp.part % 2 ^ 20; s.isRemoved c = false → s.removed.length < 4096 → ∃ t, exec .cubeRemoval s = .next t ∧ t.removed = s.removed ++ [c] ∧
      t.net = s.net.filter (fun p => !decide (p.dcube = c)) ∧ (∀ i a, Tab.read none t.amap i = some a → s.lists a c = true → a.rmv = true) ∧
      ∀ key, key / 2 ^ 15 = c → Tab.read none t.dstKeys key = none) ∧
    (∀ a, Tab.read none s.amap (n % 64) = some a →
      (s.inp.amount = 1 → a.fwd = false → ∃ t b, exec .restripe s = .next t ∧ Tab.read none t.amap (n % 64) = some b ∧ b.fwd = true ∧
        b.gen = a.gen + 1 ∧ b.olist = a.list ∧ b.on = a.n ∧ b.oglog = a.glog ∧ b.ogen = a.gen ∧ b.acked = false) ∧
      (s.inp.amount = 2 → a.fwd = true → a.acked = false → s.rangeBusy a a.since = false → ∃ t p, exec .restripe s = .next t ∧
        Tab.read none t.amap (n % 64) = some { a with acked := true } ∧ t.mgmt = s.mgmt ++ [p] ∧ wordAt p.payload 1 = BitVec.ofNat 64 a.gen.toNat) ∧
      (s.inp.amount = 3 → a.fwd = true → s.stripeUsed a s.inp.index2 = true → exec .restripe s = .next s) ∧
      (s.inp.amount = 3 → a.fwd = true → s.stripeUsed a s.inp.index2 = false → ∃ t, exec .restripe s = .next t ∧ Tab.read none t.amap (n % 64) = some { a with copying := a.copying ++ [s.inp.index2] }) ∧
      (s.inp.amount = 5 → a.fwd = true → ∃ t, exec .restripe s = .next t ∧
        Tab.read none t.amap (n % 64) = some { a with copying := a.copying.filter (· != s.inp.index2), moved := a.moved ++ [s.inp.index2] }) ∧
      (s.inp.amount = 6 → a.acked = true → ∃ t, exec .restripe s = .next t ∧ Tab.read none t.amap (n % 64) = some { a with fwd := false, copying := [], moved := [] }))

/-! # Steps of the machine: the platform -/

/-- BAR2_ACCESS, MSIX_UNMASK, BOOT_GO, ATTESTATION, LIFE_UPDATE, TRACE_DRAIN, TRACE_SAMPLE and POWER_ON (R118, R311, R317, R318, R321, R322). It rests on the model's own readings and choices in log entries 4, 12, 25 and 26. -/
def Obligations.PlatformSteps : Prop :=
  ∀ (s : State), let ctx := s.inp.ctx; let len := s.inp.amount; let off := s.inp.index; let v := off % 64; let fn := s.inp.part
    (1 ≤ len → len ≤ 64 → off + len ≤ 2 ^ 34 → let ps := hostPieces 9 off len
      let va (p : Nat × Nat) : Word := Tab.read 0 (s.ctx ctx).bar2 (p.1 / 2 ^ 28) + BitVec.ofNat 64 (p.1 % 2 ^ 28)
      let place (p : Nat × Nat) : Option Reach := s.mgmtPlace ctx (va p) s.inp.flag
      (s.hostPending ctx = true ∨ (∃ p ∈ ps, s.mgmtHeld ctx (va p) = true) → exec .bar2Access s = .next s) ∧
      (s.hostPending ctx = false → (∀ p ∈ ps, s.mgmtHeld ctx (va p) = false) →
      ((∃ p ∈ ps, place p = none) → ∃ t, exec .bar2Access s = .next t ∧ Counted s t ctx .bar2Miss ∧ t.mem = s.mem ∧
        (s.inp.flag = false → t.plat.hostRead = BitVec.ofNat 512 (2 ^ (8 * len) - 1))) ∧
      ((∀ p ∈ ps, ∃ key, place p = some (.here key)) → s.inp.flag = false → ∃ t, exec .bar2Access s = .next t ∧ t.mem = s.mem ∧
        t.plat.hostRead = BitVec.ofNat 512 (leVal (ps.flatMap fun p => match place p with
          | some (.here key) => s.bytes key p.2
          | _ => []))) ∧
      (off % 8 + len ≤ 8 → s.inp.flag = true →
        (∀ key, place (off, len) = some (.here key) → ∃ t, exec .bar2Access s = .next t ∧ (∀ i, i < len → t.byte (key + i) = (lineBytes s.inp.wide).getD i 0) ∧
          ∀ a, (a < key ∨ key + len ≤ a) → t.byte a = s.byte a) ∧
        (∀ cube gpa homing conf, place (off, len) = some (.far cube gpa homing conf) → ∃ t, exec .bar2Access s = .next t ∧ t.mem = s.mem ∧
          Posted s t fun q => q.kind = .builtin ∧ q.hcls = 1 ∧ q.dcube = cube ∧ q.conf = conf)))) ∧
    (fn ≤ 16 → ∃ t, exec .msixUnmask s = .next t ∧ (t.vector fn v).masked = false ∧ (t.vector fn v).addr = (s.vector fn v).addr ∧ (t.vector fn v).data = (s.vector fn v).data) ∧
    (s.plat.boot = .awaiting → ∃ t, exec .bootGo s = .next t ∧ t = { s with plat := { s.plat with boot := .verifying } }) ∧
    (s.plat.boot = .verifying → let e := bootCheck s.plat.minVersion s.plat.bootwin
      ∃ t, exec .bootGo s = .next t ∧ t.plat.boot = (if e = 0 then .running else .failed) ∧ t.plat.bfail = BitVec.ofNat 8 e ∧
        t.plat.image = (if e = 0 then s.plat.bootwin else s.plat.image) ∧
        t.plat.version = (if e = 0 then BitVec.ofNat 32 (leVal ((s.plat.bootwin.drop 4).take 4)) else s.plat.version)) ∧
    (∀ key, s.inp.word0.toNat % 65536 = 0 → s.localOf s.inp.word0.toNat = some key → ∃ t, exec .attestation s = .next t ∧ { t with mem := s.mem, bad := s.bad } = s ∧
      ∀ i, i < 3517 → t.byte (key + i) = (s.report (bytesOfWords s.inp.words)).getD i 0) ∧
    (s.inp.flag = false → ∃ t, exec .lifeUpdate s = .next t ∧ t.plat.lifeg = s.plat.lifeg ∧
      Tab.read 0xFFFFFFFF t.plat.lifed (fn % 4) = BitVec.ofNat 32 (s.inp.words.foldl (fun m w => min m (w.toNat % 2 ^ 32)) len)) ∧
    (s.inp.flag = true → ∃ t, exec .lifeUpdate s = .next t ∧ Tab.read 0xFFFFFFFF t.plat.lifeg (fn % 16) = BitVec.ofNat 32 len ∧ t.plat.lifed = s.plat.lifed) ∧
    (∃ t, exec .traceDrain s = .next t ∧ (t.cluster fn).trace = [] ∧ t.units = s.units ∧ ((s.cluster fn).ctx = none → t.mem = s.mem)) ∧
    (∀ key pc w0 rest, (s.core s.inp.core).sampleDue = (key, pc, w0) :: rest → (s.unit key).remote = none → (s.ctx (s.ctxOf key)).trctl.getLsbD 0 = true →
      (s.cluster (clusterOf key)).trace.length < 2048 → ∃ t r, exec .traceSample s = .next t ∧ (t.core s.inp.core).sampleDue = rest ∧
        (t.cluster (clusterOf key)).trace = (s.cluster (clusterOf key)).trace ++ [r] ∧ r.w0 = w0 ∧ r.w1 = BitVec.ofNat 64 s.gtime ∧ r.w2 = pc) ∧
    (∃ t, exec .powerOn s = .next t ∧ t.plat.boot = .awaiting ∧ t.cycle = 0 ∧ t.units = [] ∧ t.ctxs = [] ∧ t.clusters = [] ∧ t.mem = [] ∧ t.links = [] ∧
      t.plat.minVersion = s.plat.minVersion)

/-- POWER_WINDOW, THERMAL_WARN, THERMAL_STOP, THERMAL_RESUME, CLUSTER_GATE and CLUSTER_UNGATE (R319, R320, R324, R325): above the target the rates fall, below it for eight
windows they rise; a sensor above TCRIT stops the die's contexts, 100 ms at or below TWARN resume them; a cluster without a context, or idle for 100 µs, is gated. It rests on the model's own readings and choices in log entry 61. -/
def Obligations.PowerSteps : Prop :=
  ∀ (s : State), let w := s.inp.amount; let p := s.plat; let target := min 2800 p.plim.toNat - p.guard.toNat; let c := s.inp.part % 32; let d := s.inp.part % 4
    (target < w → (∀ x, x < 4 → (s.die x).mir ≤ 4) → ∃ t, exec .powerWindow s = .next t ∧ t.plat.pwr = BitVec.ofNat 12 w ∧ t.plat.lowWindows = 0 ∧
      ∀ b, b < 256 → (t.bank b).pab = max ((s.bank b).pab / 2) 1) ∧
    (target < w → (∃ x, x < 4 ∧ 4 < (s.die x).mir) → ∃ t, exec .powerWindow s = .next t ∧ ∀ x, x < 4 → (t.die x).mir = if 4 < (s.die x).mir then (s.die x).mir - 1 else (s.die x).mir) ∧
    (w + 60 < target → p.lowWindows < 7 → ∃ t, exec .powerWindow s = .next t ∧ t = { s with plat := { p with pwr := BitVec.ofNat 12 w, lowWindows := p.lowWindows + 1 } }) ∧
    (w + 60 < target → p.lowWindows = 7 → (∀ b, b < 256 → 16 ≤ (s.bank b).pab) → ∃ t, exec .powerWindow s = .next t ∧ t.plat.lowWindows = 0 ∧
      ∀ x, x < 4 → (t.die x).mir = min ((s.die x).mir + 1) 16) ∧
    (w ≤ target → target ≤ w + 60 → ∃ t, exec .powerWindow s = .next t ∧ t = { s with plat := { p with pwr := BitVec.ofNat 12 w, lowWindows := 0 } }) ∧
    (w ≤ p.twarn.toNat → w ≤ p.tcrit.toNat → ∃ t, exec .thermalWarn s = .next t ∧ t.banks = s.banks ∧ Tab.read 0 t.plat.temps c = w) ∧
    (p.twarn.toNat < w → (s.die (c / 8)).mir ≤ 4 → ∃ t, exec .thermalWarn s = .next t ∧ ∀ b, b < 64 → (t.bank (64 * (c / 8) + b)).pab = max ((s.bank (64 * (c / 8) + b)).pab / 2) 1) ∧
    (p.tcrit.toNat < w → ∃ t, exec .thermalStop s = .next t ∧ (t.die (c / 8)).tstop = true ∧ (t.die (c / 8)).coolSince = none ∧
      ∀ x, x < 16 → s.onDie x (c / 8) = true → (s.ctx x).state ≠ .out → (s.ctx x).stopped = false → (t.ctx x).stopped = true) ∧
    (∀ t0, (s.die d).coolSince = some t0 → (s.die d).tstop = true → t0 + 100000000 ≤ s.gtime → ∃ t, exec .thermalResume s = .next t ∧ (t.die d).tstop = false ∧ (t.die d).mir = 4 ∧
      ∀ x, x < 16 → (s.ctx x).thermal = BitVec.ofNat 4 (2 ^ d) → (s.ctx x).state ≠ .out → (t.ctx x).stopped = false) ∧
    ((s.cluster c).gated = false → ((s.cluster c).ctx = none ∨ s.clusterIdle c = true ∧ 180000 ≤ s.cycle - (s.cluster c).idleSince) →
      ∃ t, exec .clusterGate s = .next t ∧ (t.cluster c).gated = true ∧ (t.cluster c).trace = []) ∧
    ((s.cluster c).gated = true → (s.arrivalFor c = true ∨ s.inp.flag = true) → ∃ t, exec .clusterUngate s = .next t ∧ (t.cluster c).gated = false ∧ (t.cluster c).idleSince = s.cycle)

/-! # Reset and the invariant -/

/-- The cube right after power-on (R20, R24, R290, R317, R321): no context exists, every cluster is without one, links are DOWN, die management's registers hold the
values R321 states. It rests on the model's own readings and choices in log entry 3. -/
def Obligations.ResetValues : Prop :=
  let s := State.reset
  (∀ c, (s.ctx c).state = .free ∧ (s.ctx c).gen = 0 ∧ (s.ctx c).launch = none) ∧ (∀ c, (s.cluster c).ctx = none) ∧ (∀ l, (s.link l).state = .down) ∧
  s.plat.boot = .rom ∧ s.plat.plim = 2800 ∧ s.plat.guard = 40 ∧ s.plat.twarn = 95 ∧ s.plat.tcrit = 105 ∧ s.cycle = 0 ∧
  (∀ d, (s.die d).mir = 16 ∧ (s.die d).tstop = false) ∧ (∀ b, (s.bank b).pab = 16 ∧ (s.bank b).run = none) ∧
  ∀ c, (s.core c).poolSize = 1024 ∧ (s.core c).spillSize = 16 ∧ (s.core c).blktmo = 65536 ∧ (s.core c).hbudget = 200000

/-- Reset's memory is in the canonical form: it lists nothing, and every byte reads zero. It rests on the model's own readings and choices in log entry 4. -/
def Obligations.ResetMemoryCanonical : Prop := Memory.wf State.reset.mem = true ∧ ∀ a, State.reset.byte a = 0

/-- Every step keeps memory in its canonical form: addresses strictly rising, no entry equal to what an unlisted address reads as. It rests on the model's own readings and choices in log entry 4. -/
def Obligations.StepKeepsMemoryCanonical : Prop :=
  ∀ (s t : State), Memory.wf s.mem = true → step s = .next t → Memory.wf t.mem = true
end

