-- ==== Sys2Proof/Laws/Tab.lean ====
section
/-! SUPPORT. Laws of the sparse tables: a read after a write gives the value written, a write leaves every other key alone, and every
table operation keeps the canonical form. -/

namespace Sys2Proof.Machine

open Sys2Proof

variable {α : Type}

theorem tab_read_erase_same (d : α) (t : Tab α) (k : Nat) : Tab.read d (Tab.erase t k) k = d := by
  induction t with
  | nil => rfl
  | cons e t ih => simp only [Tab.erase]; split <;> simp_all [Tab.read]

theorem tab_read_erase_other (d : α) (t : Tab α) {k j : Nat} (h : j ≠ k) : Tab.read d (Tab.erase t k) j = Tab.read d t j := by
  induction t with
  | nil => rfl
  | cons e t ih =>
    simp only [Tab.erase]
    split
    · rw [ih]; simp only [Tab.read]; rw [if_neg]; omega
    · simp only [Tab.read, ih]

theorem tab_read_insert_same (d v : α) (t : Tab α) (k : Nat) (h : ∀ e ∈ t, e.1 ≠ k) : Tab.read d (Tab.insert k v t) k = v := by
  induction t with
  | nil => simp [Tab.insert, Tab.read]
  | cons e t ih =>
    have he : e.1 ≠ k := h e (by simp)
    simp only [Tab.insert]
    split
    · simp [Tab.read]
    · simp only [Tab.read, if_neg he]; exact ih fun x hx => h x (by simp [hx])

theorem tab_read_insert_other (d v : α) (t : Tab α) {k j : Nat} (h : j ≠ k) : Tab.read d (Tab.insert k v t) j = Tab.read d t j := by
  induction t with
  | nil => simp [Tab.insert, Tab.read, Ne.symm h]
  | cons e t ih =>
    simp only [Tab.insert]
    split
    · simp [Tab.read, Ne.symm h]
    · simp only [Tab.read, ih]

theorem tab_erase_keys (t : Tab α) (k : Nat) : ∀ e ∈ Tab.erase t k, e.1 ≠ k := by
  induction t with
  | nil => simp [Tab.erase]
  | cons e t ih =>
    simp only [Tab.erase]
    split
    · exact ih
    · intro x hx
      rcases List.mem_cons.1 hx with rfl | hx
      · assumption
      · exact ih x hx

/-- A read of the key just written. -/
@[simp] theorem tab_read_write_same [DecidableEq α] (d v : α) (t : Tab α) (k : Nat) : Tab.read d (Tab.write d t k v) k = v := by
  unfold Tab.write
  split
  · rename_i h; rw [tab_read_erase_same, h]
  · exact tab_read_insert_same d v _ k (tab_erase_keys t k)

/-- A read of another key. -/
theorem tab_read_write_other [DecidableEq α] (d v : α) (t : Tab α) {k j : Nat} (h : j ≠ k) :
    Tab.read d (Tab.write d t k v) j = Tab.read d t j := by
  unfold Tab.write
  split
  · exact tab_read_erase_other d t h
  · rw [tab_read_insert_other d v _ h, tab_read_erase_other d t h]

/-- Both cases of a read after a write. -/
theorem tab_read_write [DecidableEq α] (d v : α) (t : Tab α) (k j : Nat) :
    Tab.read d (Tab.write d t k v) j = if j = k then v else Tab.read d t j := by
  split
  · rename_i h; rw [h, tab_read_write_same]
  · rename_i h; exact tab_read_write_other d v t h

/-- A write under another default: the key written still reads as what was written where it is not that default. -/
theorem tab_read_write_ne [DecidableEq α] (d d' v : α) (t : Tab α) {k j : Nat} (h : j ≠ k) :
    Tab.read d (Tab.write d' t k v) j = Tab.read d t j := by
  unfold Tab.write
  split
  · exact tab_read_erase_other d t h
  · rw [tab_read_insert_other d v _ h, tab_read_erase_other d t h]

/-! ## The canonical form -/

theorem tab_wfFrom_le [DecidableEq α] (d : α) (t : Tab α) {a b : Nat} (h : a ≤ b) (hw : Tab.wfFrom d b t = true) : Tab.wfFrom d a t = true := by
  cases t with
  | nil => rfl
  | cons e t =>
    simp only [Tab.wfFrom, Bool.and_eq_true, decide_eq_true_eq] at hw ⊢
    exact ⟨⟨by omega, hw.1.2⟩, hw.2⟩

theorem tab_wfFrom_erase [DecidableEq α] (d : α) (k : Nat) : ∀ (t : Tab α) (a : Nat), Tab.wfFrom d a t = true → Tab.wfFrom d a (Tab.erase t k) = true
  | [], _, _ => rfl
  | e :: t, a, hw => by
    simp only [Tab.wfFrom, Bool.and_eq_true, decide_eq_true_eq] at hw
    simp only [Tab.erase]
    split
    · exact tab_wfFrom_erase d k t a (tab_wfFrom_le d t (by omega) hw.2)
    · simp only [Tab.wfFrom, Bool.and_eq_true, decide_eq_true_eq]
      exact ⟨hw.1, tab_wfFrom_erase d k t _ hw.2⟩

theorem tab_wfFrom_insert [DecidableEq α] (d v : α) (k : Nat) (hv : v ≠ d) :
    ∀ (t : Tab α) (a : Nat), a ≤ k → (∀ e ∈ t, e.1 ≠ k) → Tab.wfFrom d a t = true → Tab.wfFrom d a (Tab.insert k v t) = true
  | [], a, ha, _, _ => by simp [Tab.insert, Tab.wfFrom, ha, hv]
  | e :: t, a, ha, hk, hw => by
    have he : e.1 ≠ k := hk e (by simp)
    simp only [Tab.wfFrom, Bool.and_eq_true, decide_eq_true_eq] at hw
    simp only [Tab.insert]
    split
    · rename_i hlt
      simp only [Tab.wfFrom, Bool.and_eq_true, decide_eq_true_eq]
      exact ⟨⟨ha, by simp [hv]⟩, ⟨by omega, hw.1.2⟩, hw.2⟩
    · rename_i hlt
      simp only [Tab.wfFrom, Bool.and_eq_true, decide_eq_true_eq]
      exact ⟨hw.1, tab_wfFrom_insert d v k hv t _ (by omega) (fun x hx => hk x (by simp [hx])) hw.2⟩

/-- A write keeps the canonical form. -/
theorem tab_write_wf [DecidableEq α] (d v : α) (t : Tab α) (k : Nat) (hw : Tab.wf d t = true) : Tab.wf d (Tab.write d t k v) = true := by
  unfold Tab.write
  split
  · exact tab_wfFrom_erase d k t 0 hw
  · rename_i hv
    exact tab_wfFrom_insert d v k hv _ 0 (Nat.zero_le k) (tab_erase_keys t k) (tab_wfFrom_erase d k t 0 hw)

/-- A canonical table lists no key below its bound. -/
theorem tab_read_below [DecidableEq α] (d : α) : ∀ (t : Tab α) (a k : Nat), Tab.wfFrom d a t = true → k < a → Tab.read d t k = d
  | [], _, _, _, _ => rfl
  | e :: t, a, k, hw, hk => by
    simp only [Tab.wfFrom, Bool.and_eq_true, decide_eq_true_eq] at hw
    simp only [Tab.read]
    rw [if_neg (by omega)]
    exact tab_read_below d t (e.1 + 1) k hw.2 (by omega)

/-- Canonical tables that read alike are equal. -/
theorem tab_ext [DecidableEq α] (d : α) : ∀ (t t' : Tab α) (a : Nat), Tab.wfFrom d a t = true → Tab.wfFrom d a t' = true →
    (∀ k, Tab.read d t k = Tab.read d t' k) → t = t'
  | [], [], _, _, _, _ => rfl
  | [], e :: t', a, _, hw, h => by
    simp only [Tab.wfFrom, Bool.and_eq_true, decide_eq_true_eq, Bool.not_eq_true', decide_eq_false_iff_not] at hw
    have := h e.1
    simp [Tab.read] at this
    exact absurd this.symm hw.1.2
  | e :: t, [], a, hw, _, h => by
    simp only [Tab.wfFrom, Bool.and_eq_true, decide_eq_true_eq, Bool.not_eq_true', decide_eq_false_iff_not] at hw
    have := h e.1
    simp [Tab.read] at this
    exact absurd this hw.1.2
  | (k1, v1) :: t, (k2, v2) :: t', a, hw, hw', h => by
    simp only [Tab.wfFrom, Bool.and_eq_true, decide_eq_true_eq, Bool.not_eq_true', decide_eq_false_iff_not] at hw hw'
    have hk : k1 = k2 := by
      rcases Nat.lt_trichotomy k1 k2 with hlt | heq | hgt
      · have := h k1
        simp only [Tab.read, if_pos] at this
        rw [if_neg (by omega), tab_read_below d t' (k2 + 1) k1 hw'.2 (by omega)] at this
        exact absurd this hw.1.2
      · exact heq
      · have := h k2
        simp only [Tab.read, if_pos] at this
        rw [if_neg (by omega), tab_read_below d t (k1 + 1) k2 hw.2 (by omega)] at this
        exact absurd this.symm hw'.1.2
    subst hk
    have hv : v1 = v2 := by have := h k1; simpa [Tab.read] using this
    subst hv
    have ht : t = t' := tab_ext d t t' (k1 + 1) hw.2 hw'.2 fun k => by
      by_cases hkk : k1 = k
      · subst hkk
        rw [tab_read_below d t _ _ hw.2 (by omega), tab_read_below d t' _ _ hw'.2 (by omega)]
      · have := h k
        simpa [Tab.read, hkk] using this
    rw [ht]

end Sys2Proof.Machine
end

