-- ==== Sys2Proof/Laws/State.lean ====
section
/-! SUPPORT. Laws of the state: what each named update leaves alone, field by field, and what it gives back. -/

namespace Sys2Proof.Machine

open Sys2Proof

/-! ## setUnit -/

@[simp] theorem state_setUnit_cores (s : State) (k : Nat) (u : Strand) : (s.setUnit k u).cores = s.cores := rfl
@[simp] theorem state_setUnit_clusters (s : State) (k : Nat) (u : Strand) : (s.setUnit k u).clusters = s.clusters := rfl
@[simp] theorem state_setUnit_ctxs (s : State) (k : Nat) (u : Strand) : (s.setUnit k u).ctxs = s.ctxs := rfl
@[simp] theorem state_setUnit_dies (s : State) (k : Nat) (u : Strand) : (s.setUnit k u).dies = s.dies := rfl
@[simp] theorem state_setUnit_banks (s : State) (k : Nat) (u : Strand) : (s.setUnit k u).banks = s.banks := rfl
@[simp] theorem state_setUnit_links (s : State) (k : Nat) (u : Strand) : (s.setUnit k u).links = s.links := rfl
@[simp] theorem state_setUnit_mem (s : State) (k : Nat) (u : Strand) : (s.setUnit k u).mem = s.mem := rfl
@[simp] theorem state_setUnit_full (s : State) (k : Nat) (u : Strand) : (s.setUnit k u).full = s.full := rfl
@[simp] theorem state_setUnit_cells (s : State) (k : Nat) (u : Strand) : (s.setUnit k u).cells = s.cells := rfl
@[simp] theorem state_setUnit_bad (s : State) (k : Nat) (u : Strand) : (s.setUnit k u).bad = s.bad := rfl
@[simp] theorem state_setUnit_copies (s : State) (k : Nat) (u : Strand) : (s.setUnit k u).copies = s.copies := rfl
@[simp] theorem state_setUnit_stamps (s : State) (k : Nat) (u : Strand) : (s.setUnit k u).stamps = s.stamps := rfl
@[simp] theorem state_setUnit_ops (s : State) (k : Nat) (u : Strand) : (s.setUnit k u).ops = s.ops := rfl
@[simp] theorem state_setUnit_net (s : State) (k : Nat) (u : Strand) : (s.setUnit k u).net = s.net := rfl
@[simp] theorem state_setUnit_inner (s : State) (k : Nat) (u : Strand) : (s.setUnit k u).inner = s.inner := rfl
@[simp] theorem state_setUnit_outbox (s : State) (k : Nat) (u : Strand) : (s.setUnit k u).outbox = s.outbox := rfl
@[simp] theorem state_setUnit_mgmt (s : State) (k : Nat) (u : Strand) : (s.setUnit k u).mgmt = s.mgmt := rfl
@[simp] theorem state_setUnit_gateways (s : State) (k : Nat) (u : Strand) : (s.setUnit k u).gateways = s.gateways := rfl
@[simp] theorem state_setUnit_amap (s : State) (k : Nat) (u : Strand) : (s.setUnit k u).amap = s.amap := rfl
@[simp] theorem state_setUnit_routes (s : State) (k : Nat) (u : Strand) : (s.setUnit k u).routes = s.routes := rfl
@[simp] theorem state_setUnit_removed (s : State) (k : Nat) (u : Strand) : (s.setUnit k u).removed = s.removed := rfl
@[simp] theorem state_setUnit_srcKeys (s : State) (k : Nat) (u : Strand) : (s.setUnit k u).srcKeys = s.srcKeys := rfl
@[simp] theorem state_setUnit_dstKeys (s : State) (k : Nat) (u : Strand) : (s.setUnit k u).dstKeys = s.dstKeys := rfl
@[simp] theorem state_setUnit_counts (s : State) (k : Nat) (u : Strand) : (s.setUnit k u).counts = s.counts := rfl
@[simp] theorem state_setUnit_plat (s : State) (k : Nat) (u : Strand) : (s.setUnit k u).plat = s.plat := rfl
@[simp] theorem state_setUnit_irqs (s : State) (k : Nat) (u : Strand) : (s.setUnit k u).irqs = s.irqs := rfl
@[simp] theorem state_setUnit_cycle (s : State) (k : Nat) (u : Strand) : (s.setUnit k u).cycle = s.cycle := rfl
@[simp] theorem state_setUnit_gtimeBase (s : State) (k : Nat) (u : Strand) : (s.setUnit k u).gtimeBase = s.gtimeBase := rfl
@[simp] theorem state_setUnit_cur (s : State) (k : Nat) (u : Strand) : (s.setUnit k u).cur = s.cur := rfl
@[simp] theorem state_setUnit_single (s : State) (k : Nat) (u : Strand) : (s.setUnit k u).single = s.single := rfl
@[simp] theorem state_setUnit_inp (s : State) (k : Nat) (u : Strand) : (s.setUnit k u).inp = s.inp := rfl
@[simp] theorem state_setUnit_agenda (s : State) (k : Nat) (u : Strand) : (s.setUnit k u).agenda = s.agenda := rfl
@[simp] theorem state_setUnit_fresh (s : State) (k : Nat) (u : Strand) : (s.setUnit k u).fresh = s.fresh := rfl

/-! ## setMe -/

@[simp] theorem state_setMe_cores (s : State) (u : Strand) : (s.setMe u).cores = s.cores := rfl
@[simp] theorem state_setMe_clusters (s : State) (u : Strand) : (s.setMe u).clusters = s.clusters := rfl
@[simp] theorem state_setMe_ctxs (s : State) (u : Strand) : (s.setMe u).ctxs = s.ctxs := rfl
@[simp] theorem state_setMe_dies (s : State) (u : Strand) : (s.setMe u).dies = s.dies := rfl
@[simp] theorem state_setMe_banks (s : State) (u : Strand) : (s.setMe u).banks = s.banks := rfl
@[simp] theorem state_setMe_links (s : State) (u : Strand) : (s.setMe u).links = s.links := rfl
@[simp] theorem state_setMe_mem (s : State) (u : Strand) : (s.setMe u).mem = s.mem := rfl
@[simp] theorem state_setMe_full (s : State) (u : Strand) : (s.setMe u).full = s.full := rfl
@[simp] theorem state_setMe_cells (s : State) (u : Strand) : (s.setMe u).cells = s.cells := rfl
@[simp] theorem state_setMe_bad (s : State) (u : Strand) : (s.setMe u).bad = s.bad := rfl
@[simp] theorem state_setMe_copies (s : State) (u : Strand) : (s.setMe u).copies = s.copies := rfl
@[simp] theorem state_setMe_stamps (s : State) (u : Strand) : (s.setMe u).stamps = s.stamps := rfl
@[simp] theorem state_setMe_ops (s : State) (u : Strand) : (s.setMe u).ops = s.ops := rfl
@[simp] theorem state_setMe_net (s : State) (u : Strand) : (s.setMe u).net = s.net := rfl
@[simp] theorem state_setMe_inner (s : State) (u : Strand) : (s.setMe u).inner = s.inner := rfl
@[simp] theorem state_setMe_outbox (s : State) (u : Strand) : (s.setMe u).outbox = s.outbox := rfl
@[simp] theorem state_setMe_mgmt (s : State) (u : Strand) : (s.setMe u).mgmt = s.mgmt := rfl
@[simp] theorem state_setMe_gateways (s : State) (u : Strand) : (s.setMe u).gateways = s.gateways := rfl
@[simp] theorem state_setMe_amap (s : State) (u : Strand) : (s.setMe u).amap = s.amap := rfl
@[simp] theorem state_setMe_routes (s : State) (u : Strand) : (s.setMe u).routes = s.routes := rfl
@[simp] theorem state_setMe_removed (s : State) (u : Strand) : (s.setMe u).removed = s.removed := rfl
@[simp] theorem state_setMe_srcKeys (s : State) (u : Strand) : (s.setMe u).srcKeys = s.srcKeys := rfl
@[simp] theorem state_setMe_dstKeys (s : State) (u : Strand) : (s.setMe u).dstKeys = s.dstKeys := rfl
@[simp] theorem state_setMe_counts (s : State) (u : Strand) : (s.setMe u).counts = s.counts := rfl
@[simp] theorem state_setMe_plat (s : State) (u : Strand) : (s.setMe u).plat = s.plat := rfl
@[simp] theorem state_setMe_irqs (s : State) (u : Strand) : (s.setMe u).irqs = s.irqs := rfl
@[simp] theorem state_setMe_cycle (s : State) (u : Strand) : (s.setMe u).cycle = s.cycle := rfl
@[simp] theorem state_setMe_gtimeBase (s : State) (u : Strand) : (s.setMe u).gtimeBase = s.gtimeBase := rfl
@[simp] theorem state_setMe_cur (s : State) (u : Strand) : (s.setMe u).cur = s.cur := rfl
@[simp] theorem state_setMe_single (s : State) (u : Strand) : (s.setMe u).single = s.single := rfl
@[simp] theorem state_setMe_inp (s : State) (u : Strand) : (s.setMe u).inp = s.inp := rfl
@[simp] theorem state_setMe_agenda (s : State) (u : Strand) : (s.setMe u).agenda = s.agenda := rfl
@[simp] theorem state_setMe_fresh (s : State) (u : Strand) : (s.setMe u).fresh = s.fresh := rfl

/-! ## setCore -/

@[simp] theorem state_setCore_units (s : State) (c : Nat) (k : Core) : (s.setCore c k).units = s.units := rfl
@[simp] theorem state_setCore_clusters (s : State) (c : Nat) (k : Core) : (s.setCore c k).clusters = s.clusters := rfl
@[simp] theorem state_setCore_ctxs (s : State) (c : Nat) (k : Core) : (s.setCore c k).ctxs = s.ctxs := rfl
@[simp] theorem state_setCore_dies (s : State) (c : Nat) (k : Core) : (s.setCore c k).dies = s.dies := rfl
@[simp] theorem state_setCore_banks (s : State) (c : Nat) (k : Core) : (s.setCore c k).banks = s.banks := rfl
@[simp] theorem state_setCore_links (s : State) (c : Nat) (k : Core) : (s.setCore c k).links = s.links := rfl
@[simp] theorem state_setCore_mem (s : State) (c : Nat) (k : Core) : (s.setCore c k).mem = s.mem := rfl
@[simp] theorem state_setCore_full (s : State) (c : Nat) (k : Core) : (s.setCore c k).full = s.full := rfl
@[simp] theorem state_setCore_cells (s : State) (c : Nat) (k : Core) : (s.setCore c k).cells = s.cells := rfl
@[simp] theorem state_setCore_bad (s : State) (c : Nat) (k : Core) : (s.setCore c k).bad = s.bad := rfl
@[simp] theorem state_setCore_copies (s : State) (c : Nat) (k : Core) : (s.setCore c k).copies = s.copies := rfl
@[simp] theorem state_setCore_stamps (s : State) (c : Nat) (k : Core) : (s.setCore c k).stamps = s.stamps := rfl
@[simp] theorem state_setCore_ops (s : State) (c : Nat) (k : Core) : (s.setCore c k).ops = s.ops := rfl
@[simp] theorem state_setCore_net (s : State) (c : Nat) (k : Core) : (s.setCore c k).net = s.net := rfl
@[simp] theorem state_setCore_inner (s : State) (c : Nat) (k : Core) : (s.setCore c k).inner = s.inner := rfl
@[simp] theorem state_setCore_outbox (s : State) (c : Nat) (k : Core) : (s.setCore c k).outbox = s.outbox := rfl
@[simp] theorem state_setCore_mgmt (s : State) (c : Nat) (k : Core) : (s.setCore c k).mgmt = s.mgmt := rfl
@[simp] theorem state_setCore_gateways (s : State) (c : Nat) (k : Core) : (s.setCore c k).gateways = s.gateways := rfl
@[simp] theorem state_setCore_amap (s : State) (c : Nat) (k : Core) : (s.setCore c k).amap = s.amap := rfl
@[simp] theorem state_setCore_routes (s : State) (c : Nat) (k : Core) : (s.setCore c k).routes = s.routes := rfl
@[simp] theorem state_setCore_removed (s : State) (c : Nat) (k : Core) : (s.setCore c k).removed = s.removed := rfl
@[simp] theorem state_setCore_srcKeys (s : State) (c : Nat) (k : Core) : (s.setCore c k).srcKeys = s.srcKeys := rfl
@[simp] theorem state_setCore_dstKeys (s : State) (c : Nat) (k : Core) : (s.setCore c k).dstKeys = s.dstKeys := rfl
@[simp] theorem state_setCore_counts (s : State) (c : Nat) (k : Core) : (s.setCore c k).counts = s.counts := rfl
@[simp] theorem state_setCore_plat (s : State) (c : Nat) (k : Core) : (s.setCore c k).plat = s.plat := rfl
@[simp] theorem state_setCore_irqs (s : State) (c : Nat) (k : Core) : (s.setCore c k).irqs = s.irqs := rfl
@[simp] theorem state_setCore_cycle (s : State) (c : Nat) (k : Core) : (s.setCore c k).cycle = s.cycle := rfl
@[simp] theorem state_setCore_gtimeBase (s : State) (c : Nat) (k : Core) : (s.setCore c k).gtimeBase = s.gtimeBase := rfl
@[simp] theorem state_setCore_cur (s : State) (c : Nat) (k : Core) : (s.setCore c k).cur = s.cur := rfl
@[simp] theorem state_setCore_single (s : State) (c : Nat) (k : Core) : (s.setCore c k).single = s.single := rfl
@[simp] theorem state_setCore_inp (s : State) (c : Nat) (k : Core) : (s.setCore c k).inp = s.inp := rfl
@[simp] theorem state_setCore_agenda (s : State) (c : Nat) (k : Core) : (s.setCore c k).agenda = s.agenda := rfl
@[simp] theorem state_setCore_fresh (s : State) (c : Nat) (k : Core) : (s.setCore c k).fresh = s.fresh := rfl

/-! ## setCluster -/

@[simp] theorem state_setCluster_units (s : State) (c : Nat) (k : Cluster) : (s.setCluster c k).units = s.units := rfl
@[simp] theorem state_setCluster_cores (s : State) (c : Nat) (k : Cluster) : (s.setCluster c k).cores = s.cores := rfl
@[simp] theorem state_setCluster_ctxs (s : State) (c : Nat) (k : Cluster) : (s.setCluster c k).ctxs = s.ctxs := rfl
@[simp] theorem state_setCluster_dies (s : State) (c : Nat) (k : Cluster) : (s.setCluster c k).dies = s.dies := rfl
@[simp] theorem state_setCluster_banks (s : State) (c : Nat) (k : Cluster) : (s.setCluster c k).banks = s.banks := rfl
@[simp] theorem state_setCluster_links (s : State) (c : Nat) (k : Cluster) : (s.setCluster c k).links = s.links := rfl
@[simp] theorem state_setCluster_mem (s : State) (c : Nat) (k : Cluster) : (s.setCluster c k).mem = s.mem := rfl
@[simp] theorem state_setCluster_full (s : State) (c : Nat) (k : Cluster) : (s.setCluster c k).full = s.full := rfl
@[simp] theorem state_setCluster_cells (s : State) (c : Nat) (k : Cluster) : (s.setCluster c k).cells = s.cells := rfl
@[simp] theorem state_setCluster_bad (s : State) (c : Nat) (k : Cluster) : (s.setCluster c k).bad = s.bad := rfl
@[simp] theorem state_setCluster_copies (s : State) (c : Nat) (k : Cluster) : (s.setCluster c k).copies = s.copies := rfl
@[simp] theorem state_setCluster_stamps (s : State) (c : Nat) (k : Cluster) : (s.setCluster c k).stamps = s.stamps := rfl
@[simp] theorem state_setCluster_ops (s : State) (c : Nat) (k : Cluster) : (s.setCluster c k).ops = s.ops := rfl
@[simp] theorem state_setCluster_net (s : State) (c : Nat) (k : Cluster) : (s.setCluster c k).net = s.net := rfl
@[simp] theorem state_setCluster_inner (s : State) (c : Nat) (k : Cluster) : (s.setCluster c k).inner = s.inner := rfl
@[simp] theorem state_setCluster_outbox (s : State) (c : Nat) (k : Cluster) : (s.setCluster c k).outbox = s.outbox := rfl
@[simp] theorem state_setCluster_mgmt (s : State) (c : Nat) (k : Cluster) : (s.setCluster c k).mgmt = s.mgmt := rfl
@[simp] theorem state_setCluster_gateways (s : State) (c : Nat) (k : Cluster) : (s.setCluster c k).gateways = s.gateways := rfl
@[simp] theorem state_setCluster_amap (s : State) (c : Nat) (k : Cluster) : (s.setCluster c k).amap = s.amap := rfl
@[simp] theorem state_setCluster_routes (s : State) (c : Nat) (k : Cluster) : (s.setCluster c k).routes = s.routes := rfl
@[simp] theorem state_setCluster_removed (s : State) (c : Nat) (k : Cluster) : (s.setCluster c k).removed = s.removed := rfl
@[simp] theorem state_setCluster_srcKeys (s : State) (c : Nat) (k : Cluster) : (s.setCluster c k).srcKeys = s.srcKeys := rfl
@[simp] theorem state_setCluster_dstKeys (s : State) (c : Nat) (k : Cluster) : (s.setCluster c k).dstKeys = s.dstKeys := rfl
@[simp] theorem state_setCluster_counts (s : State) (c : Nat) (k : Cluster) : (s.setCluster c k).counts = s.counts := rfl
@[simp] theorem state_setCluster_plat (s : State) (c : Nat) (k : Cluster) : (s.setCluster c k).plat = s.plat := rfl
@[simp] theorem state_setCluster_irqs (s : State) (c : Nat) (k : Cluster) : (s.setCluster c k).irqs = s.irqs := rfl
@[simp] theorem state_setCluster_cycle (s : State) (c : Nat) (k : Cluster) : (s.setCluster c k).cycle = s.cycle := rfl
@[simp] theorem state_setCluster_gtimeBase (s : State) (c : Nat) (k : Cluster) : (s.setCluster c k).gtimeBase = s.gtimeBase := rfl
@[simp] theorem state_setCluster_cur (s : State) (c : Nat) (k : Cluster) : (s.setCluster c k).cur = s.cur := rfl
@[simp] theorem state_setCluster_single (s : State) (c : Nat) (k : Cluster) : (s.setCluster c k).single = s.single := rfl
@[simp] theorem state_setCluster_inp (s : State) (c : Nat) (k : Cluster) : (s.setCluster c k).inp = s.inp := rfl
@[simp] theorem state_setCluster_agenda (s : State) (c : Nat) (k : Cluster) : (s.setCluster c k).agenda = s.agenda := rfl
@[simp] theorem state_setCluster_fresh (s : State) (c : Nat) (k : Cluster) : (s.setCluster c k).fresh = s.fresh := rfl

/-! ## setCtx -/

@[simp] theorem state_setCtx_units (s : State) (c : Nat) (k : Ctx) : (s.setCtx c k).units = s.units := rfl
@[simp] theorem state_setCtx_cores (s : State) (c : Nat) (k : Ctx) : (s.setCtx c k).cores = s.cores := rfl
@[simp] theorem state_setCtx_clusters (s : State) (c : Nat) (k : Ctx) : (s.setCtx c k).clusters = s.clusters := rfl
@[simp] theorem state_setCtx_dies (s : State) (c : Nat) (k : Ctx) : (s.setCtx c k).dies = s.dies := rfl
@[simp] theorem state_setCtx_banks (s : State) (c : Nat) (k : Ctx) : (s.setCtx c k).banks = s.banks := rfl
@[simp] theorem state_setCtx_links (s : State) (c : Nat) (k : Ctx) : (s.setCtx c k).links = s.links := rfl
@[simp] theorem state_setCtx_mem (s : State) (c : Nat) (k : Ctx) : (s.setCtx c k).mem = s.mem := rfl
@[simp] theorem state_setCtx_full (s : State) (c : Nat) (k : Ctx) : (s.setCtx c k).full = s.full := rfl
@[simp] theorem state_setCtx_cells (s : State) (c : Nat) (k : Ctx) : (s.setCtx c k).cells = s.cells := rfl
@[simp] theorem state_setCtx_bad (s : State) (c : Nat) (k : Ctx) : (s.setCtx c k).bad = s.bad := rfl
@[simp] theorem state_setCtx_copies (s : State) (c : Nat) (k : Ctx) : (s.setCtx c k).copies = s.copies := rfl
@[simp] theorem state_setCtx_stamps (s : State) (c : Nat) (k : Ctx) : (s.setCtx c k).stamps = s.stamps := rfl
@[simp] theorem state_setCtx_ops (s : State) (c : Nat) (k : Ctx) : (s.setCtx c k).ops = s.ops := rfl
@[simp] theorem state_setCtx_net (s : State) (c : Nat) (k : Ctx) : (s.setCtx c k).net = s.net := rfl
@[simp] theorem state_setCtx_inner (s : State) (c : Nat) (k : Ctx) : (s.setCtx c k).inner = s.inner := rfl
@[simp] theorem state_setCtx_outbox (s : State) (c : Nat) (k : Ctx) : (s.setCtx c k).outbox = s.outbox := rfl
@[simp] theorem state_setCtx_mgmt (s : State) (c : Nat) (k : Ctx) : (s.setCtx c k).mgmt = s.mgmt := rfl
@[simp] theorem state_setCtx_gateways (s : State) (c : Nat) (k : Ctx) : (s.setCtx c k).gateways = s.gateways := rfl
@[simp] theorem state_setCtx_amap (s : State) (c : Nat) (k : Ctx) : (s.setCtx c k).amap = s.amap := rfl
@[simp] theorem state_setCtx_routes (s : State) (c : Nat) (k : Ctx) : (s.setCtx c k).routes = s.routes := rfl
@[simp] theorem state_setCtx_removed (s : State) (c : Nat) (k : Ctx) : (s.setCtx c k).removed = s.removed := rfl
@[simp] theorem state_setCtx_srcKeys (s : State) (c : Nat) (k : Ctx) : (s.setCtx c k).srcKeys = s.srcKeys := rfl
@[simp] theorem state_setCtx_dstKeys (s : State) (c : Nat) (k : Ctx) : (s.setCtx c k).dstKeys = s.dstKeys := rfl
@[simp] theorem state_setCtx_counts (s : State) (c : Nat) (k : Ctx) : (s.setCtx c k).counts = s.counts := rfl
@[simp] theorem state_setCtx_plat (s : State) (c : Nat) (k : Ctx) : (s.setCtx c k).plat = s.plat := rfl
@[simp] theorem state_setCtx_irqs (s : State) (c : Nat) (k : Ctx) : (s.setCtx c k).irqs = s.irqs := rfl
@[simp] theorem state_setCtx_cycle (s : State) (c : Nat) (k : Ctx) : (s.setCtx c k).cycle = s.cycle := rfl
@[simp] theorem state_setCtx_gtimeBase (s : State) (c : Nat) (k : Ctx) : (s.setCtx c k).gtimeBase = s.gtimeBase := rfl
@[simp] theorem state_setCtx_cur (s : State) (c : Nat) (k : Ctx) : (s.setCtx c k).cur = s.cur := rfl
@[simp] theorem state_setCtx_single (s : State) (c : Nat) (k : Ctx) : (s.setCtx c k).single = s.single := rfl
@[simp] theorem state_setCtx_inp (s : State) (c : Nat) (k : Ctx) : (s.setCtx c k).inp = s.inp := rfl
@[simp] theorem state_setCtx_agenda (s : State) (c : Nat) (k : Ctx) : (s.setCtx c k).agenda = s.agenda := rfl
@[simp] theorem state_setCtx_fresh (s : State) (c : Nat) (k : Ctx) : (s.setCtx c k).fresh = s.fresh := rfl

/-! ## setDie -/

@[simp] theorem state_setDie_units (s : State) (d : Nat) (k : Die) : (s.setDie d k).units = s.units := rfl
@[simp] theorem state_setDie_cores (s : State) (d : Nat) (k : Die) : (s.setDie d k).cores = s.cores := rfl
@[simp] theorem state_setDie_clusters (s : State) (d : Nat) (k : Die) : (s.setDie d k).clusters = s.clusters := rfl
@[simp] theorem state_setDie_ctxs (s : State) (d : Nat) (k : Die) : (s.setDie d k).ctxs = s.ctxs := rfl
@[simp] theorem state_setDie_banks (s : State) (d : Nat) (k : Die) : (s.setDie d k).banks = s.banks := rfl
@[simp] theorem state_setDie_links (s : State) (d : Nat) (k : Die) : (s.setDie d k).links = s.links := rfl
@[simp] theorem state_setDie_mem (s : State) (d : Nat) (k : Die) : (s.setDie d k).mem = s.mem := rfl
@[simp] theorem state_setDie_full (s : State) (d : Nat) (k : Die) : (s.setDie d k).full = s.full := rfl
@[simp] theorem state_setDie_cells (s : State) (d : Nat) (k : Die) : (s.setDie d k).cells = s.cells := rfl
@[simp] theorem state_setDie_bad (s : State) (d : Nat) (k : Die) : (s.setDie d k).bad = s.bad := rfl
@[simp] theorem state_setDie_copies (s : State) (d : Nat) (k : Die) : (s.setDie d k).copies = s.copies := rfl
@[simp] theorem state_setDie_stamps (s : State) (d : Nat) (k : Die) : (s.setDie d k).stamps = s.stamps := rfl
@[simp] theorem state_setDie_ops (s : State) (d : Nat) (k : Die) : (s.setDie d k).ops = s.ops := rfl
@[simp] theorem state_setDie_net (s : State) (d : Nat) (k : Die) : (s.setDie d k).net = s.net := rfl
@[simp] theorem state_setDie_inner (s : State) (d : Nat) (k : Die) : (s.setDie d k).inner = s.inner := rfl
@[simp] theorem state_setDie_outbox (s : State) (d : Nat) (k : Die) : (s.setDie d k).outbox = s.outbox := rfl
@[simp] theorem state_setDie_mgmt (s : State) (d : Nat) (k : Die) : (s.setDie d k).mgmt = s.mgmt := rfl
@[simp] theorem state_setDie_gateways (s : State) (d : Nat) (k : Die) : (s.setDie d k).gateways = s.gateways := rfl
@[simp] theorem state_setDie_amap (s : State) (d : Nat) (k : Die) : (s.setDie d k).amap = s.amap := rfl
@[simp] theorem state_setDie_routes (s : State) (d : Nat) (k : Die) : (s.setDie d k).routes = s.routes := rfl
@[simp] theorem state_setDie_removed (s : State) (d : Nat) (k : Die) : (s.setDie d k).removed = s.removed := rfl
@[simp] theorem state_setDie_srcKeys (s : State) (d : Nat) (k : Die) : (s.setDie d k).srcKeys = s.srcKeys := rfl
@[simp] theorem state_setDie_dstKeys (s : State) (d : Nat) (k : Die) : (s.setDie d k).dstKeys = s.dstKeys := rfl
@[simp] theorem state_setDie_counts (s : State) (d : Nat) (k : Die) : (s.setDie d k).counts = s.counts := rfl
@[simp] theorem state_setDie_plat (s : State) (d : Nat) (k : Die) : (s.setDie d k).plat = s.plat := rfl
@[simp] theorem state_setDie_irqs (s : State) (d : Nat) (k : Die) : (s.setDie d k).irqs = s.irqs := rfl
@[simp] theorem state_setDie_cycle (s : State) (d : Nat) (k : Die) : (s.setDie d k).cycle = s.cycle := rfl
@[simp] theorem state_setDie_gtimeBase (s : State) (d : Nat) (k : Die) : (s.setDie d k).gtimeBase = s.gtimeBase := rfl
@[simp] theorem state_setDie_cur (s : State) (d : Nat) (k : Die) : (s.setDie d k).cur = s.cur := rfl
@[simp] theorem state_setDie_single (s : State) (d : Nat) (k : Die) : (s.setDie d k).single = s.single := rfl
@[simp] theorem state_setDie_inp (s : State) (d : Nat) (k : Die) : (s.setDie d k).inp = s.inp := rfl
@[simp] theorem state_setDie_agenda (s : State) (d : Nat) (k : Die) : (s.setDie d k).agenda = s.agenda := rfl
@[simp] theorem state_setDie_fresh (s : State) (d : Nat) (k : Die) : (s.setDie d k).fresh = s.fresh := rfl

/-! ## setBank -/

@[simp] theorem state_setBank_units (s : State) (b : Nat) (k : BankCtl) : (s.setBank b k).units = s.units := rfl
@[simp] theorem state_setBank_cores (s : State) (b : Nat) (k : BankCtl) : (s.setBank b k).cores = s.cores := rfl
@[simp] theorem state_setBank_clusters (s : State) (b : Nat) (k : BankCtl) : (s.setBank b k).clusters = s.clusters := rfl
@[simp] theorem state_setBank_ctxs (s : State) (b : Nat) (k : BankCtl) : (s.setBank b k).ctxs = s.ctxs := rfl
@[simp] theorem state_setBank_dies (s : State) (b : Nat) (k : BankCtl) : (s.setBank b k).dies = s.dies := rfl
@[simp] theorem state_setBank_links (s : State) (b : Nat) (k : BankCtl) : (s.setBank b k).links = s.links := rfl
@[simp] theorem state_setBank_mem (s : State) (b : Nat) (k : BankCtl) : (s.setBank b k).mem = s.mem := rfl
@[simp] theorem state_setBank_full (s : State) (b : Nat) (k : BankCtl) : (s.setBank b k).full = s.full := rfl
@[simp] theorem state_setBank_cells (s : State) (b : Nat) (k : BankCtl) : (s.setBank b k).cells = s.cells := rfl
@[simp] theorem state_setBank_bad (s : State) (b : Nat) (k : BankCtl) : (s.setBank b k).bad = s.bad := rfl
@[simp] theorem state_setBank_copies (s : State) (b : Nat) (k : BankCtl) : (s.setBank b k).copies = s.copies := rfl
@[simp] theorem state_setBank_stamps (s : State) (b : Nat) (k : BankCtl) : (s.setBank b k).stamps = s.stamps := rfl
@[simp] theorem state_setBank_ops (s : State) (b : Nat) (k : BankCtl) : (s.setBank b k).ops = s.ops := rfl
@[simp] theorem state_setBank_net (s : State) (b : Nat) (k : BankCtl) : (s.setBank b k).net = s.net := rfl
@[simp] theorem state_setBank_inner (s : State) (b : Nat) (k : BankCtl) : (s.setBank b k).inner = s.inner := rfl
@[simp] theorem state_setBank_outbox (s : State) (b : Nat) (k : BankCtl) : (s.setBank b k).outbox = s.outbox := rfl
@[simp] theorem state_setBank_mgmt (s : State) (b : Nat) (k : BankCtl) : (s.setBank b k).mgmt = s.mgmt := rfl
@[simp] theorem state_setBank_gateways (s : State) (b : Nat) (k : BankCtl) : (s.setBank b k).gateways = s.gateways := rfl
@[simp] theorem state_setBank_amap (s : State) (b : Nat) (k : BankCtl) : (s.setBank b k).amap = s.amap := rfl
@[simp] theorem state_setBank_routes (s : State) (b : Nat) (k : BankCtl) : (s.setBank b k).routes = s.routes := rfl
@[simp] theorem state_setBank_removed (s : State) (b : Nat) (k : BankCtl) : (s.setBank b k).removed = s.removed := rfl
@[simp] theorem state_setBank_srcKeys (s : State) (b : Nat) (k : BankCtl) : (s.setBank b k).srcKeys = s.srcKeys := rfl
@[simp] theorem state_setBank_dstKeys (s : State) (b : Nat) (k : BankCtl) : (s.setBank b k).dstKeys = s.dstKeys := rfl
@[simp] theorem state_setBank_counts (s : State) (b : Nat) (k : BankCtl) : (s.setBank b k).counts = s.counts := rfl
@[simp] theorem state_setBank_plat (s : State) (b : Nat) (k : BankCtl) : (s.setBank b k).plat = s.plat := rfl
@[simp] theorem state_setBank_irqs (s : State) (b : Nat) (k : BankCtl) : (s.setBank b k).irqs = s.irqs := rfl
@[simp] theorem state_setBank_cycle (s : State) (b : Nat) (k : BankCtl) : (s.setBank b k).cycle = s.cycle := rfl
@[simp] theorem state_setBank_gtimeBase (s : State) (b : Nat) (k : BankCtl) : (s.setBank b k).gtimeBase = s.gtimeBase := rfl
@[simp] theorem state_setBank_cur (s : State) (b : Nat) (k : BankCtl) : (s.setBank b k).cur = s.cur := rfl
@[simp] theorem state_setBank_single (s : State) (b : Nat) (k : BankCtl) : (s.setBank b k).single = s.single := rfl
@[simp] theorem state_setBank_inp (s : State) (b : Nat) (k : BankCtl) : (s.setBank b k).inp = s.inp := rfl
@[simp] theorem state_setBank_agenda (s : State) (b : Nat) (k : BankCtl) : (s.setBank b k).agenda = s.agenda := rfl
@[simp] theorem state_setBank_fresh (s : State) (b : Nat) (k : BankCtl) : (s.setBank b k).fresh = s.fresh := rfl

/-! ## setLink -/

@[simp] theorem state_setLink_units (s : State) (l : Nat) (k : Link) : (s.setLink l k).units = s.units := rfl
@[simp] theorem state_setLink_cores (s : State) (l : Nat) (k : Link) : (s.setLink l k).cores = s.cores := rfl
@[simp] theorem state_setLink_clusters (s : State) (l : Nat) (k : Link) : (s.setLink l k).clusters = s.clusters := rfl
@[simp] theorem state_setLink_ctxs (s : State) (l : Nat) (k : Link) : (s.setLink l k).ctxs = s.ctxs := rfl
@[simp] theorem state_setLink_dies (s : State) (l : Nat) (k : Link) : (s.setLink l k).dies = s.dies := rfl
@[simp] theorem state_setLink_banks (s : State) (l : Nat) (k : Link) : (s.setLink l k).banks = s.banks := rfl
@[simp] theorem state_setLink_mem (s : State) (l : Nat) (k : Link) : (s.setLink l k).mem = s.mem := rfl
@[simp] theorem state_setLink_full (s : State) (l : Nat) (k : Link) : (s.setLink l k).full = s.full := rfl
@[simp] theorem state_setLink_cells (s : State) (l : Nat) (k : Link) : (s.setLink l k).cells = s.cells := rfl
@[simp] theorem state_setLink_bad (s : State) (l : Nat) (k : Link) : (s.setLink l k).bad = s.bad := rfl
@[simp] theorem state_setLink_copies (s : State) (l : Nat) (k : Link) : (s.setLink l k).copies = s.copies := rfl
@[simp] theorem state_setLink_stamps (s : State) (l : Nat) (k : Link) : (s.setLink l k).stamps = s.stamps := rfl
@[simp] theorem state_setLink_ops (s : State) (l : Nat) (k : Link) : (s.setLink l k).ops = s.ops := rfl
@[simp] theorem state_setLink_net (s : State) (l : Nat) (k : Link) : (s.setLink l k).net = s.net := rfl
@[simp] theorem state_setLink_inner (s : State) (l : Nat) (k : Link) : (s.setLink l k).inner = s.inner := rfl
@[simp] theorem state_setLink_outbox (s : State) (l : Nat) (k : Link) : (s.setLink l k).outbox = s.outbox := rfl
@[simp] theorem state_setLink_mgmt (s : State) (l : Nat) (k : Link) : (s.setLink l k).mgmt = s.mgmt := rfl
@[simp] theorem state_setLink_gateways (s : State) (l : Nat) (k : Link) : (s.setLink l k).gateways = s.gateways := rfl
@[simp] theorem state_setLink_amap (s : State) (l : Nat) (k : Link) : (s.setLink l k).amap = s.amap := rfl
@[simp] theorem state_setLink_routes (s : State) (l : Nat) (k : Link) : (s.setLink l k).routes = s.routes := rfl
@[simp] theorem state_setLink_removed (s : State) (l : Nat) (k : Link) : (s.setLink l k).removed = s.removed := rfl
@[simp] theorem state_setLink_srcKeys (s : State) (l : Nat) (k : Link) : (s.setLink l k).srcKeys = s.srcKeys := rfl
@[simp] theorem state_setLink_dstKeys (s : State) (l : Nat) (k : Link) : (s.setLink l k).dstKeys = s.dstKeys := rfl
@[simp] theorem state_setLink_counts (s : State) (l : Nat) (k : Link) : (s.setLink l k).counts = s.counts := rfl
@[simp] theorem state_setLink_plat (s : State) (l : Nat) (k : Link) : (s.setLink l k).plat = s.plat := rfl
@[simp] theorem state_setLink_irqs (s : State) (l : Nat) (k : Link) : (s.setLink l k).irqs = s.irqs := rfl
@[simp] theorem state_setLink_cycle (s : State) (l : Nat) (k : Link) : (s.setLink l k).cycle = s.cycle := rfl
@[simp] theorem state_setLink_gtimeBase (s : State) (l : Nat) (k : Link) : (s.setLink l k).gtimeBase = s.gtimeBase := rfl
@[simp] theorem state_setLink_cur (s : State) (l : Nat) (k : Link) : (s.setLink l k).cur = s.cur := rfl
@[simp] theorem state_setLink_single (s : State) (l : Nat) (k : Link) : (s.setLink l k).single = s.single := rfl
@[simp] theorem state_setLink_inp (s : State) (l : Nat) (k : Link) : (s.setLink l k).inp = s.inp := rfl
@[simp] theorem state_setLink_agenda (s : State) (l : Nat) (k : Link) : (s.setLink l k).agenda = s.agenda := rfl
@[simp] theorem state_setLink_fresh (s : State) (l : Nat) (k : Link) : (s.setLink l k).fresh = s.fresh := rfl

/-! ## addOp -/

@[simp] theorem state_addOp_units (s : State) (o : Op) : (s.addOp o).units = s.units := rfl
@[simp] theorem state_addOp_cores (s : State) (o : Op) : (s.addOp o).cores = s.cores := rfl
@[simp] theorem state_addOp_clusters (s : State) (o : Op) : (s.addOp o).clusters = s.clusters := rfl
@[simp] theorem state_addOp_ctxs (s : State) (o : Op) : (s.addOp o).ctxs = s.ctxs := rfl
@[simp] theorem state_addOp_dies (s : State) (o : Op) : (s.addOp o).dies = s.dies := rfl
@[simp] theorem state_addOp_banks (s : State) (o : Op) : (s.addOp o).banks = s.banks := rfl
@[simp] theorem state_addOp_links (s : State) (o : Op) : (s.addOp o).links = s.links := rfl
@[simp] theorem state_addOp_mem (s : State) (o : Op) : (s.addOp o).mem = s.mem := rfl
@[simp] theorem state_addOp_full (s : State) (o : Op) : (s.addOp o).full = s.full := rfl
@[simp] theorem state_addOp_cells (s : State) (o : Op) : (s.addOp o).cells = s.cells := rfl
@[simp] theorem state_addOp_bad (s : State) (o : Op) : (s.addOp o).bad = s.bad := rfl
@[simp] theorem state_addOp_copies (s : State) (o : Op) : (s.addOp o).copies = s.copies := rfl
@[simp] theorem state_addOp_stamps (s : State) (o : Op) : (s.addOp o).stamps = s.stamps := rfl
@[simp] theorem state_addOp_net (s : State) (o : Op) : (s.addOp o).net = s.net := rfl
@[simp] theorem state_addOp_inner (s : State) (o : Op) : (s.addOp o).inner = s.inner := rfl
@[simp] theorem state_addOp_outbox (s : State) (o : Op) : (s.addOp o).outbox = s.outbox := rfl
@[simp] theorem state_addOp_mgmt (s : State) (o : Op) : (s.addOp o).mgmt = s.mgmt := rfl
@[simp] theorem state_addOp_gateways (s : State) (o : Op) : (s.addOp o).gateways = s.gateways := rfl
@[simp] theorem state_addOp_amap (s : State) (o : Op) : (s.addOp o).amap = s.amap := rfl
@[simp] theorem state_addOp_routes (s : State) (o : Op) : (s.addOp o).routes = s.routes := rfl
@[simp] theorem state_addOp_removed (s : State) (o : Op) : (s.addOp o).removed = s.removed := rfl
@[simp] theorem state_addOp_srcKeys (s : State) (o : Op) : (s.addOp o).srcKeys = s.srcKeys := rfl
@[simp] theorem state_addOp_dstKeys (s : State) (o : Op) : (s.addOp o).dstKeys = s.dstKeys := rfl
@[simp] theorem state_addOp_counts (s : State) (o : Op) : (s.addOp o).counts = s.counts := rfl
@[simp] theorem state_addOp_plat (s : State) (o : Op) : (s.addOp o).plat = s.plat := rfl
@[simp] theorem state_addOp_irqs (s : State) (o : Op) : (s.addOp o).irqs = s.irqs := rfl
@[simp] theorem state_addOp_cycle (s : State) (o : Op) : (s.addOp o).cycle = s.cycle := rfl
@[simp] theorem state_addOp_gtimeBase (s : State) (o : Op) : (s.addOp o).gtimeBase = s.gtimeBase := rfl
@[simp] theorem state_addOp_cur (s : State) (o : Op) : (s.addOp o).cur = s.cur := rfl
@[simp] theorem state_addOp_single (s : State) (o : Op) : (s.addOp o).single = s.single := rfl
@[simp] theorem state_addOp_inp (s : State) (o : Op) : (s.addOp o).inp = s.inp := rfl
@[simp] theorem state_addOp_agenda (s : State) (o : Op) : (s.addOp o).agenda = s.agenda := rfl

/-! ## putBase -/

@[simp] theorem state_putBase_units (s : State) (key : Nat) (bs : List Byte) : (s.putBase key bs).units = s.units := rfl
@[simp] theorem state_putBase_cores (s : State) (key : Nat) (bs : List Byte) : (s.putBase key bs).cores = s.cores := rfl
@[simp] theorem state_putBase_clusters (s : State) (key : Nat) (bs : List Byte) : (s.putBase key bs).clusters = s.clusters := rfl
@[simp] theorem state_putBase_ctxs (s : State) (key : Nat) (bs : List Byte) : (s.putBase key bs).ctxs = s.ctxs := rfl
@[simp] theorem state_putBase_dies (s : State) (key : Nat) (bs : List Byte) : (s.putBase key bs).dies = s.dies := rfl
@[simp] theorem state_putBase_banks (s : State) (key : Nat) (bs : List Byte) : (s.putBase key bs).banks = s.banks := rfl
@[simp] theorem state_putBase_links (s : State) (key : Nat) (bs : List Byte) : (s.putBase key bs).links = s.links := rfl
@[simp] theorem state_putBase_full (s : State) (key : Nat) (bs : List Byte) : (s.putBase key bs).full = s.full := rfl
@[simp] theorem state_putBase_cells (s : State) (key : Nat) (bs : List Byte) : (s.putBase key bs).cells = s.cells := rfl
@[simp] theorem state_putBase_bad (s : State) (key : Nat) (bs : List Byte) : (s.putBase key bs).bad = s.bad := rfl
@[simp] theorem state_putBase_copies (s : State) (key : Nat) (bs : List Byte) : (s.putBase key bs).copies = s.copies := rfl
@[simp] theorem state_putBase_stamps (s : State) (key : Nat) (bs : List Byte) : (s.putBase key bs).stamps = s.stamps := rfl
@[simp] theorem state_putBase_ops (s : State) (key : Nat) (bs : List Byte) : (s.putBase key bs).ops = s.ops := rfl
@[simp] theorem state_putBase_net (s : State) (key : Nat) (bs : List Byte) : (s.putBase key bs).net = s.net := rfl
@[simp] theorem state_putBase_inner (s : State) (key : Nat) (bs : List Byte) : (s.putBase key bs).inner = s.inner := rfl
@[simp] theorem state_putBase_outbox (s : State) (key : Nat) (bs : List Byte) : (s.putBase key bs).outbox = s.outbox := rfl
@[simp] theorem state_putBase_mgmt (s : State) (key : Nat) (bs : List Byte) : (s.putBase key bs).mgmt = s.mgmt := rfl
@[simp] theorem state_putBase_gateways (s : State) (key : Nat) (bs : List Byte) : (s.putBase key bs).gateways = s.gateways := rfl
@[simp] theorem state_putBase_amap (s : State) (key : Nat) (bs : List Byte) : (s.putBase key bs).amap = s.amap := rfl
@[simp] theorem state_putBase_routes (s : State) (key : Nat) (bs : List Byte) : (s.putBase key bs).routes = s.routes := rfl
@[simp] theorem state_putBase_removed (s : State) (key : Nat) (bs : List Byte) : (s.putBase key bs).removed = s.removed := rfl
@[simp] theorem state_putBase_srcKeys (s : State) (key : Nat) (bs : List Byte) : (s.putBase key bs).srcKeys = s.srcKeys := rfl
@[simp] theorem state_putBase_dstKeys (s : State) (key : Nat) (bs : List Byte) : (s.putBase key bs).dstKeys = s.dstKeys := rfl
@[simp] theorem state_putBase_counts (s : State) (key : Nat) (bs : List Byte) : (s.putBase key bs).counts = s.counts := rfl
@[simp] theorem state_putBase_plat (s : State) (key : Nat) (bs : List Byte) : (s.putBase key bs).plat = s.plat := rfl
@[simp] theorem state_putBase_irqs (s : State) (key : Nat) (bs : List Byte) : (s.putBase key bs).irqs = s.irqs := rfl
@[simp] theorem state_putBase_cycle (s : State) (key : Nat) (bs : List Byte) : (s.putBase key bs).cycle = s.cycle := rfl
@[simp] theorem state_putBase_gtimeBase (s : State) (key : Nat) (bs : List Byte) : (s.putBase key bs).gtimeBase = s.gtimeBase := rfl
@[simp] theorem state_putBase_cur (s : State) (key : Nat) (bs : List Byte) : (s.putBase key bs).cur = s.cur := rfl
@[simp] theorem state_putBase_single (s : State) (key : Nat) (bs : List Byte) : (s.putBase key bs).single = s.single := rfl
@[simp] theorem state_putBase_inp (s : State) (key : Nat) (bs : List Byte) : (s.putBase key bs).inp = s.inp := rfl
@[simp] theorem state_putBase_agenda (s : State) (key : Nat) (bs : List Byte) : (s.putBase key bs).agenda = s.agenda := rfl
@[simp] theorem state_putBase_fresh (s : State) (key : Nat) (bs : List Byte) : (s.putBase key bs).fresh = s.fresh := rfl

/-! ## setFull -/

@[simp] theorem state_setFull_units (s : State) (key : Nat) (b : Bool) : (s.setFull key b).units = s.units := rfl
@[simp] theorem state_setFull_cores (s : State) (key : Nat) (b : Bool) : (s.setFull key b).cores = s.cores := rfl
@[simp] theorem state_setFull_clusters (s : State) (key : Nat) (b : Bool) : (s.setFull key b).clusters = s.clusters := rfl
@[simp] theorem state_setFull_ctxs (s : State) (key : Nat) (b : Bool) : (s.setFull key b).ctxs = s.ctxs := rfl
@[simp] theorem state_setFull_dies (s : State) (key : Nat) (b : Bool) : (s.setFull key b).dies = s.dies := rfl
@[simp] theorem state_setFull_banks (s : State) (key : Nat) (b : Bool) : (s.setFull key b).banks = s.banks := rfl
@[simp] theorem state_setFull_links (s : State) (key : Nat) (b : Bool) : (s.setFull key b).links = s.links := rfl
@[simp] theorem state_setFull_mem (s : State) (key : Nat) (b : Bool) : (s.setFull key b).mem = s.mem := rfl
@[simp] theorem state_setFull_cells (s : State) (key : Nat) (b : Bool) : (s.setFull key b).cells = s.cells := rfl
@[simp] theorem state_setFull_bad (s : State) (key : Nat) (b : Bool) : (s.setFull key b).bad = s.bad := rfl
@[simp] theorem state_setFull_copies (s : State) (key : Nat) (b : Bool) : (s.setFull key b).copies = s.copies := rfl
@[simp] theorem state_setFull_stamps (s : State) (key : Nat) (b : Bool) : (s.setFull key b).stamps = s.stamps := rfl
@[simp] theorem state_setFull_ops (s : State) (key : Nat) (b : Bool) : (s.setFull key b).ops = s.ops := rfl
@[simp] theorem state_setFull_net (s : State) (key : Nat) (b : Bool) : (s.setFull key b).net = s.net := rfl
@[simp] theorem state_setFull_inner (s : State) (key : Nat) (b : Bool) : (s.setFull key b).inner = s.inner := rfl
@[simp] theorem state_setFull_outbox (s : State) (key : Nat) (b : Bool) : (s.setFull key b).outbox = s.outbox := rfl
@[simp] theorem state_setFull_mgmt (s : State) (key : Nat) (b : Bool) : (s.setFull key b).mgmt = s.mgmt := rfl
@[simp] theorem state_setFull_gateways (s : State) (key : Nat) (b : Bool) : (s.setFull key b).gateways = s.gateways := rfl
@[simp] theorem state_setFull_amap (s : State) (key : Nat) (b : Bool) : (s.setFull key b).amap = s.amap := rfl
@[simp] theorem state_setFull_routes (s : State) (key : Nat) (b : Bool) : (s.setFull key b).routes = s.routes := rfl
@[simp] theorem state_setFull_removed (s : State) (key : Nat) (b : Bool) : (s.setFull key b).removed = s.removed := rfl
@[simp] theorem state_setFull_srcKeys (s : State) (key : Nat) (b : Bool) : (s.setFull key b).srcKeys = s.srcKeys := rfl
@[simp] theorem state_setFull_dstKeys (s : State) (key : Nat) (b : Bool) : (s.setFull key b).dstKeys = s.dstKeys := rfl
@[simp] theorem state_setFull_counts (s : State) (key : Nat) (b : Bool) : (s.setFull key b).counts = s.counts := rfl
@[simp] theorem state_setFull_plat (s : State) (key : Nat) (b : Bool) : (s.setFull key b).plat = s.plat := rfl
@[simp] theorem state_setFull_irqs (s : State) (key : Nat) (b : Bool) : (s.setFull key b).irqs = s.irqs := rfl
@[simp] theorem state_setFull_cycle (s : State) (key : Nat) (b : Bool) : (s.setFull key b).cycle = s.cycle := rfl
@[simp] theorem state_setFull_gtimeBase (s : State) (key : Nat) (b : Bool) : (s.setFull key b).gtimeBase = s.gtimeBase := rfl
@[simp] theorem state_setFull_cur (s : State) (key : Nat) (b : Bool) : (s.setFull key b).cur = s.cur := rfl
@[simp] theorem state_setFull_single (s : State) (key : Nat) (b : Bool) : (s.setFull key b).single = s.single := rfl
@[simp] theorem state_setFull_inp (s : State) (key : Nat) (b : Bool) : (s.setFull key b).inp = s.inp := rfl
@[simp] theorem state_setFull_agenda (s : State) (key : Nat) (b : Bool) : (s.setFull key b).agenda = s.agenda := rfl
@[simp] theorem state_setFull_fresh (s : State) (key : Nat) (b : Bool) : (s.setFull key b).fresh = s.fresh := rfl

/-! ## What an update gives back -/

@[simp] theorem state_setUnit_same (s : State) (k : Nat) (u : Strand) : (s.setUnit k u).unit k = u := tab_read_write_same _ _ _ _
theorem state_setUnit_other (s : State) (u : Strand) {k j : Nat} (h : j ≠ k) : (s.setUnit k u).unit j = s.unit j := tab_read_write_ne _ _ _ _ h
@[simp] theorem state_setCore_same (s : State) (c : Nat) (k : Core) : (s.setCore c k).core c = k := tab_read_write_same _ _ _ _
theorem state_setCore_other (s : State) (k : Core) {c j : Nat} (h : j ≠ c) : (s.setCore c k).core j = s.core j := tab_read_write_ne _ _ _ _ h
@[simp] theorem state_setCluster_same (s : State) (c : Nat) (k : Cluster) : (s.setCluster c k).cluster c = k := tab_read_write_same _ _ _ _
theorem state_setCluster_other (s : State) (k : Cluster) {c j : Nat} (h : j ≠ c) : (s.setCluster c k).cluster j = s.cluster j := tab_read_write_ne _ _ _ _ h
@[simp] theorem state_setCtx_same (s : State) (c : Nat) (k : Ctx) : (s.setCtx c k).ctx c = k := tab_read_write_same _ _ _ _
theorem state_setCtx_other (s : State) (k : Ctx) {c j : Nat} (h : j ≠ c) : (s.setCtx c k).ctx j = s.ctx j := tab_read_write_ne _ _ _ _ h
@[simp] theorem state_setDie_same (s : State) (d : Nat) (k : Die) : (s.setDie d k).die d = k := tab_read_write_same _ _ _ _
theorem state_setDie_other (s : State) (k : Die) {d j : Nat} (h : j ≠ d) : (s.setDie d k).die j = s.die j := tab_read_write_ne _ _ _ _ h
@[simp] theorem state_setBank_same (s : State) (b : Nat) (k : BankCtl) : (s.setBank b k).bank b = k := tab_read_write_same _ _ _ _
theorem state_setBank_other (s : State) (k : BankCtl) {b j : Nat} (h : j ≠ b) : (s.setBank b k).bank j = s.bank j := tab_read_write_ne _ _ _ _ h
@[simp] theorem state_setLink_same (s : State) (l : Nat) (k : Link) : (s.setLink l k).link l = k := tab_read_write_same _ _ _ _
theorem state_setLink_other (s : State) (k : Link) {l j : Nat} (h : j ≠ l) : (s.setLink l k).link j = s.link j := tab_read_write_ne _ _ _ _ h

@[simp] theorem state_setUnit_get_core (s : State) (k : Nat) (u : Strand) (j : Nat) : (s.setUnit k u).core j = s.core j := rfl
@[simp] theorem state_setUnit_get_cluster (s : State) (k : Nat) (u : Strand) (j : Nat) : (s.setUnit k u).cluster j = s.cluster j := rfl
@[simp] theorem state_setUnit_get_ctx (s : State) (k : Nat) (u : Strand) (j : Nat) : (s.setUnit k u).ctx j = s.ctx j := rfl
@[simp] theorem state_setUnit_get_die (s : State) (k : Nat) (u : Strand) (j : Nat) : (s.setUnit k u).die j = s.die j := rfl
@[simp] theorem state_setUnit_get_bank (s : State) (k : Nat) (u : Strand) (j : Nat) : (s.setUnit k u).bank j = s.bank j := rfl
@[simp] theorem state_setUnit_get_link (s : State) (k : Nat) (u : Strand) (j : Nat) : (s.setUnit k u).link j = s.link j := rfl
@[simp] theorem state_setMe_get_core (s : State) (u : Strand) (j : Nat) : (s.setMe u).core j = s.core j := rfl
@[simp] theorem state_setMe_get_cluster (s : State) (u : Strand) (j : Nat) : (s.setMe u).cluster j = s.cluster j := rfl
@[simp] theorem state_setMe_get_ctx (s : State) (u : Strand) (j : Nat) : (s.setMe u).ctx j = s.ctx j := rfl
@[simp] theorem state_setMe_get_die (s : State) (u : Strand) (j : Nat) : (s.setMe u).die j = s.die j := rfl
@[simp] theorem state_setMe_get_bank (s : State) (u : Strand) (j : Nat) : (s.setMe u).bank j = s.bank j := rfl
@[simp] theorem state_setMe_get_link (s : State) (u : Strand) (j : Nat) : (s.setMe u).link j = s.link j := rfl
@[simp] theorem state_setCore_get_unit (s : State) (c : Nat) (k : Core) (j : Nat) : (s.setCore c k).unit j = s.unit j := rfl
@[simp] theorem state_setCore_get_cluster (s : State) (c : Nat) (k : Core) (j : Nat) : (s.setCore c k).cluster j = s.cluster j := rfl
@[simp] theorem state_setCore_get_ctx (s : State) (c : Nat) (k : Core) (j : Nat) : (s.setCore c k).ctx j = s.ctx j := rfl
@[simp] theorem state_setCore_get_die (s : State) (c : Nat) (k : Core) (j : Nat) : (s.setCore c k).die j = s.die j := rfl
@[simp] theorem state_setCore_get_bank (s : State) (c : Nat) (k : Core) (j : Nat) : (s.setCore c k).bank j = s.bank j := rfl
@[simp] theorem state_setCore_get_link (s : State) (c : Nat) (k : Core) (j : Nat) : (s.setCore c k).link j = s.link j := rfl
@[simp] theorem state_setCluster_get_unit (s : State) (c : Nat) (k : Cluster) (j : Nat) : (s.setCluster c k).unit j = s.unit j := rfl
@[simp] theorem state_setCluster_get_core (s : State) (c : Nat) (k : Cluster) (j : Nat) : (s.setCluster c k).core j = s.core j := rfl
@[simp] theorem state_setCluster_get_ctx (s : State) (c : Nat) (k : Cluster) (j : Nat) : (s.setCluster c k).ctx j = s.ctx j := rfl
@[simp] theorem state_setCluster_get_die (s : State) (c : Nat) (k : Cluster) (j : Nat) : (s.setCluster c k).die j = s.die j := rfl
@[simp] theorem state_setCluster_get_bank (s : State) (c : Nat) (k : Cluster) (j : Nat) : (s.setCluster c k).bank j = s.bank j := rfl
@[simp] theorem state_setCluster_get_link (s : State) (c : Nat) (k : Cluster) (j : Nat) : (s.setCluster c k).link j = s.link j := rfl
@[simp] theorem state_setCtx_get_unit (s : State) (c : Nat) (k : Ctx) (j : Nat) : (s.setCtx c k).unit j = s.unit j := rfl
@[simp] theorem state_setCtx_get_core (s : State) (c : Nat) (k : Ctx) (j : Nat) : (s.setCtx c k).core j = s.core j := rfl
@[simp] theorem state_setCtx_get_cluster (s : State) (c : Nat) (k : Ctx) (j : Nat) : (s.setCtx c k).cluster j = s.cluster j := rfl
@[simp] theorem state_setCtx_get_die (s : State) (c : Nat) (k : Ctx) (j : Nat) : (s.setCtx c k).die j = s.die j := rfl
@[simp] theorem state_setCtx_get_bank (s : State) (c : Nat) (k : Ctx) (j : Nat) : (s.setCtx c k).bank j = s.bank j := rfl
@[simp] theorem state_setCtx_get_link (s : State) (c : Nat) (k : Ctx) (j : Nat) : (s.setCtx c k).link j = s.link j := rfl
@[simp] theorem state_setDie_get_unit (s : State) (d : Nat) (k : Die) (j : Nat) : (s.setDie d k).unit j = s.unit j := rfl
@[simp] theorem state_setDie_get_core (s : State) (d : Nat) (k : Die) (j : Nat) : (s.setDie d k).core j = s.core j := rfl
@[simp] theorem state_setDie_get_cluster (s : State) (d : Nat) (k : Die) (j : Nat) : (s.setDie d k).cluster j = s.cluster j := rfl
@[simp] theorem state_setDie_get_ctx (s : State) (d : Nat) (k : Die) (j : Nat) : (s.setDie d k).ctx j = s.ctx j := rfl
@[simp] theorem state_setDie_get_bank (s : State) (d : Nat) (k : Die) (j : Nat) : (s.setDie d k).bank j = s.bank j := rfl
@[simp] theorem state_setDie_get_link (s : State) (d : Nat) (k : Die) (j : Nat) : (s.setDie d k).link j = s.link j := rfl
@[simp] theorem state_setBank_get_unit (s : State) (b : Nat) (k : BankCtl) (j : Nat) : (s.setBank b k).unit j = s.unit j := rfl
@[simp] theorem state_setBank_get_core (s : State) (b : Nat) (k : BankCtl) (j : Nat) : (s.setBank b k).core j = s.core j := rfl
@[simp] theorem state_setBank_get_cluster (s : State) (b : Nat) (k : BankCtl) (j : Nat) : (s.setBank b k).cluster j = s.cluster j := rfl
@[simp] theorem state_setBank_get_ctx (s : State) (b : Nat) (k : BankCtl) (j : Nat) : (s.setBank b k).ctx j = s.ctx j := rfl
@[simp] theorem state_setBank_get_die (s : State) (b : Nat) (k : BankCtl) (j : Nat) : (s.setBank b k).die j = s.die j := rfl
@[simp] theorem state_setBank_get_link (s : State) (b : Nat) (k : BankCtl) (j : Nat) : (s.setBank b k).link j = s.link j := rfl
@[simp] theorem state_setLink_get_unit (s : State) (l : Nat) (k : Link) (j : Nat) : (s.setLink l k).unit j = s.unit j := rfl
@[simp] theorem state_setLink_get_core (s : State) (l : Nat) (k : Link) (j : Nat) : (s.setLink l k).core j = s.core j := rfl
@[simp] theorem state_setLink_get_cluster (s : State) (l : Nat) (k : Link) (j : Nat) : (s.setLink l k).cluster j = s.cluster j := rfl
@[simp] theorem state_setLink_get_ctx (s : State) (l : Nat) (k : Link) (j : Nat) : (s.setLink l k).ctx j = s.ctx j := rfl
@[simp] theorem state_setLink_get_die (s : State) (l : Nat) (k : Link) (j : Nat) : (s.setLink l k).die j = s.die j := rfl
@[simp] theorem state_setLink_get_bank (s : State) (l : Nat) (k : Link) (j : Nat) : (s.setLink l k).bank j = s.bank j := rfl
@[simp] theorem state_addOp_get_unit (s : State) (o : Op) (j : Nat) : (s.addOp o).unit j = s.unit j := rfl
@[simp] theorem state_addOp_get_core (s : State) (o : Op) (j : Nat) : (s.addOp o).core j = s.core j := rfl
@[simp] theorem state_addOp_get_cluster (s : State) (o : Op) (j : Nat) : (s.addOp o).cluster j = s.cluster j := rfl
@[simp] theorem state_addOp_get_ctx (s : State) (o : Op) (j : Nat) : (s.addOp o).ctx j = s.ctx j := rfl
@[simp] theorem state_addOp_get_die (s : State) (o : Op) (j : Nat) : (s.addOp o).die j = s.die j := rfl
@[simp] theorem state_addOp_get_bank (s : State) (o : Op) (j : Nat) : (s.addOp o).bank j = s.bank j := rfl
@[simp] theorem state_addOp_get_link (s : State) (o : Op) (j : Nat) : (s.addOp o).link j = s.link j := rfl
@[simp] theorem state_putBase_get_unit (s : State) (key : Nat) (bs : List Byte) (j : Nat) : (s.putBase key bs).unit j = s.unit j := rfl
@[simp] theorem state_putBase_get_core (s : State) (key : Nat) (bs : List Byte) (j : Nat) : (s.putBase key bs).core j = s.core j := rfl
@[simp] theorem state_putBase_get_cluster (s : State) (key : Nat) (bs : List Byte) (j : Nat) : (s.putBase key bs).cluster j = s.cluster j := rfl
@[simp] theorem state_putBase_get_ctx (s : State) (key : Nat) (bs : List Byte) (j : Nat) : (s.putBase key bs).ctx j = s.ctx j := rfl
@[simp] theorem state_putBase_get_die (s : State) (key : Nat) (bs : List Byte) (j : Nat) : (s.putBase key bs).die j = s.die j := rfl
@[simp] theorem state_putBase_get_bank (s : State) (key : Nat) (bs : List Byte) (j : Nat) : (s.putBase key bs).bank j = s.bank j := rfl
@[simp] theorem state_putBase_get_link (s : State) (key : Nat) (bs : List Byte) (j : Nat) : (s.putBase key bs).link j = s.link j := rfl
@[simp] theorem state_setFull_get_unit (s : State) (key : Nat) (b : Bool) (j : Nat) : (s.setFull key b).unit j = s.unit j := rfl
@[simp] theorem state_setFull_get_core (s : State) (key : Nat) (b : Bool) (j : Nat) : (s.setFull key b).core j = s.core j := rfl
@[simp] theorem state_setFull_get_cluster (s : State) (key : Nat) (b : Bool) (j : Nat) : (s.setFull key b).cluster j = s.cluster j := rfl
@[simp] theorem state_setFull_get_ctx (s : State) (key : Nat) (b : Bool) (j : Nat) : (s.setFull key b).ctx j = s.ctx j := rfl
@[simp] theorem state_setFull_get_die (s : State) (key : Nat) (b : Bool) (j : Nat) : (s.setFull key b).die j = s.die j := rfl
@[simp] theorem state_setFull_get_bank (s : State) (key : Nat) (b : Bool) (j : Nat) : (s.setFull key b).bank j = s.bank j := rfl
@[simp] theorem state_setFull_get_link (s : State) (key : Nat) (b : Bool) (j : Nat) : (s.setFull key b).link j = s.link j := rfl

@[simp] theorem state_setMe_me (s : State) (u : Strand) : (s.setMe u).me = u := tab_read_write_same _ _ _ _
@[simp] theorem state_setCore_me (s : State) (c : Nat) (k : Core) : (s.setCore c k).me = s.me := rfl
@[simp] theorem state_setCluster_me (s : State) (c : Nat) (k : Cluster) : (s.setCluster c k).me = s.me := rfl
@[simp] theorem state_setCtx_me (s : State) (c : Nat) (k : Ctx) : (s.setCtx c k).me = s.me := rfl
@[simp] theorem state_addOp_me (s : State) (o : Op) : (s.addOp o).me = s.me := rfl
@[simp] theorem state_putBase_me (s : State) (key : Nat) (bs : List Byte) : (s.putBase key bs).me = s.me := rfl
@[simp] theorem state_setFull_me (s : State) (key : Nat) (b : Bool) : (s.setFull key b).me = s.me := rfl

/-! ## Register contexts -/

@[simp] theorem strand_goto_ranBefore (u : Strand) (key : Nat) (p : Word) : (u.goto key p).ranBefore = u.ranBefore := rfl
@[simp] theorem strand_goto_x (u : Strand) (key : Nat) (p : Word) : (u.goto key p).x = u.x := rfl
@[simp] theorem strand_goto_f (u : Strand) (key : Nat) (p : Word) : (u.goto key p).f = u.f := rfl
@[simp] theorem strand_goto_v (u : Strand) (key : Nat) (p : Word) : (u.goto key p).v = u.v := rfl
@[simp] theorem strand_goto_m (u : Strand) (key : Nat) (p : Word) : (u.goto key p).m = u.m := rfl
@[simp] theorem strand_goto_tm (u : Strand) (key : Nat) (p : Word) : (u.goto key p).tm = u.tm := rfl
@[simp] theorem strand_goto_vl (u : Strand) (key : Nat) (p : Word) : (u.goto key p).vl = u.vl := rfl
@[simp] theorem strand_goto_loads (u : Strand) (key : Nat) (p : Word) : (u.goto key p).loads = u.loads := rfl
@[simp] theorem strand_goto_stores (u : Strand) (key : Nat) (p : Word) : (u.goto key p).stores = u.stores := rfl
@[simp] theorem strand_goto_copies (u : Strand) (key : Nat) (p : Word) : (u.goto key p).copies = u.copies := rfl
@[simp] theorem strand_goto_tiles (u : Strand) (key : Nat) (p : Word) : (u.goto key p).tiles = u.tiles := rfl
@[simp] theorem strand_goto_msgs (u : Strand) (key : Nat) (p : Word) : (u.goto key p).msgs = u.msgs := rfl
@[simp] theorem strand_goto_ply (u : Strand) (key : Nat) (p : Word) : (u.goto key p).ply = u.ply := rfl
@[simp] theorem strand_goto_plyq (u : Strand) (key : Nat) (p : Word) : (u.goto key p).plyq = u.plyq := rfl
@[simp] theorem strand_goto_fpctl (u : Strand) (key : Nat) (p : Word) : (u.goto key p).fpctl = u.fpctl := rfl
@[simp] theorem strand_goto_fpflg (u : Strand) (key : Nat) (p : Word) : (u.goto key p).fpflg = u.fpflg := rfl
@[simp] theorem strand_goto_rngst (u : Strand) (key : Nat) (p : Word) : (u.goto key p).rngst = u.rngst := rfl
@[simp] theorem strand_goto_last (u : Strand) (key : Nat) (p : Word) : (u.goto key p).last = u.last := rfl
@[simp] theorem strand_goto_major (u : Strand) (key : Nat) (p : Word) : (u.goto key p).major = u.major := rfl
@[simp] theorem strand_goto_err (u : Strand) (key : Nat) (p : Word) : (u.goto key p).err = u.err := rfl
@[simp] theorem strand_goto_engerr (u : Strand) (key : Nat) (p : Word) : (u.goto key p).engerr = u.engerr := rfl
@[simp] theorem strand_goto_msgcls (u : Strand) (key : Nat) (p : Word) : (u.goto key p).msgcls = u.msgcls := rfl
@[simp] theorem strand_goto_msgsrc (u : Strand) (key : Nat) (p : Word) : (u.goto key p).msgsrc = u.msgsrc := rfl
@[simp] theorem strand_goto_msgts (u : Strand) (key : Nat) (p : Word) : (u.goto key p).msgts = u.msgts := rfl
@[simp] theorem strand_goto_msgrpl (u : Strand) (key : Nat) (p : Word) : (u.goto key p).msgrpl = u.msgrpl := rfl
@[simp] theorem strand_goto_recfree (u : Strand) (key : Nat) (p : Word) : (u.goto key p).recfree = u.recfree := rfl
@[simp] theorem strand_goto_held (u : Strand) (key : Nat) (p : Word) : (u.goto key p).held = u.held := rfl
@[simp] theorem strand_goto_heldSid (u : Strand) (key : Nat) (p : Word) : (u.goto key p).heldSid = u.heldSid := rfl
@[simp] theorem strand_goto_heldSince (u : Strand) (key : Nat) (p : Word) : (u.goto key p).heldSince = u.heldSince := rfl
@[simp] theorem strand_goto_worker (u : Strand) (key : Nat) (p : Word) : (u.goto key p).worker = u.worker := rfl
@[simp] theorem strand_goto_lvl (u : Strand) (key : Nat) (p : Word) : (u.goto key p).lvl = u.lvl := rfl
@[simp] theorem strand_goto_st (u : Strand) (key : Nat) (p : Word) : (u.goto key p).st = u.st := rfl
@[simp] theorem strand_goto_word1 (u : Strand) (key : Nat) (p : Word) : (u.goto key p).word1 = u.word1 := rfl
@[simp] theorem strand_goto_remote (u : Strand) (key : Nat) (p : Word) : (u.goto key p).remote = u.remote := rfl
@[simp] theorem strand_goto_event (u : Strand) (key : Nat) (p : Word) : (u.goto key p).event = u.event := rfl
@[simp] theorem strand_goto_posted (u : Strand) (key : Nat) (p : Word) : (u.goto key p).posted = u.posted := rfl
@[simp] theorem strand_goto_pend (u : Strand) (key : Nat) (p : Word) : (u.goto key p).pend = u.pend := rfl
@[simp] theorem strand_goto_awaits (u : Strand) (key : Nat) (p : Word) : (u.goto key p).awaits = u.awaits := rfl
@[simp] theorem strand_goto_taken (u : Strand) (key : Nat) (p : Word) : (u.goto key p).taken = u.taken := rfl
@[simp] theorem strand_goto_absentAt (u : Strand) (key : Nat) (p : Word) : (u.goto key p).absentAt = u.absentAt := rfl
@[simp] theorem strand_goto_vec (u : Strand) (key : Nat) (p : Word) : (u.goto key p).vec = u.vec := rfl
@[simp] theorem strand_goto_wid (u : Strand) (key : Nat) (p : Word) : (u.goto key p).wid = u.wid := rfl
@[simp] theorem strand_goto_inMsg (u : Strand) (key : Nat) (p : Word) : (u.goto key p).inMsg = u.inMsg := rfl
@[simp] theorem strand_goto_handlerSince (u : Strand) (key : Nat) (p : Word) : (u.goto key p).handlerSince = u.handlerSince := rfl
@[simp] theorem strand_goto_wwait (u : Strand) (key : Nat) (p : Word) : (u.goto key p).wwait = u.wwait := rfl
@[simp] theorem strand_goto_lockTried (u : Strand) (key : Nat) (p : Word) : (u.goto key p).lockTried = u.lockTried := rfl
@[simp] theorem strand_goto_pts (u : Strand) (key : Nat) (p : Word) : (u.goto key p).pts = u.pts := rfl
@[simp] theorem strand_goto_halted (u : Strand) (key : Nat) (p : Word) : (u.goto key p).halted = u.halted := rfl
@[simp] theorem strand_goto_haltedAt (u : Strand) (key : Nat) (p : Word) : (u.goto key p).haltedAt = u.haltedAt := rfl
@[simp] theorem strand_goto_ir (u : Strand) (key : Nat) (p : Word) : (u.goto key p).ir = u.ir := rfl
@[simp] theorem strand_goto_irLen (u : Strand) (key : Nat) (p : Word) : (u.goto key p).irLen = u.irLen := rfl
@[simp] theorem strand_goto_fetchStop (u : Strand) (key : Nat) (p : Word) : (u.goto key p).fetchStop = u.fetchStop := rfl
@[simp] theorem strand_goto_busy (u : Strand) (key : Nat) (p : Word) : (u.goto key p).busy = u.busy := rfl
@[simp] theorem strand_goto_start (u : Strand) (key : Nat) (p : Word) : (u.goto key p).start = u.start := rfl
@[simp] theorem strand_goto_code (u : Strand) (key : Nat) (p : Word) : (u.goto key p).code = u.code := rfl
@[simp] theorem strand_goto_haltReq (u : Strand) (key : Nat) (p : Word) : (u.goto key p).haltReq = u.haltReq := rfl
@[simp] theorem strand_goto_imem (u : Strand) (key : Nat) (p : Word) : (u.goto key p).imem = u.imem := rfl
@[simp] theorem strand_goto_pc (u : Strand) (key : Nat) (p : Word) : (u.goto key p).pc = pcValue key p := rfl
@[simp] theorem strand_goto_hold (u : Strand) (key : Nat) (p : Word) : (u.goto key p).hold = none := rfl
@[simp] theorem strand_goto_wait (u : Strand) (key : Nat) (p : Word) : (u.goto key p).wait = none := rfl
@[simp] theorem strand_goto_haltWait (u : Strand) (key : Nat) (p : Word) : (u.goto key p).haltWait = none := rfl
@[simp] theorem strand_goto_blocks (u : Strand) (key : Nat) (p : Word) : (u.goto key p).blocks = [] := rfl
@[simp] theorem strand_setX_ranBefore (u : Strand) (d : Fin 32) (w : Word) : (u.setX d w).ranBefore = u.ranBefore := by unfold Strand.setX; split <;> rfl
@[simp] theorem strand_setX_pc (u : Strand) (d : Fin 32) (w : Word) : (u.setX d w).pc = u.pc := by unfold Strand.setX; split <;> rfl
@[simp] theorem strand_setX_f (u : Strand) (d : Fin 32) (w : Word) : (u.setX d w).f = u.f := by unfold Strand.setX; split <;> rfl
@[simp] theorem strand_setX_v (u : Strand) (d : Fin 32) (w : Word) : (u.setX d w).v = u.v := by unfold Strand.setX; split <;> rfl
@[simp] theorem strand_setX_m (u : Strand) (d : Fin 32) (w : Word) : (u.setX d w).m = u.m := by unfold Strand.setX; split <;> rfl
@[simp] theorem strand_setX_tm (u : Strand) (d : Fin 32) (w : Word) : (u.setX d w).tm = u.tm := by unfold Strand.setX; split <;> rfl
@[simp] theorem strand_setX_vl (u : Strand) (d : Fin 32) (w : Word) : (u.setX d w).vl = u.vl := by unfold Strand.setX; split <;> rfl
@[simp] theorem strand_setX_loads (u : Strand) (d : Fin 32) (w : Word) : (u.setX d w).loads = u.loads := by unfold Strand.setX; split <;> rfl
@[simp] theorem strand_setX_stores (u : Strand) (d : Fin 32) (w : Word) : (u.setX d w).stores = u.stores := by unfold Strand.setX; split <;> rfl
@[simp] theorem strand_setX_copies (u : Strand) (d : Fin 32) (w : Word) : (u.setX d w).copies = u.copies := by unfold Strand.setX; split <;> rfl
@[simp] theorem strand_setX_tiles (u : Strand) (d : Fin 32) (w : Word) : (u.setX d w).tiles = u.tiles := by unfold Strand.setX; split <;> rfl
@[simp] theorem strand_setX_msgs (u : Strand) (d : Fin 32) (w : Word) : (u.setX d w).msgs = u.msgs := by unfold Strand.setX; split <;> rfl
@[simp] theorem strand_setX_ply (u : Strand) (d : Fin 32) (w : Word) : (u.setX d w).ply = u.ply := by unfold Strand.setX; split <;> rfl
@[simp] theorem strand_setX_plyq (u : Strand) (d : Fin 32) (w : Word) : (u.setX d w).plyq = u.plyq := by unfold Strand.setX; split <;> rfl
@[simp] theorem strand_setX_fpctl (u : Strand) (d : Fin 32) (w : Word) : (u.setX d w).fpctl = u.fpctl := by unfold Strand.setX; split <;> rfl
@[simp] theorem strand_setX_fpflg (u : Strand) (d : Fin 32) (w : Word) : (u.setX d w).fpflg = u.fpflg := by unfold Strand.setX; split <;> rfl
@[simp] theorem strand_setX_rngst (u : Strand) (d : Fin 32) (w : Word) : (u.setX d w).rngst = u.rngst := by unfold Strand.setX; split <;> rfl
@[simp] theorem strand_setX_last (u : Strand) (d : Fin 32) (w : Word) : (u.setX d w).last = u.last := by unfold Strand.setX; split <;> rfl
@[simp] theorem strand_setX_major (u : Strand) (d : Fin 32) (w : Word) : (u.setX d w).major = u.major := by unfold Strand.setX; split <;> rfl
@[simp] theorem strand_setX_err (u : Strand) (d : Fin 32) (w : Word) : (u.setX d w).err = u.err := by unfold Strand.setX; split <;> rfl
@[simp] theorem strand_setX_engerr (u : Strand) (d : Fin 32) (w : Word) : (u.setX d w).engerr = u.engerr := by unfold Strand.setX; split <;> rfl
@[simp] theorem strand_setX_msgcls (u : Strand) (d : Fin 32) (w : Word) : (u.setX d w).msgcls = u.msgcls := by unfold Strand.setX; split <;> rfl
@[simp] theorem strand_setX_msgsrc (u : Strand) (d : Fin 32) (w : Word) : (u.setX d w).msgsrc = u.msgsrc := by unfold Strand.setX; split <;> rfl
@[simp] theorem strand_setX_msgts (u : Strand) (d : Fin 32) (w : Word) : (u.setX d w).msgts = u.msgts := by unfold Strand.setX; split <;> rfl
@[simp] theorem strand_setX_msgrpl (u : Strand) (d : Fin 32) (w : Word) : (u.setX d w).msgrpl = u.msgrpl := by unfold Strand.setX; split <;> rfl
@[simp] theorem strand_setX_recfree (u : Strand) (d : Fin 32) (w : Word) : (u.setX d w).recfree = u.recfree := by unfold Strand.setX; split <;> rfl
@[simp] theorem strand_setX_held (u : Strand) (d : Fin 32) (w : Word) : (u.setX d w).held = u.held := by unfold Strand.setX; split <;> rfl
@[simp] theorem strand_setX_heldSid (u : Strand) (d : Fin 32) (w : Word) : (u.setX d w).heldSid = u.heldSid := by unfold Strand.setX; split <;> rfl
@[simp] theorem strand_setX_heldSince (u : Strand) (d : Fin 32) (w : Word) : (u.setX d w).heldSince = u.heldSince := by unfold Strand.setX; split <;> rfl
@[simp] theorem strand_setX_worker (u : Strand) (d : Fin 32) (w : Word) : (u.setX d w).worker = u.worker := by unfold Strand.setX; split <;> rfl
@[simp] theorem strand_setX_lvl (u : Strand) (d : Fin 32) (w : Word) : (u.setX d w).lvl = u.lvl := by unfold Strand.setX; split <;> rfl
@[simp] theorem strand_setX_st (u : Strand) (d : Fin 32) (w : Word) : (u.setX d w).st = u.st := by unfold Strand.setX; split <;> rfl
@[simp] theorem strand_setX_word1 (u : Strand) (d : Fin 32) (w : Word) : (u.setX d w).word1 = u.word1 := by unfold Strand.setX; split <;> rfl
@[simp] theorem strand_setX_wait (u : Strand) (d : Fin 32) (w : Word) : (u.setX d w).wait = u.wait := by unfold Strand.setX; split <;> rfl
@[simp] theorem strand_setX_hold (u : Strand) (d : Fin 32) (w : Word) : (u.setX d w).hold = u.hold := by unfold Strand.setX; split <;> rfl
@[simp] theorem strand_setX_remote (u : Strand) (d : Fin 32) (w : Word) : (u.setX d w).remote = u.remote := by unfold Strand.setX; split <;> rfl
@[simp] theorem strand_setX_event (u : Strand) (d : Fin 32) (w : Word) : (u.setX d w).event = u.event := by unfold Strand.setX; split <;> rfl
@[simp] theorem strand_setX_posted (u : Strand) (d : Fin 32) (w : Word) : (u.setX d w).posted = u.posted := by unfold Strand.setX; split <;> rfl
@[simp] theorem strand_setX_awaits (u : Strand) (d : Fin 32) (w : Word) : (u.setX d w).awaits = u.awaits := by unfold Strand.setX; split <;> rfl
@[simp] theorem strand_setX_blocks (u : Strand) (d : Fin 32) (w : Word) : (u.setX d w).blocks = u.blocks := by unfold Strand.setX; split <;> rfl
@[simp] theorem strand_setX_taken (u : Strand) (d : Fin 32) (w : Word) : (u.setX d w).taken = u.taken := by unfold Strand.setX; split <;> rfl
@[simp] theorem strand_setX_absentAt (u : Strand) (d : Fin 32) (w : Word) : (u.setX d w).absentAt = u.absentAt := by unfold Strand.setX; split <;> rfl
@[simp] theorem strand_setX_vec (u : Strand) (d : Fin 32) (w : Word) : (u.setX d w).vec = u.vec := by unfold Strand.setX; split <;> rfl
@[simp] theorem strand_setX_wid (u : Strand) (d : Fin 32) (w : Word) : (u.setX d w).wid = u.wid := by unfold Strand.setX; split <;> rfl
@[simp] theorem strand_setX_inMsg (u : Strand) (d : Fin 32) (w : Word) : (u.setX d w).inMsg = u.inMsg := by unfold Strand.setX; split <;> rfl
@[simp] theorem strand_setX_handlerSince (u : Strand) (d : Fin 32) (w : Word) : (u.setX d w).handlerSince = u.handlerSince := by unfold Strand.setX; split <;> rfl
@[simp] theorem strand_setX_wwait (u : Strand) (d : Fin 32) (w : Word) : (u.setX d w).wwait = u.wwait := by unfold Strand.setX; split <;> rfl
@[simp] theorem strand_setX_lockTried (u : Strand) (d : Fin 32) (w : Word) : (u.setX d w).lockTried = u.lockTried := by unfold Strand.setX; split <;> rfl
@[simp] theorem strand_setX_pts (u : Strand) (d : Fin 32) (w : Word) : (u.setX d w).pts = u.pts := by unfold Strand.setX; split <;> rfl
@[simp] theorem strand_setX_halted (u : Strand) (d : Fin 32) (w : Word) : (u.setX d w).halted = u.halted := by unfold Strand.setX; split <;> rfl
@[simp] theorem strand_setX_haltedAt (u : Strand) (d : Fin 32) (w : Word) : (u.setX d w).haltedAt = u.haltedAt := by unfold Strand.setX; split <;> rfl
@[simp] theorem strand_setX_haltWait (u : Strand) (d : Fin 32) (w : Word) : (u.setX d w).haltWait = u.haltWait := by unfold Strand.setX; split <;> rfl
@[simp] theorem strand_setX_ir (u : Strand) (d : Fin 32) (w : Word) : (u.setX d w).ir = u.ir := by unfold Strand.setX; split <;> rfl
@[simp] theorem strand_setX_irLen (u : Strand) (d : Fin 32) (w : Word) : (u.setX d w).irLen = u.irLen := by unfold Strand.setX; split <;> rfl
@[simp] theorem strand_setX_fetchStop (u : Strand) (d : Fin 32) (w : Word) : (u.setX d w).fetchStop = u.fetchStop := by unfold Strand.setX; split <;> rfl
@[simp] theorem strand_setX_busy (u : Strand) (d : Fin 32) (w : Word) : (u.setX d w).busy = u.busy := by unfold Strand.setX; split <;> rfl
@[simp] theorem strand_setX_start (u : Strand) (d : Fin 32) (w : Word) : (u.setX d w).start = u.start := by unfold Strand.setX; split <;> rfl
@[simp] theorem strand_setX_code (u : Strand) (d : Fin 32) (w : Word) : (u.setX d w).code = u.code := by unfold Strand.setX; split <;> rfl
@[simp] theorem strand_setX_haltReq (u : Strand) (d : Fin 32) (w : Word) : (u.setX d w).haltReq = u.haltReq := by unfold Strand.setX; split <;> rfl
@[simp] theorem strand_setX_imem (u : Strand) (d : Fin 32) (w : Word) : (u.setX d w).imem = u.imem := by unfold Strand.setX; split <;> rfl
@[simp] theorem strand_setF_ranBefore (u : Strand) (d : Fin 32) (w : Word) : (u.setF d w).ranBefore = u.ranBefore := rfl
@[simp] theorem strand_setF_pc (u : Strand) (d : Fin 32) (w : Word) : (u.setF d w).pc = u.pc := rfl
@[simp] theorem strand_setF_x (u : Strand) (d : Fin 32) (w : Word) : (u.setF d w).x = u.x := rfl
@[simp] theorem strand_setF_v (u : Strand) (d : Fin 32) (w : Word) : (u.setF d w).v = u.v := rfl
@[simp] theorem strand_setF_m (u : Strand) (d : Fin 32) (w : Word) : (u.setF d w).m = u.m := rfl
@[simp] theorem strand_setF_tm (u : Strand) (d : Fin 32) (w : Word) : (u.setF d w).tm = u.tm := rfl
@[simp] theorem strand_setF_vl (u : Strand) (d : Fin 32) (w : Word) : (u.setF d w).vl = u.vl := rfl
@[simp] theorem strand_setF_loads (u : Strand) (d : Fin 32) (w : Word) : (u.setF d w).loads = u.loads := rfl
@[simp] theorem strand_setF_stores (u : Strand) (d : Fin 32) (w : Word) : (u.setF d w).stores = u.stores := rfl
@[simp] theorem strand_setF_copies (u : Strand) (d : Fin 32) (w : Word) : (u.setF d w).copies = u.copies := rfl
@[simp] theorem strand_setF_tiles (u : Strand) (d : Fin 32) (w : Word) : (u.setF d w).tiles = u.tiles := rfl
@[simp] theorem strand_setF_msgs (u : Strand) (d : Fin 32) (w : Word) : (u.setF d w).msgs = u.msgs := rfl
@[simp] theorem strand_setF_ply (u : Strand) (d : Fin 32) (w : Word) : (u.setF d w).ply = u.ply := rfl
@[simp] theorem strand_setF_plyq (u : Strand) (d : Fin 32) (w : Word) : (u.setF d w).plyq = u.plyq := rfl
@[simp] theorem strand_setF_fpctl (u : Strand) (d : Fin 32) (w : Word) : (u.setF d w).fpctl = u.fpctl := rfl
@[simp] theorem strand_setF_fpflg (u : Strand) (d : Fin 32) (w : Word) : (u.setF d w).fpflg = u.fpflg := rfl
@[simp] theorem strand_setF_rngst (u : Strand) (d : Fin 32) (w : Word) : (u.setF d w).rngst = u.rngst := rfl
@[simp] theorem strand_setF_last (u : Strand) (d : Fin 32) (w : Word) : (u.setF d w).last = u.last := rfl
@[simp] theorem strand_setF_major (u : Strand) (d : Fin 32) (w : Word) : (u.setF d w).major = u.major := rfl
@[simp] theorem strand_setF_err (u : Strand) (d : Fin 32) (w : Word) : (u.setF d w).err = u.err := rfl
@[simp] theorem strand_setF_engerr (u : Strand) (d : Fin 32) (w : Word) : (u.setF d w).engerr = u.engerr := rfl
@[simp] theorem strand_setF_msgcls (u : Strand) (d : Fin 32) (w : Word) : (u.setF d w).msgcls = u.msgcls := rfl
@[simp] theorem strand_setF_msgsrc (u : Strand) (d : Fin 32) (w : Word) : (u.setF d w).msgsrc = u.msgsrc := rfl
@[simp] theorem strand_setF_msgts (u : Strand) (d : Fin 32) (w : Word) : (u.setF d w).msgts = u.msgts := rfl
@[simp] theorem strand_setF_msgrpl (u : Strand) (d : Fin 32) (w : Word) : (u.setF d w).msgrpl = u.msgrpl := rfl
@[simp] theorem strand_setF_recfree (u : Strand) (d : Fin 32) (w : Word) : (u.setF d w).recfree = u.recfree := rfl
@[simp] theorem strand_setF_held (u : Strand) (d : Fin 32) (w : Word) : (u.setF d w).held = u.held := rfl
@[simp] theorem strand_setF_heldSid (u : Strand) (d : Fin 32) (w : Word) : (u.setF d w).heldSid = u.heldSid := rfl
@[simp] theorem strand_setF_heldSince (u : Strand) (d : Fin 32) (w : Word) : (u.setF d w).heldSince = u.heldSince := rfl
@[simp] theorem strand_setF_worker (u : Strand) (d : Fin 32) (w : Word) : (u.setF d w).worker = u.worker := rfl
@[simp] theorem strand_setF_lvl (u : Strand) (d : Fin 32) (w : Word) : (u.setF d w).lvl = u.lvl := rfl
@[simp] theorem strand_setF_st (u : Strand) (d : Fin 32) (w : Word) : (u.setF d w).st = u.st := rfl
@[simp] theorem strand_setF_word1 (u : Strand) (d : Fin 32) (w : Word) : (u.setF d w).word1 = u.word1 := rfl
@[simp] theorem strand_setF_wait (u : Strand) (d : Fin 32) (w : Word) : (u.setF d w).wait = u.wait := rfl
@[simp] theorem strand_setF_hold (u : Strand) (d : Fin 32) (w : Word) : (u.setF d w).hold = u.hold := rfl
@[simp] theorem strand_setF_remote (u : Strand) (d : Fin 32) (w : Word) : (u.setF d w).remote = u.remote := rfl
@[simp] theorem strand_setF_event (u : Strand) (d : Fin 32) (w : Word) : (u.setF d w).event = u.event := rfl
@[simp] theorem strand_setF_posted (u : Strand) (d : Fin 32) (w : Word) : (u.setF d w).posted = u.posted := rfl
@[simp] theorem strand_setF_pend (u : Strand) (d : Fin 32) (w : Word) : (u.setF d w).pend = u.pend := rfl
@[simp] theorem strand_setF_awaits (u : Strand) (d : Fin 32) (w : Word) : (u.setF d w).awaits = u.awaits := rfl
@[simp] theorem strand_setF_blocks (u : Strand) (d : Fin 32) (w : Word) : (u.setF d w).blocks = u.blocks := rfl
@[simp] theorem strand_setF_taken (u : Strand) (d : Fin 32) (w : Word) : (u.setF d w).taken = u.taken := rfl
@[simp] theorem strand_setF_absentAt (u : Strand) (d : Fin 32) (w : Word) : (u.setF d w).absentAt = u.absentAt := rfl
@[simp] theorem strand_setF_vec (u : Strand) (d : Fin 32) (w : Word) : (u.setF d w).vec = u.vec := rfl
@[simp] theorem strand_setF_wid (u : Strand) (d : Fin 32) (w : Word) : (u.setF d w).wid = u.wid := rfl
@[simp] theorem strand_setF_inMsg (u : Strand) (d : Fin 32) (w : Word) : (u.setF d w).inMsg = u.inMsg := rfl
@[simp] theorem strand_setF_handlerSince (u : Strand) (d : Fin 32) (w : Word) : (u.setF d w).handlerSince = u.handlerSince := rfl
@[simp] theorem strand_setF_wwait (u : Strand) (d : Fin 32) (w : Word) : (u.setF d w).wwait = u.wwait := rfl
@[simp] theorem strand_setF_lockTried (u : Strand) (d : Fin 32) (w : Word) : (u.setF d w).lockTried = u.lockTried := rfl
@[simp] theorem strand_setF_pts (u : Strand) (d : Fin 32) (w : Word) : (u.setF d w).pts = u.pts := rfl
@[simp] theorem strand_setF_halted (u : Strand) (d : Fin 32) (w : Word) : (u.setF d w).halted = u.halted := rfl
@[simp] theorem strand_setF_haltedAt (u : Strand) (d : Fin 32) (w : Word) : (u.setF d w).haltedAt = u.haltedAt := rfl
@[simp] theorem strand_setF_haltWait (u : Strand) (d : Fin 32) (w : Word) : (u.setF d w).haltWait = u.haltWait := rfl
@[simp] theorem strand_setF_ir (u : Strand) (d : Fin 32) (w : Word) : (u.setF d w).ir = u.ir := rfl
@[simp] theorem strand_setF_irLen (u : Strand) (d : Fin 32) (w : Word) : (u.setF d w).irLen = u.irLen := rfl
@[simp] theorem strand_setF_fetchStop (u : Strand) (d : Fin 32) (w : Word) : (u.setF d w).fetchStop = u.fetchStop := rfl
@[simp] theorem strand_setF_busy (u : Strand) (d : Fin 32) (w : Word) : (u.setF d w).busy = u.busy := rfl
@[simp] theorem strand_setF_start (u : Strand) (d : Fin 32) (w : Word) : (u.setF d w).start = u.start := rfl
@[simp] theorem strand_setF_code (u : Strand) (d : Fin 32) (w : Word) : (u.setF d w).code = u.code := rfl
@[simp] theorem strand_setF_haltReq (u : Strand) (d : Fin 32) (w : Word) : (u.setF d w).haltReq = u.haltReq := rfl
@[simp] theorem strand_setF_imem (u : Strand) (d : Fin 32) (w : Word) : (u.setF d w).imem = u.imem := rfl
@[simp] theorem strand_setV_ranBefore (u : Strand) (d : Fin 32) (w : Line) : (u.setV d w).ranBefore = u.ranBefore := rfl
@[simp] theorem strand_setV_pc (u : Strand) (d : Fin 32) (w : Line) : (u.setV d w).pc = u.pc := rfl
@[simp] theorem strand_setV_x (u : Strand) (d : Fin 32) (w : Line) : (u.setV d w).x = u.x := rfl
@[simp] theorem strand_setV_f (u : Strand) (d : Fin 32) (w : Line) : (u.setV d w).f = u.f := rfl
@[simp] theorem strand_setV_m (u : Strand) (d : Fin 32) (w : Line) : (u.setV d w).m = u.m := rfl
@[simp] theorem strand_setV_tm (u : Strand) (d : Fin 32) (w : Line) : (u.setV d w).tm = u.tm := rfl
@[simp] theorem strand_setV_vl (u : Strand) (d : Fin 32) (w : Line) : (u.setV d w).vl = u.vl := rfl
@[simp] theorem strand_setV_loads (u : Strand) (d : Fin 32) (w : Line) : (u.setV d w).loads = u.loads := rfl
@[simp] theorem strand_setV_stores (u : Strand) (d : Fin 32) (w : Line) : (u.setV d w).stores = u.stores := rfl
@[simp] theorem strand_setV_copies (u : Strand) (d : Fin 32) (w : Line) : (u.setV d w).copies = u.copies := rfl
@[simp] theorem strand_setV_tiles (u : Strand) (d : Fin 32) (w : Line) : (u.setV d w).tiles = u.tiles := rfl
@[simp] theorem strand_setV_msgs (u : Strand) (d : Fin 32) (w : Line) : (u.setV d w).msgs = u.msgs := rfl
@[simp] theorem strand_setV_ply (u : Strand) (d : Fin 32) (w : Line) : (u.setV d w).ply = u.ply := rfl
@[simp] theorem strand_setV_plyq (u : Strand) (d : Fin 32) (w : Line) : (u.setV d w).plyq = u.plyq := rfl
@[simp] theorem strand_setV_fpctl (u : Strand) (d : Fin 32) (w : Line) : (u.setV d w).fpctl = u.fpctl := rfl
@[simp] theorem strand_setV_fpflg (u : Strand) (d : Fin 32) (w : Line) : (u.setV d w).fpflg = u.fpflg := rfl
@[simp] theorem strand_setV_rngst (u : Strand) (d : Fin 32) (w : Line) : (u.setV d w).rngst = u.rngst := rfl
@[simp] theorem strand_setV_last (u : Strand) (d : Fin 32) (w : Line) : (u.setV d w).last = u.last := rfl
@[simp] theorem strand_setV_major (u : Strand) (d : Fin 32) (w : Line) : (u.setV d w).major = u.major := rfl
@[simp] theorem strand_setV_err (u : Strand) (d : Fin 32) (w : Line) : (u.setV d w).err = u.err := rfl
@[simp] theorem strand_setV_engerr (u : Strand) (d : Fin 32) (w : Line) : (u.setV d w).engerr = u.engerr := rfl
@[simp] theorem strand_setV_msgcls (u : Strand) (d : Fin 32) (w : Line) : (u.setV d w).msgcls = u.msgcls := rfl
@[simp] theorem strand_setV_msgsrc (u : Strand) (d : Fin 32) (w : Line) : (u.setV d w).msgsrc = u.msgsrc := rfl
@[simp] theorem strand_setV_msgts (u : Strand) (d : Fin 32) (w : Line) : (u.setV d w).msgts = u.msgts := rfl
@[simp] theorem strand_setV_msgrpl (u : Strand) (d : Fin 32) (w : Line) : (u.setV d w).msgrpl = u.msgrpl := rfl
@[simp] theorem strand_setV_recfree (u : Strand) (d : Fin 32) (w : Line) : (u.setV d w).recfree = u.recfree := rfl
@[simp] theorem strand_setV_held (u : Strand) (d : Fin 32) (w : Line) : (u.setV d w).held = u.held := rfl
@[simp] theorem strand_setV_heldSid (u : Strand) (d : Fin 32) (w : Line) : (u.setV d w).heldSid = u.heldSid := rfl
@[simp] theorem strand_setV_heldSince (u : Strand) (d : Fin 32) (w : Line) : (u.setV d w).heldSince = u.heldSince := rfl
@[simp] theorem strand_setV_worker (u : Strand) (d : Fin 32) (w : Line) : (u.setV d w).worker = u.worker := rfl
@[simp] theorem strand_setV_lvl (u : Strand) (d : Fin 32) (w : Line) : (u.setV d w).lvl = u.lvl := rfl
@[simp] theorem strand_setV_st (u : Strand) (d : Fin 32) (w : Line) : (u.setV d w).st = u.st := rfl
@[simp] theorem strand_setV_word1 (u : Strand) (d : Fin 32) (w : Line) : (u.setV d w).word1 = u.word1 := rfl
@[simp] theorem strand_setV_wait (u : Strand) (d : Fin 32) (w : Line) : (u.setV d w).wait = u.wait := rfl
@[simp] theorem strand_setV_hold (u : Strand) (d : Fin 32) (w : Line) : (u.setV d w).hold = u.hold := rfl
@[simp] theorem strand_setV_remote (u : Strand) (d : Fin 32) (w : Line) : (u.setV d w).remote = u.remote := rfl
@[simp] theorem strand_setV_event (u : Strand) (d : Fin 32) (w : Line) : (u.setV d w).event = u.event := rfl
@[simp] theorem strand_setV_posted (u : Strand) (d : Fin 32) (w : Line) : (u.setV d w).posted = u.posted := rfl
@[simp] theorem strand_setV_awaits (u : Strand) (d : Fin 32) (w : Line) : (u.setV d w).awaits = u.awaits := rfl
@[simp] theorem strand_setV_blocks (u : Strand) (d : Fin 32) (w : Line) : (u.setV d w).blocks = u.blocks := rfl
@[simp] theorem strand_setV_taken (u : Strand) (d : Fin 32) (w : Line) : (u.setV d w).taken = u.taken := rfl
@[simp] theorem strand_setV_absentAt (u : Strand) (d : Fin 32) (w : Line) : (u.setV d w).absentAt = u.absentAt := rfl
@[simp] theorem strand_setV_vec (u : Strand) (d : Fin 32) (w : Line) : (u.setV d w).vec = u.vec := rfl
@[simp] theorem strand_setV_wid (u : Strand) (d : Fin 32) (w : Line) : (u.setV d w).wid = u.wid := rfl
@[simp] theorem strand_setV_inMsg (u : Strand) (d : Fin 32) (w : Line) : (u.setV d w).inMsg = u.inMsg := rfl
@[simp] theorem strand_setV_handlerSince (u : Strand) (d : Fin 32) (w : Line) : (u.setV d w).handlerSince = u.handlerSince := rfl
@[simp] theorem strand_setV_wwait (u : Strand) (d : Fin 32) (w : Line) : (u.setV d w).wwait = u.wwait := rfl
@[simp] theorem strand_setV_lockTried (u : Strand) (d : Fin 32) (w : Line) : (u.setV d w).lockTried = u.lockTried := rfl
@[simp] theorem strand_setV_pts (u : Strand) (d : Fin 32) (w : Line) : (u.setV d w).pts = u.pts := rfl
@[simp] theorem strand_setV_halted (u : Strand) (d : Fin 32) (w : Line) : (u.setV d w).halted = u.halted := rfl
@[simp] theorem strand_setV_haltedAt (u : Strand) (d : Fin 32) (w : Line) : (u.setV d w).haltedAt = u.haltedAt := rfl
@[simp] theorem strand_setV_haltWait (u : Strand) (d : Fin 32) (w : Line) : (u.setV d w).haltWait = u.haltWait := rfl
@[simp] theorem strand_setV_ir (u : Strand) (d : Fin 32) (w : Line) : (u.setV d w).ir = u.ir := rfl
@[simp] theorem strand_setV_irLen (u : Strand) (d : Fin 32) (w : Line) : (u.setV d w).irLen = u.irLen := rfl
@[simp] theorem strand_setV_fetchStop (u : Strand) (d : Fin 32) (w : Line) : (u.setV d w).fetchStop = u.fetchStop := rfl
@[simp] theorem strand_setV_busy (u : Strand) (d : Fin 32) (w : Line) : (u.setV d w).busy = u.busy := rfl
@[simp] theorem strand_setV_start (u : Strand) (d : Fin 32) (w : Line) : (u.setV d w).start = u.start := rfl
@[simp] theorem strand_setV_code (u : Strand) (d : Fin 32) (w : Line) : (u.setV d w).code = u.code := rfl
@[simp] theorem strand_setV_haltReq (u : Strand) (d : Fin 32) (w : Line) : (u.setV d w).haltReq = u.haltReq := rfl
@[simp] theorem strand_setV_imem (u : Strand) (d : Fin 32) (w : Line) : (u.setV d w).imem = u.imem := rfl
@[simp] theorem strand_setM_ranBefore (u : Strand) (d : Fin 8) (w : Word) : (u.setM d w).ranBefore = u.ranBefore := by unfold Strand.setM; split <;> rfl
@[simp] theorem strand_setM_pc (u : Strand) (d : Fin 8) (w : Word) : (u.setM d w).pc = u.pc := by unfold Strand.setM; split <;> rfl
@[simp] theorem strand_setM_x (u : Strand) (d : Fin 8) (w : Word) : (u.setM d w).x = u.x := by unfold Strand.setM; split <;> rfl
@[simp] theorem strand_setM_f (u : Strand) (d : Fin 8) (w : Word) : (u.setM d w).f = u.f := by unfold Strand.setM; split <;> rfl
@[simp] theorem strand_setM_v (u : Strand) (d : Fin 8) (w : Word) : (u.setM d w).v = u.v := by unfold Strand.setM; split <;> rfl
@[simp] theorem strand_setM_tm (u : Strand) (d : Fin 8) (w : Word) : (u.setM d w).tm = u.tm := by unfold Strand.setM; split <;> rfl
@[simp] theorem strand_setM_vl (u : Strand) (d : Fin 8) (w : Word) : (u.setM d w).vl = u.vl := by unfold Strand.setM; split <;> rfl
@[simp] theorem strand_setM_loads (u : Strand) (d : Fin 8) (w : Word) : (u.setM d w).loads = u.loads := by unfold Strand.setM; split <;> rfl
@[simp] theorem strand_setM_stores (u : Strand) (d : Fin 8) (w : Word) : (u.setM d w).stores = u.stores := by unfold Strand.setM; split <;> rfl
@[simp] theorem strand_setM_copies (u : Strand) (d : Fin 8) (w : Word) : (u.setM d w).copies = u.copies := by unfold Strand.setM; split <;> rfl
@[simp] theorem strand_setM_tiles (u : Strand) (d : Fin 8) (w : Word) : (u.setM d w).tiles = u.tiles := by unfold Strand.setM; split <;> rfl
@[simp] theorem strand_setM_msgs (u : Strand) (d : Fin 8) (w : Word) : (u.setM d w).msgs = u.msgs := by unfold Strand.setM; split <;> rfl
@[simp] theorem strand_setM_ply (u : Strand) (d : Fin 8) (w : Word) : (u.setM d w).ply = u.ply := by unfold Strand.setM; split <;> rfl
@[simp] theorem strand_setM_plyq (u : Strand) (d : Fin 8) (w : Word) : (u.setM d w).plyq = u.plyq := by unfold Strand.setM; split <;> rfl
@[simp] theorem strand_setM_fpctl (u : Strand) (d : Fin 8) (w : Word) : (u.setM d w).fpctl = u.fpctl := by unfold Strand.setM; split <;> rfl
@[simp] theorem strand_setM_fpflg (u : Strand) (d : Fin 8) (w : Word) : (u.setM d w).fpflg = u.fpflg := by unfold Strand.setM; split <;> rfl
@[simp] theorem strand_setM_rngst (u : Strand) (d : Fin 8) (w : Word) : (u.setM d w).rngst = u.rngst := by unfold Strand.setM; split <;> rfl
@[simp] theorem strand_setM_last (u : Strand) (d : Fin 8) (w : Word) : (u.setM d w).last = u.last := by unfold Strand.setM; split <;> rfl
@[simp] theorem strand_setM_major (u : Strand) (d : Fin 8) (w : Word) : (u.setM d w).major = u.major := by unfold Strand.setM; split <;> rfl
@[simp] theorem strand_setM_err (u : Strand) (d : Fin 8) (w : Word) : (u.setM d w).err = u.err := by unfold Strand.setM; split <;> rfl
@[simp] theorem strand_setM_engerr (u : Strand) (d : Fin 8) (w : Word) : (u.setM d w).engerr = u.engerr := by unfold Strand.setM; split <;> rfl
@[simp] theorem strand_setM_msgcls (u : Strand) (d : Fin 8) (w : Word) : (u.setM d w).msgcls = u.msgcls := by unfold Strand.setM; split <;> rfl
@[simp] theorem strand_setM_msgsrc (u : Strand) (d : Fin 8) (w : Word) : (u.setM d w).msgsrc = u.msgsrc := by unfold Strand.setM; split <;> rfl
@[simp] theorem strand_setM_msgts (u : Strand) (d : Fin 8) (w : Word) : (u.setM d w).msgts = u.msgts := by unfold Strand.setM; split <;> rfl
@[simp] theorem strand_setM_msgrpl (u : Strand) (d : Fin 8) (w : Word) : (u.setM d w).msgrpl = u.msgrpl := by unfold Strand.setM; split <;> rfl
@[simp] theorem strand_setM_recfree (u : Strand) (d : Fin 8) (w : Word) : (u.setM d w).recfree = u.recfree := by unfold Strand.setM; split <;> rfl
@[simp] theorem strand_setM_held (u : Strand) (d : Fin 8) (w : Word) : (u.setM d w).held = u.held := by unfold Strand.setM; split <;> rfl
@[simp] theorem strand_setM_heldSid (u : Strand) (d : Fin 8) (w : Word) : (u.setM d w).heldSid = u.heldSid := by unfold Strand.setM; split <;> rfl
@[simp] theorem strand_setM_heldSince (u : Strand) (d : Fin 8) (w : Word) : (u.setM d w).heldSince = u.heldSince := by unfold Strand.setM; split <;> rfl
@[simp] theorem strand_setM_worker (u : Strand) (d : Fin 8) (w : Word) : (u.setM d w).worker = u.worker := by unfold Strand.setM; split <;> rfl
@[simp] theorem strand_setM_lvl (u : Strand) (d : Fin 8) (w : Word) : (u.setM d w).lvl = u.lvl := by unfold Strand.setM; split <;> rfl
@[simp] theorem strand_setM_st (u : Strand) (d : Fin 8) (w : Word) : (u.setM d w).st = u.st := by unfold Strand.setM; split <;> rfl
@[simp] theorem strand_setM_word1 (u : Strand) (d : Fin 8) (w : Word) : (u.setM d w).word1 = u.word1 := by unfold Strand.setM; split <;> rfl
@[simp] theorem strand_setM_wait (u : Strand) (d : Fin 8) (w : Word) : (u.setM d w).wait = u.wait := by unfold Strand.setM; split <;> rfl
@[simp] theorem strand_setM_hold (u : Strand) (d : Fin 8) (w : Word) : (u.setM d w).hold = u.hold := by unfold Strand.setM; split <;> rfl
@[simp] theorem strand_setM_remote (u : Strand) (d : Fin 8) (w : Word) : (u.setM d w).remote = u.remote := by unfold Strand.setM; split <;> rfl
@[simp] theorem strand_setM_event (u : Strand) (d : Fin 8) (w : Word) : (u.setM d w).event = u.event := by unfold Strand.setM; split <;> rfl
@[simp] theorem strand_setM_posted (u : Strand) (d : Fin 8) (w : Word) : (u.setM d w).posted = u.posted := by unfold Strand.setM; split <;> rfl
@[simp] theorem strand_setM_pend (u : Strand) (d : Fin 8) (w : Word) : (u.setM d w).pend = u.pend := by unfold Strand.setM; split <;> rfl
@[simp] theorem strand_setM_awaits (u : Strand) (d : Fin 8) (w : Word) : (u.setM d w).awaits = u.awaits := by unfold Strand.setM; split <;> rfl
@[simp] theorem strand_setM_blocks (u : Strand) (d : Fin 8) (w : Word) : (u.setM d w).blocks = u.blocks := by unfold Strand.setM; split <;> rfl
@[simp] theorem strand_setM_taken (u : Strand) (d : Fin 8) (w : Word) : (u.setM d w).taken = u.taken := by unfold Strand.setM; split <;> rfl
@[simp] theorem strand_setM_absentAt (u : Strand) (d : Fin 8) (w : Word) : (u.setM d w).absentAt = u.absentAt := by unfold Strand.setM; split <;> rfl
@[simp] theorem strand_setM_vec (u : Strand) (d : Fin 8) (w : Word) : (u.setM d w).vec = u.vec := by unfold Strand.setM; split <;> rfl
@[simp] theorem strand_setM_wid (u : Strand) (d : Fin 8) (w : Word) : (u.setM d w).wid = u.wid := by unfold Strand.setM; split <;> rfl
@[simp] theorem strand_setM_inMsg (u : Strand) (d : Fin 8) (w : Word) : (u.setM d w).inMsg = u.inMsg := by unfold Strand.setM; split <;> rfl
@[simp] theorem strand_setM_handlerSince (u : Strand) (d : Fin 8) (w : Word) : (u.setM d w).handlerSince = u.handlerSince := by unfold Strand.setM; split <;> rfl
@[simp] theorem strand_setM_wwait (u : Strand) (d : Fin 8) (w : Word) : (u.setM d w).wwait = u.wwait := by unfold Strand.setM; split <;> rfl
@[simp] theorem strand_setM_lockTried (u : Strand) (d : Fin 8) (w : Word) : (u.setM d w).lockTried = u.lockTried := by unfold Strand.setM; split <;> rfl
@[simp] theorem strand_setM_pts (u : Strand) (d : Fin 8) (w : Word) : (u.setM d w).pts = u.pts := by unfold Strand.setM; split <;> rfl
@[simp] theorem strand_setM_halted (u : Strand) (d : Fin 8) (w : Word) : (u.setM d w).halted = u.halted := by unfold Strand.setM; split <;> rfl
@[simp] theorem strand_setM_haltedAt (u : Strand) (d : Fin 8) (w : Word) : (u.setM d w).haltedAt = u.haltedAt := by unfold Strand.setM; split <;> rfl
@[simp] theorem strand_setM_haltWait (u : Strand) (d : Fin 8) (w : Word) : (u.setM d w).haltWait = u.haltWait := by unfold Strand.setM; split <;> rfl
@[simp] theorem strand_setM_ir (u : Strand) (d : Fin 8) (w : Word) : (u.setM d w).ir = u.ir := by unfold Strand.setM; split <;> rfl
@[simp] theorem strand_setM_irLen (u : Strand) (d : Fin 8) (w : Word) : (u.setM d w).irLen = u.irLen := by unfold Strand.setM; split <;> rfl
@[simp] theorem strand_setM_fetchStop (u : Strand) (d : Fin 8) (w : Word) : (u.setM d w).fetchStop = u.fetchStop := by unfold Strand.setM; split <;> rfl
@[simp] theorem strand_setM_busy (u : Strand) (d : Fin 8) (w : Word) : (u.setM d w).busy = u.busy := by unfold Strand.setM; split <;> rfl
@[simp] theorem strand_setM_start (u : Strand) (d : Fin 8) (w : Word) : (u.setM d w).start = u.start := by unfold Strand.setM; split <;> rfl
@[simp] theorem strand_setM_code (u : Strand) (d : Fin 8) (w : Word) : (u.setM d w).code = u.code := by unfold Strand.setM; split <;> rfl
@[simp] theorem strand_setM_haltReq (u : Strand) (d : Fin 8) (w : Word) : (u.setM d w).haltReq = u.haltReq := by unfold Strand.setM; split <;> rfl
@[simp] theorem strand_setM_imem (u : Strand) (d : Fin 8) (w : Word) : (u.setM d w).imem = u.imem := by unfold Strand.setM; split <;> rfl
@[simp] theorem strand_addFlags_ranBefore (u : Strand) (g : Flags) : (u.addFlags g).ranBefore = u.ranBefore := rfl
@[simp] theorem strand_addFlags_pc (u : Strand) (g : Flags) : (u.addFlags g).pc = u.pc := rfl
@[simp] theorem strand_addFlags_x (u : Strand) (g : Flags) : (u.addFlags g).x = u.x := rfl
@[simp] theorem strand_addFlags_f (u : Strand) (g : Flags) : (u.addFlags g).f = u.f := rfl
@[simp] theorem strand_addFlags_v (u : Strand) (g : Flags) : (u.addFlags g).v = u.v := rfl
@[simp] theorem strand_addFlags_m (u : Strand) (g : Flags) : (u.addFlags g).m = u.m := rfl
@[simp] theorem strand_addFlags_tm (u : Strand) (g : Flags) : (u.addFlags g).tm = u.tm := rfl
@[simp] theorem strand_addFlags_vl (u : Strand) (g : Flags) : (u.addFlags g).vl = u.vl := rfl
@[simp] theorem strand_addFlags_loads (u : Strand) (g : Flags) : (u.addFlags g).loads = u.loads := rfl
@[simp] theorem strand_addFlags_stores (u : Strand) (g : Flags) : (u.addFlags g).stores = u.stores := rfl
@[simp] theorem strand_addFlags_copies (u : Strand) (g : Flags) : (u.addFlags g).copies = u.copies := rfl
@[simp] theorem strand_addFlags_tiles (u : Strand) (g : Flags) : (u.addFlags g).tiles = u.tiles := rfl
@[simp] theorem strand_addFlags_msgs (u : Strand) (g : Flags) : (u.addFlags g).msgs = u.msgs := rfl
@[simp] theorem strand_addFlags_ply (u : Strand) (g : Flags) : (u.addFlags g).ply = u.ply := rfl
@[simp] theorem strand_addFlags_plyq (u : Strand) (g : Flags) : (u.addFlags g).plyq = u.plyq := rfl
@[simp] theorem strand_addFlags_fpctl (u : Strand) (g : Flags) : (u.addFlags g).fpctl = u.fpctl := rfl
@[simp] theorem strand_addFlags_rngst (u : Strand) (g : Flags) : (u.addFlags g).rngst = u.rngst := rfl
@[simp] theorem strand_addFlags_last (u : Strand) (g : Flags) : (u.addFlags g).last = u.last := rfl
@[simp] theorem strand_addFlags_major (u : Strand) (g : Flags) : (u.addFlags g).major = u.major := rfl
@[simp] theorem strand_addFlags_err (u : Strand) (g : Flags) : (u.addFlags g).err = u.err := rfl
@[simp] theorem strand_addFlags_engerr (u : Strand) (g : Flags) : (u.addFlags g).engerr = u.engerr := rfl
@[simp] theorem strand_addFlags_msgcls (u : Strand) (g : Flags) : (u.addFlags g).msgcls = u.msgcls := rfl
@[simp] theorem strand_addFlags_msgsrc (u : Strand) (g : Flags) : (u.addFlags g).msgsrc = u.msgsrc := rfl
@[simp] theorem strand_addFlags_msgts (u : Strand) (g : Flags) : (u.addFlags g).msgts = u.msgts := rfl
@[simp] theorem strand_addFlags_msgrpl (u : Strand) (g : Flags) : (u.addFlags g).msgrpl = u.msgrpl := rfl
@[simp] theorem strand_addFlags_recfree (u : Strand) (g : Flags) : (u.addFlags g).recfree = u.recfree := rfl
@[simp] theorem strand_addFlags_held (u : Strand) (g : Flags) : (u.addFlags g).held = u.held := rfl
@[simp] theorem strand_addFlags_heldSid (u : Strand) (g : Flags) : (u.addFlags g).heldSid = u.heldSid := rfl
@[simp] theorem strand_addFlags_heldSince (u : Strand) (g : Flags) : (u.addFlags g).heldSince = u.heldSince := rfl
@[simp] theorem strand_addFlags_worker (u : Strand) (g : Flags) : (u.addFlags g).worker = u.worker := rfl
@[simp] theorem strand_addFlags_lvl (u : Strand) (g : Flags) : (u.addFlags g).lvl = u.lvl := rfl
@[simp] theorem strand_addFlags_st (u : Strand) (g : Flags) : (u.addFlags g).st = u.st := rfl
@[simp] theorem strand_addFlags_word1 (u : Strand) (g : Flags) : (u.addFlags g).word1 = u.word1 := rfl
@[simp] theorem strand_addFlags_wait (u : Strand) (g : Flags) : (u.addFlags g).wait = u.wait := rfl
@[simp] theorem strand_addFlags_hold (u : Strand) (g : Flags) : (u.addFlags g).hold = u.hold := rfl
@[simp] theorem strand_addFlags_remote (u : Strand) (g : Flags) : (u.addFlags g).remote = u.remote := rfl
@[simp] theorem strand_addFlags_event (u : Strand) (g : Flags) : (u.addFlags g).event = u.event := rfl
@[simp] theorem strand_addFlags_posted (u : Strand) (g : Flags) : (u.addFlags g).posted = u.posted := rfl
@[simp] theorem strand_addFlags_pend (u : Strand) (g : Flags) : (u.addFlags g).pend = u.pend := rfl
@[simp] theorem strand_addFlags_awaits (u : Strand) (g : Flags) : (u.addFlags g).awaits = u.awaits := rfl
@[simp] theorem strand_addFlags_blocks (u : Strand) (g : Flags) : (u.addFlags g).blocks = u.blocks := rfl
@[simp] theorem strand_addFlags_taken (u : Strand) (g : Flags) : (u.addFlags g).taken = u.taken := rfl
@[simp] theorem strand_addFlags_absentAt (u : Strand) (g : Flags) : (u.addFlags g).absentAt = u.absentAt := rfl
@[simp] theorem strand_addFlags_vec (u : Strand) (g : Flags) : (u.addFlags g).vec = u.vec := rfl
@[simp] theorem strand_addFlags_wid (u : Strand) (g : Flags) : (u.addFlags g).wid = u.wid := rfl
@[simp] theorem strand_addFlags_inMsg (u : Strand) (g : Flags) : (u.addFlags g).inMsg = u.inMsg := rfl
@[simp] theorem strand_addFlags_handlerSince (u : Strand) (g : Flags) : (u.addFlags g).handlerSince = u.handlerSince := rfl
@[simp] theorem strand_addFlags_wwait (u : Strand) (g : Flags) : (u.addFlags g).wwait = u.wwait := rfl
@[simp] theorem strand_addFlags_lockTried (u : Strand) (g : Flags) : (u.addFlags g).lockTried = u.lockTried := rfl
@[simp] theorem strand_addFlags_pts (u : Strand) (g : Flags) : (u.addFlags g).pts = u.pts := rfl
@[simp] theorem strand_addFlags_halted (u : Strand) (g : Flags) : (u.addFlags g).halted = u.halted := rfl
@[simp] theorem strand_addFlags_haltedAt (u : Strand) (g : Flags) : (u.addFlags g).haltedAt = u.haltedAt := rfl
@[simp] theorem strand_addFlags_haltWait (u : Strand) (g : Flags) : (u.addFlags g).haltWait = u.haltWait := rfl
@[simp] theorem strand_addFlags_ir (u : Strand) (g : Flags) : (u.addFlags g).ir = u.ir := rfl
@[simp] theorem strand_addFlags_irLen (u : Strand) (g : Flags) : (u.addFlags g).irLen = u.irLen := rfl
@[simp] theorem strand_addFlags_fetchStop (u : Strand) (g : Flags) : (u.addFlags g).fetchStop = u.fetchStop := rfl
@[simp] theorem strand_addFlags_busy (u : Strand) (g : Flags) : (u.addFlags g).busy = u.busy := rfl
@[simp] theorem strand_addFlags_start (u : Strand) (g : Flags) : (u.addFlags g).start = u.start := rfl
@[simp] theorem strand_addFlags_code (u : Strand) (g : Flags) : (u.addFlags g).code = u.code := rfl
@[simp] theorem strand_addFlags_haltReq (u : Strand) (g : Flags) : (u.addFlags g).haltReq = u.haltReq := rfl
@[simp] theorem strand_addFlags_imem (u : Strand) (g : Flags) : (u.addFlags g).imem = u.imem := rfl

end Sys2Proof.Machine
end

