-- ==== Sys2Proof/Laws/Registers.lean ====
section
/-! SUPPORT. Laws of a strand's registers: a register reads what was written into it, a write leaves every other register alone, x0 and m0
keep their constants (R38), and a performed load is read before it has returned (R122). -/

namespace Sys2Proof.Machine

open Sys2Proof

@[simp] theorem strand_readX_zero (u : Strand) : u.readX 0 = 0 := rfl
@[simp] theorem strand_readM_zero (u : Strand) : u.readM 0 = BitVec.allOnes 64 := rfl
@[simp] theorem strand_setX_zero (u : Strand) (v : Word) : u.setX 0 v = u := rfl
@[simp] theorem strand_setM_zero (u : Strand) (v : Word) : u.setM 0 v = u := rfl

/-- A register that is not overwritten finds the same load under way. -/
theorem find_forget_other (l : List Pend) {r d : LoadDest} (h : r ≠ d) (hn : r ≠ .none) :
    (forget l d).find? (fun p => decide (p.dest = r)) = l.find? fun p => decide (p.dest = r) := by
  induction l with
  | nil => rfl
  | cons p t ih =>
    simp only [forget, List.map_cons, List.find?_cons] at ih ⊢
    by_cases h1 : p.dest = d
    · simp [h1, Ne.symm h, Ne.symm hn, ih]
    · simp [h1, ih]

/-- An overwritten register finds none. -/
theorem find_forget_same (l : List Pend) {d : LoadDest} (hn : d ≠ .none) : (forget l d).find? (fun p => decide (p.dest = d)) = none := by
  induction l with
  | nil => rfl
  | cons p t ih =>
    simp only [forget, List.map_cons, List.find?_cons] at ih ⊢
    by_cases h1 : p.dest = d <;> simp [h1, Ne.symm hn, ih]

/-- A register awaits no load after it has been written. -/
@[simp] theorem strand_setX_pending_same (u : Strand) (d : Fin 32) (v : Word) (h : d ≠ 0) : (u.setX d v).pending (.x d) = none := by
  have : d.val ≠ 0 := fun hc => h (Fin.ext hc)
  simp only [Strand.setX, if_neg this, Strand.pending, find_forget_same _ (d := .x d) (by simp), Option.map_none]

theorem strand_setX_pending_other (u : Strand) (d : Fin 32) (v : Word) {r : LoadDest} (h : r ≠ .x d) (hn : r ≠ .none) :
    (u.setX d v).pending r = u.pending r := by
  unfold Strand.setX
  split
  · rfl
  · simp only [Strand.pending, find_forget_other _ h hn]

theorem strand_setV_pending_other (u : Strand) (d : Fin 32) (v : Line) {r : LoadDest} (h : r ≠ .v d) (hn : r ≠ .none) :
    (u.setV d v).pending r = u.pending r := by
  simp only [Strand.setV, Strand.pending, find_forget_other _ h hn]

/-- x[d] reads what was written; x0 reads zero (R38). -/
@[simp] theorem strand_setX_readX_same (u : Strand) (d : Fin 32) (v : Word) : (u.setX d v).readX d = if d = 0 then 0 else v := by
  by_cases h : d = 0
  · subst h; rfl
  · have hv : d.val ≠ 0 := fun hc => h (Fin.ext hc)
    rw [if_neg h]
    unfold Strand.readX
    rw [if_neg hv, strand_setX_pending_same u d v h]
    simp [Strand.setX, hv]

theorem strand_setX_readX_other (u : Strand) (v : Word) {d r : Fin 32} (h : r ≠ d) : (u.setX d v).readX r = u.readX r := by
  unfold Strand.readX
  rw [strand_setX_pending_other u d v (r := .x r) (by simpa using h) (by simp)]
  have : r.val ≠ d.val := fun hc => h (Fin.ext hc)
  by_cases hd : d.val = 0
  · have : d = 0 := Fin.ext hd
    subst this; rfl
  · simp [Strand.setX, hd, tab_read_write_other _ _ _ this]

@[simp] theorem strand_setX_readF (u : Strand) (d r : Fin 32) (v : Word) : (u.setX d v).readF r = u.readF r := by simp [Strand.readF]
@[simp] theorem strand_setX_readM (u : Strand) (d : Fin 32) (r : Fin 8) (v : Word) : (u.setX d v).readM r = u.readM r := by simp [Strand.readM]
@[simp] theorem strand_setX_readV (u : Strand) (d r : Fin 32) (v : Word) : (u.setX d v).readV r = u.readV r := by
  unfold Strand.readV; rw [strand_setX_pending_other _ _ _ (by simp) (by simp)]; simp
@[simp] theorem strand_setX_readTm (u : Strand) (d : Fin 32) (r : Fin 16) (v : Word) : (u.setX d v).readTm r = u.readTm r := by
  unfold Strand.readTm; rw [strand_setX_pending_other _ _ _ (by simp) (by simp)]; simp

@[simp] theorem strand_setF_readF_same (u : Strand) (d : Fin 32) (v : Word) : (u.setF d v).readF d = v := by simp [Strand.readF, Strand.setF]
theorem strand_setF_readF_other (u : Strand) (v : Word) {d r : Fin 32} (h : r ≠ d) : (u.setF d v).readF r = u.readF r := by
  have : r.val ≠ d.val := fun hc => h (Fin.ext hc)
  simp [Strand.readF, Strand.setF, tab_read_write_other _ _ _ this]
@[simp] theorem strand_setF_readX (u : Strand) (d r : Fin 32) (v : Word) : (u.setF d v).readX r = u.readX r := rfl
@[simp] theorem strand_setF_readV (u : Strand) (d r : Fin 32) (v : Word) : (u.setF d v).readV r = u.readV r := rfl
@[simp] theorem strand_setF_readM (u : Strand) (d : Fin 32) (r : Fin 8) (v : Word) : (u.setF d v).readM r = u.readM r := rfl

@[simp] theorem strand_setV_readV_same (u : Strand) (d : Fin 32) (v : Line) : (u.setV d v).readV d = v := by
  simp [Strand.readV, Strand.setV, Strand.pending, find_forget_same _ (d := .v d) (by simp)]
theorem strand_setV_readV_other (u : Strand) (v : Line) {d r : Fin 32} (h : r ≠ d) : (u.setV d v).readV r = u.readV r := by
  have hv : r.val ≠ d.val := fun hc => h (Fin.ext hc)
  unfold Strand.readV
  rw [strand_setV_pending_other _ _ _ (r := .v r) (by simpa using h) (by simp)]
  simp [Strand.setV, tab_read_write_other _ _ _ hv]
@[simp] theorem strand_setV_readX (u : Strand) (d r : Fin 32) (v : Line) : (u.setV d v).readX r = u.readX r := by
  unfold Strand.readX
  rw [strand_setV_pending_other _ _ _ (r := .x r) (by simp) (by simp)]
  simp
@[simp] theorem strand_setV_readF (u : Strand) (d r : Fin 32) (v : Line) : (u.setV d v).readF r = u.readF r := rfl
@[simp] theorem strand_setV_readM (u : Strand) (d : Fin 32) (r : Fin 8) (v : Line) : (u.setV d v).readM r = u.readM r := rfl

@[simp] theorem strand_setM_readM_same (u : Strand) (d : Fin 8) (v : Word) : (u.setM d v).readM d = if d = 0 then BitVec.allOnes 64 else v := by
  by_cases h : d = 0
  · subst h; rfl
  · have hv : d.val ≠ 0 := fun hc => h (Fin.ext hc)
    simp [Strand.readM, Strand.setM, h, hv]
theorem strand_setM_readM_other (u : Strand) (v : Word) {d r : Fin 8} (h : r ≠ d) : (u.setM d v).readM r = u.readM r := by
  have hv : r.val ≠ d.val := fun hc => h (Fin.ext hc)
  unfold Strand.readM Strand.setM
  split
  · rfl
  · split
    · rfl
    · simp [tab_read_write_other _ _ _ hv]
@[simp] theorem strand_setM_readX (u : Strand) (d : Fin 8) (r : Fin 32) (v : Word) : (u.setM d v).readX r = u.readX r := by
  unfold Strand.setM; split <;> rfl
@[simp] theorem strand_setM_readV (u : Strand) (d : Fin 8) (r : Fin 32) (v : Word) : (u.setM d v).readV r = u.readV r := by
  unfold Strand.setM; split <;> rfl

@[simp] theorem strand_goto_readX (u : Strand) (key : Nat) (p : Word) (r : Fin 32) : (u.goto key p).readX r = u.readX r := rfl
@[simp] theorem strand_goto_readF (u : Strand) (key : Nat) (p : Word) (r : Fin 32) : (u.goto key p).readF r = u.readF r := rfl
@[simp] theorem strand_goto_readV (u : Strand) (key : Nat) (p : Word) (r : Fin 32) : (u.goto key p).readV r = u.readV r := rfl
@[simp] theorem strand_goto_readM (u : Strand) (key : Nat) (p : Word) (r : Fin 8) : (u.goto key p).readM r = u.readM r := rfl
@[simp] theorem strand_goto_readTm (u : Strand) (key : Nat) (p : Word) (r : Fin 16) : (u.goto key p).readTm r = u.readTm r := rfl

/-! ## Retiring -/

/-- What retiring changes: the executing unit's registers become `u` with PC past the instruction, waiting no longer. -/
@[simp] theorem state_retire_me (s : State) (u : Strand) (len : Nat) : (s.retire u len).me = u.goto s.cur (u.pc + BitVec.ofNat 64 len) :=
  tab_read_write_same _ _ _ _
@[simp] theorem state_retireTo_me (s : State) (u : Strand) (p : Word) : (s.retireTo u p).me = u.goto s.cur p := tab_read_write_same _ _ _ _
theorem state_retire_other (s : State) (u : Strand) (len : Nat) {k : Nat} (h : k ≠ s.cur) : (s.retire u len).unit k = s.unit k :=
  tab_read_write_ne _ _ _ _ h
@[simp] theorem state_retire_rest (s : State) (u : Strand) (len : Nat) : { s.retire u len with units := s.units } = s := rfl
@[simp] theorem state_retire_byte (s : State) (u : Strand) (len : Nat) (a : Nat) : (s.retire u len).byte a = s.byte a := rfl
@[simp] theorem state_retireTo_byte (s : State) (u : Strand) (p : Word) (a : Nat) : (s.retireTo u p).byte a = s.byte a := rfl
@[simp] theorem state_retire_cur (s : State) (u : Strand) (len : Nat) : (s.retire u len).cur = s.cur := rfl

/-- The register that WRITEX names, and every other one. -/
theorem state_writeX_readX (s : State) (d : Fin 32) (v : Word) (len : Nat) : (s.writeX d v len).me.readX d = if d = 0 then 0 else v := by
  simp [State.writeX]
theorem state_writeX_readX_other (s : State) (v : Word) (len : Nat) {d r : Fin 32} (h : r ≠ d) :
    (s.writeX d v len).me.readX r = s.me.readX r := by
  simp [State.writeX, strand_setX_readX_other _ _ h]

/-- A load that has been performed is read from its register at once (R122). -/
theorem strand_loadTo_readX (u : Strand) (d : Fin 32) (v : Line) (h : d ≠ 0) : (u.loadTo (.x d) v).readX d = v.setWidth 64 := by
  have hv : d.val ≠ 0 := fun hc => h (Fin.ext hc)
  have hd : ¬ (LoadDest.x d = .x 0) := by simpa using h
  simp [Strand.loadTo, hd, Strand.readX, hv, Strand.pending, List.find?_append, find_forget_same _ (d := .x d) (by simp)]

theorem strand_loadTo_readX_other (u : Strand) (d : LoadDest) (v : Line) (r : Fin 32) (h : LoadDest.x r ≠ d) :
    (u.loadTo d v).readX r = u.readX r := by
  have hn : ¬ ((if d = .x 0 then LoadDest.none else d) = .x r) := by
    split
    · simp
    · exact fun hc => h hc.symm
  simp [Strand.loadTo, Strand.readX, Strand.pending, List.find?_append, find_forget_other _ h (by simp), hn]

/-- Every performed load is counted, into x0 too (R119). -/
@[simp] theorem strand_loadTo_loads (u : Strand) (d : LoadDest) (v : Line) : (u.loadTo d v).loads = u.loads + 1 := rfl

end Sys2Proof.Machine
end

