-- ==== Sys2Proof/Laws/Memory.lean ====
section
/-! SUPPORT. Laws of memory: byte order, a byte after a write, and the canonical form kept by every operation that writes memory. -/

namespace Sys2Proof.Machine

open Sys2Proof

/-! ## Byte order (R4) -/

@[simp] theorem leBytes_length (n v : Nat) : (leBytes n v).length = n := by
  induction n generalizing v with
  | zero => rfl
  | succ n ih => simp [leBytes, ih]

/-- The value of n little-endian bytes is the number modulo 2^(8n). -/
theorem leVal_leBytes (n v : Nat) : leVal (leBytes n v) = v % 2 ^ (8 * n) := by
  induction n generalizing v with
  | zero => simp [leBytes, leVal, Nat.mod_one]
  | succ n ih =>
    have h : 2 ^ (8 * (n + 1)) = 256 * 2 ^ (8 * n) := by rw [Nat.mul_add, Nat.pow_add, Nat.mul_comm]
    have hb : v % 256 % 256 = v % 256 := Nat.mod_mod _ _
    simp only [leBytes, leVal, ih, BitVec.toNat_ofNat, h, Nat.mod_mul]
    omega

/-! ## Base memory -/

theorem putBytes_read (m : List Host.Cell) (bs : List Byte) (key a : Nat) :
    Tab.read (0 : Byte) (putBytes m key bs) a = if key ≤ a ∧ a < key + bs.length then bs.getD (a - key) 0 else Tab.read 0 m a := by
  induction bs generalizing m key with
  | nil => simp only [putBytes, List.length_nil]; rw [if_neg (by omega)]
  | cons b t ih =>
    simp only [putBytes, ih, List.length_cons]
    by_cases h1 : a = key
    · subst h1; rw [if_neg (by omega), if_pos (by omega)]; simp
    · by_cases h2 : key + 1 ≤ a ∧ a < key + 1 + t.length
      · have : a - key = (a - (key + 1)) + 1 := by omega
        rw [if_pos h2, if_pos (by omega), this, List.getD_cons_succ]
      · rw [if_neg h2, if_neg (by omega), tab_read_write_other _ _ _ h1]

theorem putBytes_wf (m : List Host.Cell) (bs : List Byte) (key : Nat) (h : Memory.wf m = true) : Memory.wf (putBytes m key bs) = true := by
  induction bs generalizing m key with
  | nil => exact h
  | cons b t ih => exact ih _ _ (tab_write_wf _ _ _ _ h)

/-- A byte of memory after a write: the byte written, or the byte before; the run lists' bytes do not lie in memory. -/
theorem state_putBase_byte (s : State) (key : Nat) (bs : List Byte) (a : Nat) :
    (s.putBase key bs).byte a =
      if (isScratchKey a && decide (runListBase ≤ scratchOff a)) = true then s.byte a
      else if key ≤ a ∧ a < key + bs.length then bs.getD (a - key) 0 else s.byte a := by
  unfold State.byte
  split
  · rfl
  · simp only [State.putBase, putBytes_read]

/-- Every byte outside the bytes written reads as before. -/
theorem state_putBase_byte_other (s : State) (key : Nat) (bs : List Byte) (a : Nat) (h : a < key ∨ key + bs.length ≤ a) :
    (s.putBase key bs).byte a = s.byte a := by
  rw [state_putBase_byte]
  split
  · rfl
  · rw [if_neg (by omega)]

theorem state_putBase_wf (s : State) (key : Nat) (bs : List Byte) (h : Memory.wf s.mem = true) : Memory.wf (s.putBase key bs).mem = true :=
  putBytes_wf _ _ _ h

@[simp] theorem state_stampLoad_mem (s : State) (pts k : Nat) : (s.stampLoad pts k).2.mem = s.mem := rfl
@[simp] theorem state_stampStore_mem (s : State) (pts k : Nat) : (s.stampStore pts k).2.mem = s.mem := rfl
theorem state_stampWrite_kept (s : State) (made : Bool) (pts ctx : Nat) (l : Loc) (tag : BitVec 16) :
    (s.stampWrite made pts ctx l tag).2.mem = s.mem ∧ (s.stampWrite made pts ctx l tag).2.cells = s.cells := by
  unfold State.stampWrite; split <;> exact ⟨rfl, rfl⟩
@[simp] theorem state_setPts_mem (s : State) (key pts : Nat) : (s.setPts key pts).mem = s.mem := rfl
@[simp] theorem state_loadAt_mem (s : State) (l : Loc) (tag : BitVec 16) : (s.loadAt l tag).mem = s.mem := rfl
@[simp] theorem state_loadAt_byte (s : State) (l : Loc) (tag : BitVec 16) (a : Nat) : (s.loadAt l tag).byte a = s.byte a := rfl
@[simp] theorem state_cubeWrite_mem (s : State) (key : Nat) (bs : List Byte) : (s.cubeWrite key bs).mem = (s.putBase key bs).mem := rfl

theorem state_cubeWrite_wf (s : State) (key : Nat) (bs : List Byte) (h : Memory.wf s.mem = true) : Memory.wf (s.cubeWrite key bs).mem = true :=
  putBytes_wf _ _ _ h

theorem state_completionWrite_wf (s : State) (key : Nat) (w : Word) (h : Memory.wf s.mem = true) :
    Memory.wf (s.completionWrite key w).mem = true := by
  unfold State.completionWrite
  split
  · exact putBytes_wf _ _ _ h
  · exact putBytes_wf _ _ _ h

/-- What a write at a place can do: a ply cell is written or made, or base memory is written; nothing else. -/
theorem state_put_cases {s t : State} {ctx : Nat} {l : Loc} {bs : List Byte} {tag : BitVec 16} (h : s.put ctx l bs tag = some t) :
    (usesCell l tag = true ∧ t.mem = s.mem ∧ t.units = s.units) ∨ t = s ∨ t = s.putBase l.key bs := by
  unfold State.put at h
  split at h
  · exact .inr (.inl (Option.some.inj h).symm)
  · split at h
    · rename_i hu
      split at h
      · exact .inl ⟨hu, by cases h; exact ⟨rfl, rfl⟩⟩
      · simp only at h
        split at h
        · cases h
        · exact .inl ⟨hu, by cases h; exact ⟨rfl, rfl⟩⟩
    · exact .inr (.inr (Option.some.inj h).symm)

theorem state_put_wf {s t : State} {ctx : Nat} {l : Loc} {bs : List Byte} {tag : BitVec 16} (h : s.put ctx l bs tag = some t)
    (hw : Memory.wf s.mem = true) : Memory.wf t.mem = true := by
  rcases state_put_cases h with ⟨_, hm, _⟩ | rfl | rfl
  · rw [hm]; exact hw
  · exact hw
  · exact putBytes_wf _ _ _ hw

/-- What a store of the executing unit can do: it waits for a pool line, or it answers the state after the write. -/
theorem state_storeAt_cases (s : State) (l : Loc) (bs : List Byte) (tag : BitVec 16) :
    (s.put s.myCtx l bs tag = none ∧ s.storeAt l bs tag = stall (.plyPool l.va 0)) ∨
    ∃ s1 t, s.put s.myCtx l bs tag = some s1 ∧ s.storeAt l bs tag = .ok t ∧ t.mem = s1.mem ∧ t.cells = s1.cells := by
  unfold State.storeAt
  split
  · rename_i h; exact .inl ⟨h, rfl⟩
  · rename_i s1 h; exact .inr ⟨s1, _, h, rfl, state_stampWrite_kept ..⟩

theorem state_storeAt_wf {s t : State} {l : Loc} {bs : List Byte} {tag : BitVec 16} (h : s.storeAt l bs tag = .ok t)
    (hw : Memory.wf s.mem = true) : Memory.wf t.mem = true := by
  rcases state_storeAt_cases s l bs tag with ⟨_, h2⟩ | ⟨s1, t', h1, h2, hm, _⟩
  · rw [h2] at h; cases h
  · rw [h2] at h; cases h; rw [hm]; exact state_put_wf h1 hw

/-- Reset's memory is canonical. -/
theorem reset_mem_wf : Memory.wf State.reset.mem = true := rfl

/-! ## Full bits (R124) -/

@[simp] theorem state_setFull_same (s : State) (key : Nat) (b : Bool) : (s.setFull key b).isFull key = b := by
  simp [State.setFull, State.isFull]
theorem state_setFull_other (s : State) (key : Nat) (b : Bool) {a : Nat} (h : a / 8 ≠ key / 8) : (s.setFull key b).isFull a = s.isFull a := by
  simp [State.setFull, State.isFull, tab_read_write_other _ _ _ h]

end Sys2Proof.Machine
end

