-- ==== Sys2Proof/Laws/Ops.lean ====
section
/-! SUPPORT. One lemma for each shared way in which an instruction ends: what it answers and what it leaves alone. -/

namespace Sys2Proof.Machine

open Sys2Proof Host

/-- How an instruction's result becomes the next state. -/
theorem finish_cases (s : State) (r : Res State) :
    (∃ t, r = .ok t ∧ finish s r = .next t)
    ∨ (∃ c a l x, r = .error (.event c a l x) ∧ finish s r = .next (s.takeEvent c a l x))
    ∨ (∃ k e, r = .error (.hold k e) ∧ finish s r = .next (s.holdAt k e))
    ∨ (∃ k a, r = .error (.block k a) ∧ finish s r = .next (s.blockAt k a))
    ∨ (∃ t, r = .error (.await t) ∧ finish s r = .next t) := by
  cases r with
  | ok t => exact .inl ⟨t, rfl, rfl⟩
  | error e => cases e with
    | event c a l x => exact .inr (.inl ⟨c, a, l, x, rfl, rfl⟩)
    | hold k u => exact .inr (.inr (.inl ⟨k, u, rfl, rfl⟩))
    | block k a => exact .inr (.inr (.inr (.inl ⟨k, a, rfl, rfl⟩)))
    | await t => exact .inr (.inr (.inr (.inr ⟨t, rfl, rfl⟩)))

/-- An instruction whose result is an answer always gives a next state. -/
theorem finish_next (s : State) (r : Res State) : ∃ t, finish s r = .next t := by
  rcases finish_cases s r with ⟨t, _, h⟩ | ⟨c, a, l, x, _, h⟩ | ⟨k, e, _, h⟩ | ⟨k, a, _, h⟩ | ⟨t, _, h⟩ <;> exact ⟨_, h⟩

@[simp] theorem finish_ok (s t : State) : finish s (.ok t) = .next t := rfl
@[simp] theorem finish_event (s : State) (c : EvCode) (a : Word) (l : Nat) (x : BitVec 10) :
    finish s (.error (.event c a l x)) = .next (s.takeEvent c a l x) := rfl
@[simp] theorem finish_hold (s : State) (k : HoldKind) (e : Nat) : finish s (.error (.hold k e)) = .next (s.holdAt k e) := rfl
@[simp] theorem finish_block (s : State) (k : WaitKind) (a : Word) : finish s (.error (.block k a)) = .next (s.blockAt k a) := rfl
@[simp] theorem finish_await (s t : State) : finish s (.error (.await t)) = .next t := rfl

@[simp] theorem res_ok_bind {α β : Type} (a : α) (f : α → Res β) : ((Except.ok a : Res α) >>= f) = f a := rfl
@[simp] theorem res_error_bind {α β : Type} (e : Stop) (f : α → Res β) : ((Except.error e : Res α) >>= f) = .error e := rfl

/-- A result in sequence: both parts answer. -/
theorem res_bind_ok {α β : Type} {x : Res α} {f : α → Res β} {b : β} (h : (x >>= f) = .ok b) : ∃ a, x = .ok a ∧ f a = .ok b := by
  cases x with
  | ok a => exact ⟨a, rfl, h⟩
  | error e => cases h

theorem need_ok {ok : Bool} {c : EvCode} {a : Word} : need ok c a = .ok () ↔ ok = true := by
  unfold need; split <;> simp_all [raise]

theorem roomIn_ok {n : Nat} : roomIn n = .ok () ↔ n < 65535 := by
  unfold roomIn; split <;> simp_all [stall]

theorem noHandler_ok {s : State} : s.noHandler = .ok () ↔ isMsgStrand s.cur = false := by
  unfold State.noHandler; split <;> simp_all [raise]

/-- Pool lines that go back change their context's pool only (R138). -/
@[simp] theorem state_returnLines_nil (s : State) (ctx : Nat) : s.returnLines ctx [] = s := rfl
theorem state_returnLines_ctxs (s : State) (ctx : Nat) (ls : List (Nat × Nat)) : { s.returnLines ctx ls with ctxs := s.ctxs } = s := by
  induction ls generalizing s with
  | nil => rfl
  | cons l t ih => exact congrArg (fun q : State => { q with ctxs := s.ctxs }) (ih _)
@[simp] theorem state_returnLines_units (s : State) (ctx : Nat) (ls : List (Nat × Nat)) : (s.returnLines ctx ls).units = s.units := by
  have h := congrArg State.units (state_returnLines_ctxs s ctx ls)
  exact h
@[simp] theorem state_returnLines_mem (s : State) (ctx : Nat) (ls : List (Nat × Nat)) : (s.returnLines ctx ls).mem = s.mem := by
  have h := congrArg State.mem (state_returnLines_ctxs s ctx ls)
  exact h

/-- Taking an event (R87): the unit stops where it is with the message in its slot; registers, counters and every other unit stay. -/
theorem state_takeEventOf_unit (s : State) (key : Nat) (c : EvCode) (a : Word) (l : Nat) (x : BitVec 10) :
    (s.takeEventOf key c a l x).unit key =
      { s.unit key with
        event := some (s.eventMsg key c a l x), posted := false, st := .stopped, hold := none, wait := none, haltWait := none, blocks := [], taken := [], vec := none,
        code := if isSpindle key then BitVec.ofNat 8 c.num else (s.unit key).code } :=
  tab_read_write_same _ _ _ _

theorem state_takeEventOf_other (s : State) {key k : Nat} (c : EvCode) (a : Word) (l : Nat) (x : BitVec 10) (h : k ≠ key) :
    (s.takeEventOf key c a l x).unit k = s.unit k := by
  refine (tab_read_write_ne _ _ _ _ h).trans ?_
  simp [State.unit]

/-- Of the rest of the cube only pool lines change: those that the unit had taken go back. -/
theorem state_takeEventOf_rest (s : State) (key : Nat) (c : EvCode) (a : Word) (l : Nat) (x : BitVec 10) :
    { s.takeEventOf key c a l x with units := s.units } = s.returnLines (s.ctxOf key) (s.unit key).taken := by
  show { s.returnLines (s.ctxOf key) (s.unit key).taken with units := s.units } = _
  rw [← state_returnLines_units s (s.ctxOf key) (s.unit key).taken]

/-- Nothing changes outside the unit where it had taken no line. -/
theorem state_takeEventOf_rest_none (s : State) (key : Nat) (c : EvCode) (a : Word) (l : Nat) (x : BitVec 10) (h : (s.unit key).taken = []) :
    { s.takeEventOf key c a l x with units := s.units } = s := by
  rw [state_takeEventOf_rest, h]; rfl

/-- Waiting at issue (R252) changes the unit's mark only. -/
theorem state_holdAt_rest (s : State) (k : HoldKind) (e : Nat) : { s.holdAt k e with units := s.units } = s := rfl

theorem state_holdAt_me (s : State) (k : HoldKind) (e : Nat) : ∃ h, (s.holdAt k e).me = { s.me with hold := some h } ∧ h.kind = k := by
  refine ⟨_, tab_read_write_same _ _ _ _, ?_⟩
  split
  · split <;> rfl
  · rfl

/-- The mark of a wait names its kind and address, whether it is new or goes on. -/
theorem state_waitMark_kind (s : State) (k : WaitKind) (a : Word) : (s.waitMark k a).kind = k ∧ (s.waitMark k a).addr = a := by
  unfold State.waitMark
  split
  · split
    · assumption
    · exact ⟨rfl, rfl⟩
  · split
    · split
      · assumption
      · exact ⟨rfl, rfl⟩
    · exact ⟨rfl, rfl⟩

/-- A resident block (R19) changes the unit's state and wait only. -/
theorem state_blockAt_rest (s : State) (k : WaitKind) (a : Word) : { s.blockAt k a with units := s.units, fresh := s.fresh } = s := rfl

theorem state_blockAt_me (s : State) (k : WaitKind) (a : Word) :
    ∃ w, (s.blockAt k a).me = { s.me with st := .blocked, hold := none, wait := some w, haltWait := none } ∧ w.kind = k ∧ w.addr = a := by
  exact ⟨_, tab_read_write_same _ _ _ _, state_waitMark_kind s k a⟩

end Sys2Proof.Machine
end

