-- ==== Sys2Proof/Laws/Step.lean ====
section
/-! SUPPORT. Laws of the step and of the checks of an access: each says once what the operation can answer. -/

namespace Sys2Proof.Machine

open Sys2Proof Host

/-- A step with a choice in the agenda takes that choice, the rest of the agenda remaining. -/
theorem step_chosen {s : State} {a : Agenda} {rest : List Agenda} (h : s.agenda = a :: rest) :
    step s = ({ s with agenda := rest } : State).act a := by
  unfold step; rw [h]

/-- A step with an empty agenda follows the schedule. -/
theorem step_unchosen {s : State} (h : s.agenda = []) : step s = s.runAlone := by
  unfold step; rw [h]

theorem act_issue (s : State) (key : Nat) : s.act (.issue key) = if s.mayIssue key && s.turn key then s.runUnit key else .next s := rfl
theorem act_event (s : State) (i : Instr) (inp : Input) : s.act (.event i inp) = s.runEvent i inp := rfl
theorem act_pass (s : State) (cc ns : Nat) : s.act (.pass cc ns) = .next (State.settle s (s.pass cc ns)) := rfl

theorem thenDo_next {o : Outcome State Fault Refusal} {f : State → State} {t : State} :
    thenDo o f = .next t ↔ ∃ u, o = .next u ∧ f u = t := by
  cases o <;> simp [thenDo]

/-- A unit whose fetched word decodes executes that instruction, as the executing unit, after the fetch is noted. -/
theorem issueUnit_decoded {s : State} {key w len : Nat} {i : Instr} (hv : (s.unit key).vec = none) (hb : s.overBudget key = false) (hf : s.fetch key = .word w len)
    (hd : decodeFetched w len = some i) (hm : (isSpindle key && !spindleMay i) = false)
    (ha : ({ s.noteFetch key (.word w len) with cur := key } : State).me.answerDue i = false) :
    s.issueUnit key = exec i { s.noteFetch key (.word w len) with cur := key } := by
  simp only [State.issueUnit, hv, hf, hb, hd, hm, ha, Bool.false_eq_true, if_false]

/-- The checks of an access pass exactly where the address is aligned, resolves, the side-effect rule allows it, and its range is not being
re-striped. -/
theorem check_ok {s : State} {va : Word} {n : Nat} {acc : Access} {tag : BitVec 16} {se : Bool} {lane : Nat} {l : Loc} :
    s.check va n acc tag se lane = .ok l ↔
      va.toNat % n = 0 ∧ s.resolve (coreOf s.cur) s.myCtx va acc tag = .ok l ∧ (se && s.me.recfree && !l.plied) = false ∧
        (!l.scratch && s.rangeHeld l.gpa) = false := by
  unfold State.check State.checkWith State.resolve
  by_cases h1 : va.toNat % n = 0
  · cases hl : s.locate (coreOf s.cur) s.myCtx va acc tag with
    | error c => simp [h1, raiseAt]
    | ok l0 =>
      by_cases h2 : s.farPly l0 tag = true
      · simp [h1, h2, raiseAt]
      · by_cases h3 : (se && s.me.recfree && !l0.plied) = true <;> by_cases h4 : (!l0.scratch && s.rangeHeld l0.gpa) = true <;>
          simp only [h1, h2, h3, h4, raiseAt, stall] <;> simp <;> (try rintro rfl) <;> simp_all
  · simp [h1, raiseAt]

end Sys2Proof.Machine
end

