-- ==== Sys2Proof/Tests/Slice0.lean ====
section
/-! SUPPORT. Tests: ill-formed terms that WellFormed refuses; words that decode, written from the encodings of the opcode table and the
worked encodings of the spec; a few results the spec works out; and for every statement of Certificates/Slice0 a state and operands
that meet its hypotheses. -/

namespace Sys2Proof.Tests

set_option Elab.async false

open Sys2Proof Sys2Proof.Machine Sys2Proof.Stated Host

/-! ## Ill-formed terms -/

theorem test_wf_loop_x0 : wellFormed (.loop 0 5) = false := by decide +kernel
theorem test_wf_ld_size : wellFormed (.ld 1 2 7 0) = false ∧ wellFormed (.ldPly 1 2 7 3 0) = false := by decide +kernel
theorem test_wf_ldx_size : wellFormed (.ldx 1 2 2 3 0) = false ∧ wellFormed (.ldx 1 2 7 3 0) = false := by decide +kernel
theorem test_wf_fcvt_pairs : wellFormed (.fcvt 1 2 8 9) = false ∧ wellFormed (.fcvt 1 2 5 0) = false ∧ wellFormed (.fcvt 1 2 16 0) = false := by
  decide +kernel
theorem test_wf_vcvt_pairs : wellFormed (.vcvt 1 2 8 8 0) = false ∧ wellFormed (.vcvt 1 2 6 0 0) = false := by decide +kernel
theorem test_wf_vred_op : wellFormed (.vred 1 2 11 2 0) = false := by decide +kernel
theorem test_wf_mms_pattern : wellFormed (.mmsBf16 0 1 2 true 3) = false ∧ wellFormed (.mmsQ8 0 1 2 true 3) = false := by decide +kernel
theorem test_wf_bquant_source : wellFormed (.bquant 1 3 true 2 false) = false ∧ wellFormed (.bquant 1 2 true 2 true) = false := by decide +kernel
theorem test_wf_cwait : wellFormed (.cWait 0) = false := by decide +kernel

/-! ## Words from the spec's worked encodings -/

theorem test_decode_worked_scalar :
    decodeTableWord 32 0x2468B293 = some (.lih 5 0x2468B) ∧ decodeTableWord 32 0xCF125285 = some (.addi 5 5 (BitVec.ofInt 15 (-6263))) ∧
    decodeTableWord 32 0x000A0385 = some (.addi 7 0 5) ∧ decodeTableWord 32 0x18000301 = some (.or 6 0 0) ∧ decodeTableWord 16 0x1CC4 = some (.cAdd 6 7) ∧
    decodeTableWord 32 0xFFF0039D = some (.loop 7 (BitVec.ofInt 12 (-1))) ∧ decodeTableWord 32 0x48005403 = some (.popc 8 5) ∧
    decodeTableWord 32 0xFFD20297 = some (.bcNe 5 0 (BitVec.ofInt 12 (-3))) ∧ decodeTableWord 16 0xFCA6 = some (.cAddi 5 (BitVec.ofInt 6 (-1))) ∧
    decodeTableWord 32 0x4A449321 = some (.ldPly 6 9 2 20 4) := by decide +kernel

theorem test_decode_worked_memory_messages :
    decodeTableWord 32 0x000092A5 = some (.ldfe 5 9 0) ∧ decodeTableWord 32 0x038C72A9 = some (.amoAdd 5 7 6 2 true) ∧
    decodeTableWord 32 0x0FF807AD = some (.wait 15 0 0 15 15) ∧ decodeTableWord 32 0x2000602F = some (.plyretC 6) ∧
    decodeTableWord 32 0x002B44C1 = some (.send 9 20 21 0) ∧ decodeTableWord 32 0x40009043 = some (.mbxw 9) ∧
    decodeTableWord 32 0x10005041 = some (.mret 5 0) := by decide +kernel

theorem test_decode_worked_vector :
    decodeTableWord 32 0x18267051 = some (.srw 7 0x13) ∧ decodeTableWord 32 0x084050BD = some (.vbcastX 1 5 1 0) ∧
    decodeTableWord 32 0x0040A13B = some (.vld 2 10 1 0) ∧ decodeTableWord 32 0x100411B9 = some (.vdotBf16 3 1 2 0) ∧
    decodeTableWord 32 0x1890323D = some (.vred 4 3 8 2 0) ∧ decodeTableWord 32 0x03841239 = some (.vfma 4 1 2 2 3) ∧
    decodeTableWord 32 0xB8861937 = some (.vcmpF 2 2 1 3 2 0) ∧ decodeTableWord 32 0x484642BD = some (.vcvt 5 4 3 1 1) ∧
    decodeTableWord 32 0x200022BF = some (.mpop 5 2) := by decide +kernel

theorem test_decode_worked_matrix :
    decodeTableWord 32 0x10000047 = some .lease ∧ decodeTableWord 32 0x000A40C9 = some (.mmaBf16 1 4 5 false) ∧
    decodeTableWord 32 0x10462049 = some (.mmaF64 0 2 3 true) ∧ decodeTableWord 32 0x008E614B = some (.mmsBf16 2 6 7 false 1) ∧
    decodeTableWord 32 0x102014CB = some (.acvt 9 1 16 0 false) ∧ decodeTableWord 32 0x000C224D = some (.tld 4 2 6) ∧
    decodeTableWord 32 0x018411CF = some (.baddq 3 1 2 6 false) := by decide +kernel

theorem test_decode_reserved : decodeTableWord 16 0 = none ∧ decodeTableWord 32 0xFFFFFFFF = none ∧ decodeTableWord 32 0xF00003AF = none := by decide +kernel

/-! ## A word for every encoding of the opcode table -/

theorem test_decode_Int1 :
    decodeTableWord 32 0x003B0181 = some (.add 3 16 29) ∧
    decodeTableWord 32 0x08055401 = some (.sub 8 21 2) ∧
    decodeTableWord 32 0x100FA681 = some (.and 13 26 7) ∧
    decodeTableWord 32 0x1819F901 = some (.or 18 31 12) ∧
    decodeTableWord 32 0x20224B81 = some (.xor 23 4 17) ∧
    decodeTableWord 32 0x282C9E01 = some (.andn 28 9 22) ∧
    decodeTableWord 32 0x3036E081 = some (.shl 1 14 27) ∧
    decodeTableWord 32 0x38013301 = some (.shr 6 19 0) ∧
    decodeTableWord 32 0x400B8581 = some (.sha 11 24 5) ∧
    decodeTableWord 32 0x4815D801 = some (.rot 16 29 10) ∧
    decodeTableWord 32 0x501E2A81 = some (.min 21 2 15) ∧
    decodeTableWord 32 0x58287D01 = some (.max 26 7 20) ∧
    decodeTableWord 32 0x6032CF81 = some (.minu 31 12 25) ∧
    decodeTableWord 32 0x683D1201 = some (.maxu 4 17 30) ∧
    decodeTableWord 32 0x70076481 = some (.slt 9 22 3) ∧
    decodeTableWord 32 0x7811B701 = some (.sltu 14 27 8) := by decide +kernel

theorem test_decode_Int2 :
    decodeTableWord 32 0x801A0981 = some (.seq 19 0 13) ∧
    decodeTableWord 32 0x8FE45C01 = some (.sel 24 5 18 31) := by decide +kernel

theorem test_decode_MulDivBits :
    decodeTableWord 32 0x002EAE83 = some (.mul 29 10 23) ∧
    decodeTableWord 32 0x0838F103 = some (.mulh 2 15 28) ∧
    decodeTableWord 32 0x10034383 = some (.mulhu 7 20 1) ∧
    decodeTableWord 32 0x180D9603 = some (.div 12 25 6) ∧
    decodeTableWord 32 0x2017E883 = some (.divu 17 30 11) ∧
    decodeTableWord 32 0x28203B03 = some (.rem 22 3 16) ∧
    decodeTableWord 32 0x302A8D83 = some (.remu 27 8 21) ∧
    decodeTableWord 32 0x3800D003 = some (.clz 0 13) ∧
    decodeTableWord 32 0x40012283 = some (.ctz 5 18) ∧
    decodeTableWord 32 0x48017503 = some (.popc 10 23) ∧
    decodeTableWord 32 0x5001C783 = some (.brev 15 28) ∧
    decodeTableWord 32 0x581C1A03 = some (.bext 20 1 14) ∧
    decodeTableWord 32 0x60266C83 = some (.bins 25 6 19) := by decide +kernel

theorem test_decode_Immediate :
    decodeTableWord 32 0x9CBCBF05 = some (.addi 30 11 0x4E5E) ∧
    decodeTableWord 32 0x9D070187 = some (.andi 3 16 0x4E83) ∧
    decodeTableWord 32 0x9D515409 = some (.ori 8 21 0x4EA8) ∧
    decodeTableWord 32 0x9D9BA68B = some (.xori 13 26 0x4ECD) ∧
    decodeTableWord 32 0x9DE5F90D = some (.slti 18 31 0x4EF2) ∧
    decodeTableWord 32 0x9E2E4B8F = some (.sltiu 23 4 0x4F17) ∧
    decodeTableWord 32 0x002C9E11 = some (.shli 28 9 22) ∧
    decodeTableWord 32 0x00B6E091 = some (.shri 1 14 27) ∧
    decodeTableWord 32 0x01413311 = some (.shai 6 19 32) ∧
    decodeTableWord 32 0x80FAB593 = some (.lih 11 0x80FAB) ∧
    decodeTableWord 32 0x80FD0815 = some (.adpc 16 0x80FD0) := by decide +kernel

theorem test_decode_Control :
    decodeTableWord 32 0xFF502A97 = some (.bcEq 21 2 0xFF5) ∧
    decodeTableWord 32 0x81A27D17 = some (.bcNe 26 7 0x81A) ∧
    decodeTableWord 32 0x83F4CF97 = some (.bcLt 31 12 0x83F) ∧
    decodeTableWord 32 0x86471217 = some (.bcGe 4 17 0x864) ∧
    decodeTableWord 32 0x88996497 = some (.bcLtu 9 22 0x889) ∧
    decodeTableWord 32 0x8AEBB717 = some (.bcGeu 14 27 0x8AE) ∧
    decodeTableWord 32 0x810D3999 = some (.jl 19 0x810D3) ∧
    decodeTableWord 32 0xA1F05C1B = some (.jlr 24 5 0x50F8) ∧
    decodeTableWord 32 0x91D0039D = some (.loop 7 0x91D) ∧
    decodeTableWord 32 0x9420011F = some (.bmAny 2 0x942) ∧
    decodeTableWord 32 0x9672039F = some (.bmAll 7 0x967) ∧
    decodeTableWord 32 0x98C4021F = some (.bmNone 4 0x98C) := by decide +kernel

theorem test_decode_Memory :
    decodeTableWord 32 0xD88BE8A1 = some (.ld 17 30 5 0x1B1) ∧
    decodeTableWord 32 0xAEC83B21 = some (.ldPly 22 3 4 29 0xA) ∧
    decodeTableWord 32 0xFD828DA3 = some (.st 27 8 1 0x1FB) ∧
    decodeTableWord 32 0x43C4D023 = some (.stPly 0 13 2 7 0x4) ∧
    decodeTableWord 32 0xA28122A5 = some (.ldfe 5 18 0x145) ∧
    decodeTableWord 32 0xB5037525 = some (.ldff 10 23 0x16A) ∧
    decodeTableWord 32 0xC785C7A5 = some (.feget 15 28 0x18F) ∧
    decodeTableWord 32 0x8DC81A25 = some (.ldx 20 1 4 27 0x8) ∧
    decodeTableWord 32 0xEC806CA7 = some (.stef 25 6 0x1D9) ∧
    decodeTableWord 32 0xFF02BF27 = some (.stff 30 11 0x1FE) ∧
    decodeTableWord 32 0x918501A7 = some (.feset 3 16 0x123) := by decide +kernel

theorem test_decode_Atomic1 :
    decodeTableWord 32 0x03C55429 = some (.amoAdd 8 21 2 3 true) ∧
    decodeTableWord 32 0x0B0FA6A9 = some (.amoMin 13 26 7 0 true) ∧
    decodeTableWord 32 0x1359F929 = some (.amoMax 18 31 12 1 true) ∧
    decodeTableWord 32 0x1BA24BA9 = some (.amoMinu 23 4 17 2 true) ∧
    decodeTableWord 32 0x23EC9E29 = some (.amoMaxu 28 9 22 3 true) ∧
    decodeTableWord 32 0x2B36E0A9 = some (.amoAnd 1 14 27 0 true) ∧
    decodeTableWord 32 0x33413329 = some (.amoOr 6 19 0 1 true) ∧
    decodeTableWord 32 0x3B8B85A9 = some (.amoXor 11 24 5 2 true) ∧
    decodeTableWord 32 0x43D5D829 = some (.amoSwap 16 29 10 3 true) ∧
    decodeTableWord 32 0x4B1E2AA9 = some (.amoFadd 21 2 15 0 true) ∧
    decodeTableWord 32 0x00687D2B = some (.cas 26 7 20 1) ∧
    decodeTableWord 32 0x0840CFAB = some (.rlk 31 12 1) ∧
    decodeTableWord 32 0x1081122B = some (.rlkT 4 17 2) ∧
    decodeTableWord 32 0x18C164AB = some (.wlk 9 22 3) ∧
    decodeTableWord 32 0x2001B72B = some (.wlkT 14 27 0) ∧
    decodeTableWord 32 0x284009AB = some (.runlk 19 0 1) := by decide +kernel

theorem test_decode_Atomic2 :
    decodeTableWord 32 0x30805C2B = some (.wunlk 24 5 2) := by decide +kernel

theorem test_decode_OrderPly :
    decodeTableWord 32 0x0240002D = some (.fence 1 2) ∧
    decodeTableWord 32 0x0B4E792D = some (.wait 2 15 12 9 6) ∧
    decodeTableWord 32 0x120F40AD = some (.pref true 20 0x107) ∧
    decodeTableWord 32 0x1A59962D = some (.tmld 12 25 0x12C) ∧
    decodeTableWord 32 0x000008AF = some (.plynew 17) ∧
    decodeTableWord 32 0x08000B2F = some (.plynewNb 22) ∧
    decodeTableWord 32 0x1001B02F = some (.plyset 27) ∧
    decodeTableWord 32 0x1800002F = some (.plyget 0) ∧
    decodeTableWord 32 0x2000502F = some (.plyretC 5) ∧
    decodeTableWord 32 0x2800A02F = some (.plyretD 10) ∧
    decodeTableWord 32 0x3001C7AF = some (.plyqry 15 28) := by decide +kernel

theorem test_decode_Float1 :
    decodeTableWord 32 0x00DC1A31 = some (.fadd 20 1 14 3) ∧
    decodeTableWord 32 0x08266CB1 = some (.fsub 25 6 19 0) ∧
    decodeTableWord 32 0x1070BF31 = some (.fmul 30 11 24 1) ∧
    decodeTableWord 32 0x18BB01B1 = some (.fdiv 3 16 29 2) ∧
    decodeTableWord 32 0x20815431 = some (.fsqrt 8 21 2) ∧
    decodeTableWord 32 0x280FA6B1 = some (.fmin 13 26 7 0) ∧
    decodeTableWord 32 0x3059F931 = some (.fmax 18 31 12 1) ∧
    decodeTableWord 32 0x3BA24BB1 = some (.fcmp 23 4 17 2 3) ∧
    decodeTableWord 32 0x40EC9E31 = some (.fsgn 28 9 22 3) ∧
    decodeTableWord 32 0x4136E0B1 = some (.fsgnN 1 14 27 0) ∧
    decodeTableWord 32 0x42413331 = some (.fsgnX 6 19 0 1) ∧
    decodeTableWord 32 0x484185B1 = some (.fclass 11 24 1) ∧
    decodeTableWord 32 0x5001D831 = some (.fmv 16 29) ∧
    decodeTableWord 32 0x51002AB1 = some (.fmvX 21 2) ∧
    decodeTableWord 32 0x52007D31 = some (.fmvF 26 7) ∧
    decodeTableWord 32 0x61B2CFB3 = some (.fma 31 12 25 6 3) := by decide +kernel

theorem test_decode_Float2 :
    decodeTableWord 32 0x0AFD1233 = some (.fms 4 17 30 11 0) ∧
    decodeTableWord 32 0x340764B3 = some (.fnma 9 22 3 16 1) ∧
    decodeTableWord 32 0x5D51B733 = some (.fnms 14 27 8 21 2) ∧
    decodeTableWord 32 0x184009B5 = some (.fcvt 19 0 1 3) := by decide +kernel

theorem test_decode_VecInt1 :
    decodeTableWord 32 0x04E45C37 = some (.vaddI 24 5 18 3 4) ∧
    decodeTableWord 32 0x092EAEB7 = some (.vsubI 29 10 23 0 1) ∧
    decodeTableWord 32 0x1678F137 = some (.vmulI 2 15 28 1 6) ∧
    decodeTableWord 32 0x1B8343B7 = some (.vminI 7 20 1 2 3) ∧
    decodeTableWord 32 0x20CD9637 = some (.vmaxI 12 25 6 3 0) ∧
    decodeTableWord 32 0x2D17E8B7 = some (.vminUi 17 30 11 0 5) ∧
    decodeTableWord 32 0x32603B37 = some (.vmaxUi 22 3 16 1 2) ∧
    decodeTableWord 32 0x3FAA8DB7 = some (.vand 27 8 21 2 7) ∧
    decodeTableWord 32 0x44F4D037 = some (.vor 0 13 26 3 4) ∧
    decodeTableWord 32 0x493F22B7 = some (.vxor 5 18 31 0 1) ∧
    decodeTableWord 32 0x56497537 = some (.vshl 10 23 4 1 6) ∧
    decodeTableWord 32 0x5B93C7B7 = some (.vshr 15 28 9 2 3) ∧
    decodeTableWord 32 0x60DC1A37 = some (.vsha 20 1 14 3 0) ∧
    decodeTableWord 32 0x6A4138B7 = some (.vcmpI 1 2 19 0 1 2) ∧
    decodeTableWord 32 0x778B8F37 = some (.vcmpUi 6 3 24 5 2 7) ∧
    decodeTableWord 32 0x7FBB01B7 = some (.vsel 3 16 29 2 7) := by decide +kernel

theorem test_decode_VecInt2 :
    decodeTableWord 32 0x84C55437 = some (.vaddF 8 21 2 3 4) ∧
    decodeTableWord 32 0x890FA6B7 = some (.vsubF 13 26 7 0 1) ∧
    decodeTableWord 32 0x9659F937 = some (.vmulF 18 31 12 1 6) ∧
    decodeTableWord 32 0x9BA24BB7 = some (.vdiv 23 4 17 2 3) ∧
    decodeTableWord 32 0xA3809E37 = some (.vsqrt 28 9 2 3) ∧
    decodeTableWord 32 0xAD36E0B7 = some (.vminF 1 14 27 0 5) ∧
    decodeTableWord 32 0xB2413337 = some (.vmaxF 6 19 0 1 2) ∧
    decodeTableWord 32 0xBCE451B7 = some (.vcmpF 3 0 5 18 3 4) := by decide +kernel

theorem test_decode_VecFloat :
    decodeTableWord 32 0x04D5D839 = some (.vfma 16 29 10 3 4) ∧
    decodeTableWord 32 0x091E2AB9 = some (.vfms 21 2 15 0 1) ∧
    decodeTableWord 32 0x11287D39 = some (.vdotBf16 26 7 20 1) ∧
    decodeTableWord 32 0x1E32CFB9 = some (.vdotF16 31 12 25 6) ∧
    decodeTableWord 32 0x233D1239 = some (.vdotI8 4 17 30 3) ∧
    decodeTableWord 32 0x280764B9 = some (.vdotUi8 9 22 3 0) ∧
    decodeTableWord 32 0x3511B739 = some (.vdotF32 14 27 8 5) := by decide +kernel

theorem test_decode_VecMem :
    decodeTableWord 32 0x024009BB = some (.vld 19 0 1 2) ∧
    decodeTableWord 32 0x0F805C3B = some (.vst 24 5 2 7) ∧
    decodeTableWord 32 0x112EAEBB = some (.vlds 29 10 23 0 1) ∧
    decodeTableWord 32 0x1E78F13B = some (.vsts 2 15 28 1 6) ∧
    decodeTableWord 32 0x23C343BB = some (.vgath 7 20 1 true 3) ∧
    decodeTableWord 32 0x28CD963B = some (.vscat 12 25 6 true 0) ∧
    decodeTableWord 32 0x3517E8BB = some (.vldx 17 30 11 0 5) := by decide +kernel

theorem test_decode_VecLane :
    decodeTableWord 32 0x02603B3D = some (.vperm 22 3 16 1 2) ∧
    decodeTableWord 32 0x0A408DBD = some (.vbcastX 27 8 1 2) ∧
    decodeTableWord 32 0x1780D03D = some (.vbcastF 0 13 2 7) ∧
    decodeTableWord 32 0x191322BD = some (.vred 5 18 9 0 1) ∧
    decodeTableWord 32 0x2049753D = some (.vext 10 23 4 1) ∧
    decodeTableWord 32 0x2893C7BD = some (.vins 15 28 9 2) ∧
    decodeTableWord 32 0x40521A3D = some (.vcvt 20 1 9 1 0) := by decide +kernel

theorem test_decode_Mask :
    decodeTableWord 32 0x000660BF = some (.mand 1 6 3) ∧
    decodeTableWord 32 0x0800333F = some (.mor 6 3 0) ∧
    decodeTableWord 32 0x100A01BF = some (.mxor 3 0 5) ∧
    decodeTableWord 32 0x1800503F = some (.mnot 0 5) ∧
    decodeTableWord 32 0x200026BF = some (.mpop 13 2) ∧
    decodeTableWord 32 0x2800793F = some (.mfirst 18 7) ∧
    decodeTableWord 32 0x300043BF = some (.mset 7 4) ∧
    decodeTableWord 32 0x38001E3F = some (.mget 28 1) := by decide +kernel

theorem test_decode_Message :
    decodeTableWord 32 0x0236E0C1 = some (.send 1 14 27 8) ∧
    decodeTableWord 32 0x08013341 = some (.sendv 6 19 0) ∧
    decodeTableWord 32 0x1030B041 = some (.mret 11 24) ∧
    decodeTableWord 32 0x1815D841 = some (.enq 16 29 10) ∧
    decodeTableWord 32 0x20055041 = some (.deq 21 2) ∧
    decodeTableWord 32 0x28287D41 = some (.deqNb 26 7 20) ∧
    decodeTableWord 32 0x3019F041 = some (.esend 31 12) := by decide +kernel

theorem test_decode_Task :
    decodeTableWord 32 0x00080043 = some (.tspawn 4) ∧
    decodeTableWord 32 0x082C9043 = some (.tspawnA 9 22) ∧
    decodeTableWord 32 0x12360743 = some (.tspawnW 14 27 8) ∧
    decodeTableWord 32 0x1E9A09C3 = some (.tspawnAW 19 0 13 26) ∧
    decodeTableWord 32 0x200B8043 = some (.tdec 24 5) ∧
    decodeTableWord 32 0x28000043 = some .yield ∧
    decodeTableWord 32 0x30000043 = some .texit ∧
    decodeTableWord 32 0x38007043 = some (.gang 7) ∧
    decodeTableWord 32 0x4000C043 = some (.mbxw 12) ∧
    decodeTableWord 32 0x0617E8C5 = some (.bobenq 17 30 11 24) ∧
    decodeTableWord 32 0x08016045 = some (.bobdeq 22) ∧
    decodeTableWord 32 0x10000045 = some .recdoneP ∧
    decodeTableWord 32 0x18000045 = some .recdoneJ ∧
    decodeTableWord 32 0x200122C5 = some (.recqry 5 18) := by decide +kernel

theorem test_decode_Tile :
    decodeTableWord 32 0x00017547 = some (.tcfg 10 23) ∧
    decodeTableWord 32 0x084027C7 = some (.tcfgr 15 2 true) ∧
    decodeTableWord 32 0x10000047 = some .lease ∧
    decodeTableWord 32 0x18000CC7 = some (.leaseT 25) ∧
    decodeTableWord 32 0x20000047 = some .lrel ∧
    decodeTableWord 32 0x280101C7 = some (.tstate 3 16) ∧
    decodeTableWord 32 0x30000447 = some (.tzero 8) ∧
    decodeTableWord 32 0x3801A6C7 = some (.astat 13 26) := by decide +kernel

theorem test_decode_Matrix :
    decodeTableWord 32 0x0059F149 = some (.mmaBf16 2 31 12 true) ∧
    decodeTableWord 32 0x086241C9 = some (.mmaF16 3 4 17 true) ∧
    decodeTableWord 32 0x106C9049 = some (.mmaF64 0 9 22 true) ∧
    decodeTableWord 32 0x1876E0C9 = some (.mmaQ8 1 14 27 true) ∧
    decodeTableWord 32 0x20413149 = some (.mmaQ4 2 19 0 true) ∧
    decodeTableWord 32 0x284B81C9 = some (.mmaQ4b 3 24 5 true) ∧
    decodeTableWord 32 0x3055D049 = some (.mmaQ8b 0 29 10 true) ∧
    decodeTableWord 32 0x385E20C9 = some (.mmaF32r 1 2 15 true) ∧
    decodeTableWord 32 0x0168714B = some (.mmsBf16 2 7 20 true 2) ∧
    decodeTableWord 32 0x08F2C1CB = some (.mmsQ8 3 12 25 true 1) ∧
    decodeTableWord 32 0x12FC124B = some (.acvt 4 1 30 3 true) ∧
    decodeTableWord 32 0x180160CB = some (.azero 1 22) := by decide +kernel

theorem test_decode_Move :
    decodeTableWord 32 0x0010B74D = some (.tld 14 11 8) ∧
    decodeTableWord 32 0x081A09CD = some (.tst 19 0 13) ∧
    decodeTableWord 32 0x10245C4D = some (.tstF 24 5 18) ∧
    decodeTableWord 32 0x182EA6CD = some (.cpy 13 10 23) ∧
    decodeTableWord 32 0x2278F14D = some (.gath 2 15 28 9) ∧
    decodeTableWord 32 0x280243CD = some (.coll 7 4 1) ∧
    decodeTableWord 32 0x04CD964F = some (.baddq 12 25 6 3 true) ∧
    decodeTableWord 32 0x0E02C8CF = some (.bquant 17 12 true 8 true) ∧
    decodeTableWord 32 0x17603B4F = some (.qdot 22 3 16 13 true) := by decide +kernel

theorem test_decode_System :
    decodeTableWord 32 0x0637B051 = some (.trap 27 0x31B) ∧
    decodeTableWord 32 0x0E80D051 = some (.svc 0 13 0x340) ∧
    decodeTableWord 32 0x16CA02D1 = some (.srr 5 869) ∧
    decodeTableWord 32 0x1F14A051 = some (.srw 10 906) ∧
    decodeTableWord 32 0x20000051 = some .bkpt ∧
    decodeTableWord 32 0x28001A51 = some (.tstamp 20 1) ∧
    decodeTableWord 32 0x30019051 = some (.idle 25) ∧
    decodeTableWord 32 0x3801E051 = some (.hnote 30) ∧
    decodeTableWord 32 0x07603053 = some (.tlbw 3 16 29) ∧
    decodeTableWord 32 0x082A8053 = some (.tlbi 8 21) ∧
    decodeTableWord 32 0x100FA6D3 = some (.mbxr 13 26 7) ∧
    decodeTableWord 32 0x183F2053 = some (.ctxsv 18 31) ∧
    decodeTableWord 32 0x20097053 = some (.ctxld 23 4) ∧
    decodeTableWord 32 0x2801C053 = some (.gstop 28) := by decide +kernel

theorem test_decode_Short :
    decodeTableWord 16 0x0020 = some .cNop ∧
    decodeTableWord 16 0x0040 = some .cMret ∧
    decodeTableWord 16 0x0060 = some .cYield ∧
    decodeTableWord 16 0x0080 = some .cTexit ∧
    decodeTableWord 16 0x0AA2 = some (.cMv 21 2) ∧
    decodeTableWord 16 0x1F44 = some (.cAdd 26 7) ∧
    decodeTableWord 16 0xB3E6 = some (.cAddi 31 0x2C) ∧
    decodeTableWord 16 0x4488 = some (.cSub 4 17) ∧
    decodeTableWord 16 0x592A = some (.cAnd 9 22) ∧
    decodeTableWord 16 0xEDCC = some (.cShli 14 59) ∧
    decodeTableWord 16 0x686E = some (.cLd 3 0 13) ∧
    decodeTableWord 16 0x9510 = some (.cSt 0 5 18) ∧
    decodeTableWord 16 0x2BB2 = some (.cBz 29 0xA) ∧
    decodeTableWord 16 0x3C54 = some (.cBnz 2 0xF) ∧
    decodeTableWord 16 0xA4F6 = some (.cJ 0x527) ∧
    decodeTableWord 16 0x02B8 = some (.cWait 0x15) ∧
    decodeTableWord 16 0x7A3A = some (.cLdfe 17 30) ∧
    decodeTableWord 16 0x0EDC = some (.cStef 22 3) := by decide +kernel

/-! ## Small states

Context 0 runs on cluster 0 of cube 0. Strand 1 of core 0 executes. -/

/-- A running strand with these registers. -/
def strand (x : Tab Word) : Strand := { st := .run, x := x, rngst := 1 }

/-- Its cube. -/
def cube (u : Strand) : State :=
  { cur := 1, units := [(1, u)], clusters := [(0, { ctx := some 0 })], ctxs := [(0, { state := .running, clmask := 1 })] }

/-- The same with strand 0 executing. -/
def handler (u : Strand) : State := { cube u with cur := 0, units := [(0, u)] }

/-- The scratch-window address of an offset of core 0. -/
def scratch (off : Nat) : Word := BitVec.ofNat 64 (15 * 2 ^ 60 + off)

/-- A plied page at virtual address 0x100000, frame 0, writable, for context 0; tag 3 is live; one pool line is free. -/
def plied (u : Strand) : State :=
  { cube u with
    cores := [(0, { tlb := [(0, some ⟨true, 0, false, false, true, false, false, false, false, false, 0, 0, 0x10, 0⟩)] })]
    amap := [(0, some ⟨true, false, false, 30, 1, 0, 0, 0x8000000000, 0, 0x40000, 0, 0, 0, 0, [], [], true, 0⟩)]
    ctxs := [(0, { state := .running, clmask := 1, ntags := 9, tags := [(3, some ⟨false, 0⟩)], poolFree := [(0, 1)], poolTotal := 1 })] }

def okWith {ε α : Type} (e : Except ε α) (p : α → Bool) : Bool := match e with
  | .ok a => p a
  | .error _ => false
def errWith {α ε : Type} [DecidableEq ε] (e : Except ε α) (x : ε) : Bool := match e with
  | .ok _ => false
  | .error y => decide (y = x)
def someWith {α : Type} (o : Option α) (p : α → Bool) : Bool := match o with
  | some a => p a
  | none => false
def nextWith (o : Outcome State Fault Refusal) (p : State → Bool) : Bool := match o with
  | .next t => p t
  | .fault _ => false
  | .refused _ => false

/-- A place on this cube whose data is correct. -/
def State.good (s : State) (l : Loc) : Bool := decide (l.cube = s.cubeNum) && !s.uncorrectable l.key

/-! ## Hypotheses that can be met: decoding and steps -/

theorem witness_DecodeEncode : wellFormed (.addi 5 5 0x4000) = true ∧ instrLen (.addi 5 5 0x4000) ≠ 0 ∧ wellFormed (.cWait 31) = true ∧ instrLen (.cWait 31) ≠ 0 := by
  decide +kernel
theorem witness_DecodingRefuses :
    okWith (decode [0x85, 0x03, 0x0A, 0x00, 7]) (fun r => decide (r = (.addi 7 0 5, 4, [7]))) = true ∧ okWith (decode [0xC4, 0x1C]) (fun r => decide (r = (.cAdd 6 7, 2, []))) = true ∧
    (0x55 : Byte).getLsbD 0 = true ∧ 41 < (0x55 : Byte).toNat / 2 % 64 := by decide +kernel
/-- The instruction addi x7, x0, 5 where the next step fetches it. -/
def placed : State := State.reset.withFetchWord 32 0x000A0385
theorem witness_StepRunsDecoded :
    placed.agenda = [.issue 1] ∧ ({ placed with agenda := [] } : State).mayIssue 1 = true ∧ ({ placed with agenda := [] } : State).turn 1 = true ∧
    (({ placed with agenda := [] } : State).unit 1).vec = none ∧ ({ placed with agenda := [] } : State).overBudget 1 = false ∧
    ({ placed with agenda := [] } : State).fetch 1 = .word 0x000A0385 4 ∧ decodeFetched 0x000A0385 4 = some (.addi 7 0 5) ∧
    (isSpindle 1 && !spindleMay (.addi 7 0 5)) = false ∧
    ({ ({ placed with agenda := [] } : State).noteFetch 1 (.word 0x000A0385 4) with cur := 1 } : State).me.answerDue (.addi 7 0 5) = false := by
  decide +kernel
theorem test_step_runs_addi : nextWith (step placed) (fun t => decide ((t.unit 1).readX 7 = 5)) = true := by decide +kernel
theorem witness_StepEventsAndStops :
    ({ State.reset with agenda := [.event .bootGo {}] } : State).agenda = [.event .bootGo {}] ∧ instrLen .bootGo = 0 ∧
    (cube (strand [])).overBudget 1 = false ∧ ((cube (strand [])).unit 1).vec = none ∧ (cube { strand [] with pc := scratch 0 }).fetch 1 = .word 0 2 ∧ decodeFetched 0 2 = none ∧
    (cube { strand [] with pc := 0x100 }).fetch 1 = .stop .xmiss 0x100 none ∧
    decodeFetched 0xFFFFFFD5 4 = none ∧ (∃ i, decodeFetched 0x10000047 4 = some i ∧ isSpindle 8 = true ∧ spindleMay i = false) := by
  refine ⟨?_, ?_, ?_, ?_, ?_, ?_, ?_, ?_, .lease, ?_⟩ <;> decide +kernel

/-! ## Scalar and control -/

theorem witness_IntegerResults : integerResult (strand [(1, 7)]) (.sub 0 1 1) = some (0, 0, 4) ∧ integerResult (strand [(1, 7)]) .cNop = some (0, 0, 2) := by
  decide +kernel
theorem witness_DivisionResults : (strand [(1, 7)]).readX 1 ≠ 0 ∧ ((-7 : Word) - (-3 : Word) * 2) ≠ 0 := by decide +kernel
theorem witness_BitOperations : (0 : Nat) < 64 ∧ ¬ (64 : Nat) < 64 := by decide +kernel
theorem witness_ControlFlow_tests : testedBits { strand [] with vl := 1 } 0 (fun _ b => b = true) ∧ ¬ testedBits { strand [] with vl := 1 } 0 (fun _ b => b = false) := by
  refine ⟨fun i h => ?_, fun h => absurd (h 0 (by decide)) (by decide)⟩
  obtain rfl : i = 0 := Nat.lt_one_iff.mp h
  decide
theorem witness_ControlFlow :
    (strand []).readX 0 = 0 ∧ (strand [(1, 1)]).readX 1 ≠ 0 ∧ ((strand []).readX 0).toInt < ((strand [(1, 1)]).readX 1).toInt ∧
    ((2 : Word) + (0 : BitVec 15).signExtend 64).getLsbD 0 = false ∧ ((2 : Word) + (-1 : BitVec 15).signExtend 64).getLsbD 0 = true := by decide +kernel
/-- R110: BC.LT with x[ra] = −1 and offset −3 goes six bytes back. -/
theorem test_bclt_back : nextWith (exec (.bcLt 1 0 (-3)) (cube { strand [(1, -1)] with pc := 0x100 })) (fun t => decide (t.me.pc = 0xFA)) = true := by decide +kernel
theorem witness_FloatResults : (floatResult (strand []) (.fadd 1 2 3 0)).isSome = true ∧ (floatResult (strand []) (.fmvF 1 2)).isSome = true := by decide +kernel
theorem witness_FloatSignsAndCompares : (newSign (.fsgnX 1 2 3 0)).isSome = true := by decide +kernel
theorem witness_Conversions : wellFormed (.fcvt 1 2 0 3) = true ∧ wellFormed (.fcvt 1 2 15 3) = true ∧ wellFormed (.fcvt 1 2 3 8) = true := by decide +kernel
theorem test_div_wraps : nextWith (exec (.div 3 1 2) (cube (strand [(1, 0x8000000000000000), (2, -1)]))) (fun t => decide (t.me.readX 3 = 0x8000000000000000)) = true := by
  decide +kernel
/-- R100: x[rb] = 0x0C3C takes bits [63:60]. -/
theorem test_bext_clips : nextWith (exec (.bext 3 1 2) (cube (strand [(1, 0xA000000000000001), (2, 0x0C3C)]))) (fun t => decide (t.me.readX 3 = 0xA)) = true := by
  decide +kernel
/-- R39: a word with upper bits set reads as a quiet NaN in FP32. -/
theorem test_fadd_boxed :
    nextWith (exec (.fadd 4 3 5 1) (cube { strand [] with f := [(3, 0x000000013F800000)] })) (fun t => decide (t.me.readF 4 = 0x7FC00000)) = true := by
  decide +kernel
/-- R109: FP64 2.5 to INT32 under MODE 0 is 2 with NX. -/
theorem test_fcvt_nearest_even :
    nextWith (exec (.fcvt 3 1 12 0) (cube { strand [] with f := [(1, 0x4004000000000000)] })) (fun t => decide (t.me.readX 3 = 2) && decide (t.me.fpflg = 1)) = true := by
  decide +kernel

/-! ## Memory -/

theorem witness_LoadResults :
    (let s := cube (strand [(6, scratch 8)])
     someWith (loadOf s (.ld 5 6 3 (-8))) (fun q => okWith (s.check q.addr q.bytes .read q.tag false 0) fun l => State.good s l) && wellFormed (.ld 5 6 3 (-8)) &&
       decide (s.me.loads < 65535) && someWith (loadOf s (.tmld 15 6 24)) (fun q => okWith (s.check q.addr q.bytes .read q.tag false 0) fun l => State.good s l)) = true ∧
    (let s := plied (strand [(6, 0x100008), (7, 3)])
     okWith (s.check 0x100008 8 .read 3 false 0) fun l => State.good s l && usesCell l 3) = true ∧ (3 : Nat) ≤ (6 : Fin 8).val ∧ (6 : Fin 8).val < 7 := by
  decide +kernel
theorem witness_Stores :
    (let s := cube (strand [(6, scratch 8)])
     someWith (storeOf s (.st 5 6 3 0)) (fun q => okWith (s.check q.addr q.bytes .write q.tag true 0) fun l => State.good s l && !usesCell l q.tag)) = true ∧
    (let s := plied (strand [(6, 0x100000), (7, 3)])
     someWith (storeOf s (.stPly 5 6 0 7 7)) (fun q => okWith (s.check q.addr q.bytes .write q.tag true 0) fun l =>
       State.good s l && usesCell l q.tag && decide (0 < Tab.read 0 (s.ctx s.myCtx).poolFree 0))) = true := by decide +kernel
theorem witness_AccessesStop :
    (let s := cube (strand [(6, scratch 9)])
     someWith (loadOf s (.ld 5 6 3 0)) (fun q => decide (q.addr.toNat % q.bytes ≠ 0)) && someWith (storeOf s (.st 5 6 1 0)) (fun q => decide (q.addr.toNat % q.bytes ≠ 0))) = true ∧
    (let s := cube (strand [(6, 0x100)])
     someWith (loadOf s (.ld 5 6 0 0)) (fun q => decide (q.addr.toNat % q.bytes = 0) && errWith (s.resolve 0 0 q.addr .read q.tag) .xmiss) &&
     someWith (storeOf s (.st 5 6 0 0)) (fun q => decide (q.addr.toNat % q.bytes = 0) && errWith (s.resolve 0 0 q.addr .write q.tag) .xmiss)) = true := by
  decide +kernel
theorem witness_WindowsAndPlies :
    (let s := cube (strand [])
     let at_ (v : Nat) : Bool := decide (v / 2 ^ 60 = 15)
     at_ (scratch 0).toNat && decide ((s.cluster 0).ctx = some 0) && decide ((s.cluster 1).ctx ≠ some 0) && decide (poolBase (s.core 0) ≤ 0xFFFFF) && decide (0 < poolBase (s.core 0)) &&
     decide ((scratch (2 ^ 20)).toNat / 2 ^ 20 % 2 ^ 8 ≠ 0)) = true ∧
    (let s := plied (strand [])
     okWith (s.resolve 0 0 0x10003F .write 3) fun l => usesCell l 3 && decide (l.key < 2 ^ 46) && decide (l.key % 64 + 1 ≤ 64) && (s.put 0 l [7] 3).isSome) = true := by
  decide +kernel
theorem witness_FullWords :
    (let s := cube (strand [(6, scratch 0)])
     let f : State := { s with full := [(scratchKey 0 0 / 8, true)] }
     okWith (s.check (scratch 0) 8 .write 0 true 0) (fun l => l.scratch && State.good s l && !s.isFull l.key) &&
     okWith (f.check (scratch 0) 8 .write 0 true 0) (fun l => l.scratch && State.good f l && f.isFull l.key) &&
     okWith (s.check (scratch 0) 8 .read 0 false 0) (fun l => l.scratch && State.good s l)) = true ∧
    isMsgStrand (cube (strand [])).cur = false ∧ isSpindle (cube (strand [])).cur = false ∧ isMsgStrand (handler (strand [])).cur = true ∧
    (fullLoadOf (cube (strand [])) (.cLdfe 1 6)).isSome = true ∧ (emptyStoreOf (cube (strand [])) (.cStef 1 6)).isSome = true := by decide +kernel
theorem witness_AtomicResults :
    (let s := cube (strand [(6, scratch 8), (7, scratch (2 ^ 28))])
     okWith (s.check (scratch 8) 8 .write s.myTag true 0) (fun l => State.good s l && decide (scopeFor s l = 0) && !usesCell l s.myTag) &&
     okWith (s.check (scratch (2 ^ 28)) 4 .write s.myTag false 0) (fun l => State.good s l && decide (scopeFor s l = 1)) &&
     decide (s.me.stores < 65535) && decide (s.me.loads < 65535)) = true ∧
    (atomicOf (.amoFadd 5 6 7 3 false)).isSome = true ∧ (atomicOf (.amoSwap 0 6 7 0 true)).isSome = true := by decide +kernel
theorem witness_Locks :
    (let s := cube (strand [(6, scratch 8)])
     okWith (s.check (scratch 8) 8 .write s.myTag true 0) (fun l => State.good s l && decide (scopeFor s l = 0) && !usesCell l s.myTag &&
       decide (lockFields (BitVec.ofNat 64 (leVal (s.view s.myCtx l 8 s.myTag))) = (false, false, 0, 0)))) = true ∧
    (lockOf (.runlk 0 6 0)).isSome = true ∧ (lockOf (.wlkT 5 6 0)).isSome = true ∧ lockFields 0xC000000000000000 = (true, true, 0, 0) ∧
    lockFields 0x3FFFFFFFFFFFFFFF = (false, false, 2 ^ 30 - 1, 2 ^ 32 - 1) ∧ (strand []).wait = none ∧ (strand []).wwait = none ∧
    ({ strand [] with wwait := some (0, scratchKey 0 8, 0) } : Strand).wwait = some (0, scratchKey 0 8, 0) := by decide +kernel
theorem witness_FencesAndWaits : (strand []).loads = 0 ∧ (strand []).stores = 0 ∧ ({ strand [] with loads := 16 } : Strand).loads ≠ 0 ∧ ¬ (16 : Nat) ≤ (14 : Fin 16).val := by
  decide +kernel


/-! ## Vectors and masks -/

/-- Lanes 0 to 3 of 32 bits active, m1 names lanes 0 and 2. -/
def vstrand : Strand := { strand [(5, 3), (6, scratch 64)] with vl := 4, v := [(1, 0x00000004000000030000000200000001)], m := [(1, 5)] }

theorem witness_VectorLanes : (laneFormOf vstrand (.vaddI 2 1 1 2 1)).isSome = true ∧ (laneFormOf vstrand (.vdotBf16 3 1 2 0)).isSome = true ∧
    (laneFormOf vstrand (.vins 2 5 6 2)).isSome = true ∧ (laneFormOf vstrand (.vsel 2 1 1 2 1)).isSome = true := by decide +kernel
/-- R172: lanes outside the mask keep their value. -/
theorem test_vadd_masked : nextWith (exec (.vaddI 1 1 1 2 1) (cube vstrand)) (fun t => decide (t.me.readV 1 = 0x00000004000000060000000200000002)) = true := by
  decide +kernel
theorem witness_VectorScalars : (7 : Fin 32).val < 8 ∧ 8 ≤ (8 : Fin 32).val ∧ (10 : Fin 32).val ≤ 10 ∧ lanesIn vstrand 1 32 0 = [1, 2, 3, 4] := by decide +kernel
theorem test_vred_sum : nextWith (exec (.vred 7 1 0 2 1) (cube vstrand)) (fun t => decide (t.me.readX 7 = 4)) = true := by decide +kernel
theorem witness_VectorConversions : wellFormed (.vcvt 5 4 3 1 1) = true ∧ wellFormed (.vcvt 5 4 0 1 1) = true := by decide +kernel
theorem witness_VectorComparesAndMasks : (compareFormOf vstrand (.vcmpF 2 2 1 3 2 0)).isSome = true ∧ (compareFormOf vstrand (.vcmpI 0 3 1 1 0 0)).isSome = true ∧
    maskFormOf vstrand (.mnot 3 1) = some (3, 0xFFFFFFFFFFFFFFFA) := by decide +kernel
theorem test_vcmp_clears_inactive : nextWith (exec (.vcmpI 1 1 1 0 2 1) (cube vstrand)) (fun t => decide (t.me.readM 1 = 5)) = true := by decide +kernel
theorem witness_VectorAccesses :
    (let s := cube vstrand
     someWith (vecLoadOf s (.vld 2 6 2 1)) (fun q => (List.range 64).all fun j => !(decide (j < 64 / q.n) && decide (j < 4) && (s.me.readM q.m).getLsbD j) ||
       okWith (s.check (q.addr j) q.n .read q.tag false j) (State.good s)) &&
     someWith (vecStoreOf s (.vst 1 6 2 1)) (fun q => (List.range 64).all fun j => !(decide (j < 64 / q.n) && decide (j < 4) && (s.me.readM q.m).getLsbD j) ||
       okWith (s.check (q.addr j) q.n .write q.tag true j) fun l => State.good s l && !usesCell l q.tag) &&
     someWith (vecStoreOf s (.vsts 1 6 5 2 1)) (fun q => okWith (s.check (q.addr 0) q.n .write q.tag true 0) (fun _ => true) &&
       errWith (s.check (q.addr 2) q.n .write q.tag true 2) (.event .align (q.addr 2) 2 0))) = true ∧
    ∀ j, ¬ (j < 16 ∧ takesPart (strand []) 0 j) := by
  refine ⟨by decide +kernel, fun j h => ?_⟩
  exact absurd h.2.1 (by show ¬ j < 0; omega)

/-! ## Plies and special registers -/

/-- Context 0 has 9 tags of which 1 is live; class 0 may have two, class 1 none. -/
def tagged (u : Strand) (cur : Nat) : State :=
  { cube u with cur := cur, units := [(cur, u)], ctxs := [(0, { state := .running, clmask := 1, ntags := 9, quota := [(0, 2)], tags := [(1, some ⟨false, 0⟩)] })] }
theorem witness_Plies :
    (let s := tagged (strand [(5, 1), (6, 7)]) 1
     let k := s.ctx s.myCtx
     decide ((k.tags.filter fun e => match e.2 with
       | some x => decide (x.cls = s.me.plyq)
       | none => false).length < (Tab.read 0 k.quota s.me.plyq.toNat).toNat) && k.tags.all (fun e => decide (e.1 ≠ 2)) &&
     k.tags.any (fun e => decide (e.1 = 1)) && Tab.wf none k.tags && s.tagLive s.myCtx 1 && !s.tagLive s.myCtx 7 && decide (s.me.stores < 65535) && !s.me.recfree) = true ∧
    (let s := tagged { strand [] with plyq := 1, recfree := true } 0
     decide ((Tab.read 0 (s.ctx s.myCtx).quota s.me.plyq.toNat).toNat = 0) && isMsgStrand s.cur && s.me.recfree) = true := by decide +kernel
theorem test_plynew_lowest : nextWith (exec (.plynew 3) (tagged (strand []) 1)) (fun t => decide (t.me.readX 3 = 2) && t.tagLive 0 2) = true := by decide +kernel
/-- R140: PLYSET of a tag that is not live raises PERM. -/
theorem test_plyset_perm : nextWith (exec (.plyset 6) (tagged (strand [(6, 7)]) 1)) (fun t => decide ((t.me.event.map EventMsg.code) = some .perm)) = true := by
  decide +kernel
theorem test_plyret_retires : nextWith (exec (.plyretC 5) (tagged (strand [(5, 1)]) 1)) (fun t => decide (t.me.stores = 1) && !t.tagLive 0 1 && decide (t.ops.length = 1)) = true := by
  decide +kernel
theorem witness_SpecialRegisters :
    (let s := tagged (strand [(5, 1), (6, 7)]) 1
     !isSpindle s.cur && !isService s.cur && decide (special s 0x1FF = none) && decide (special s 0x13 = some 0) && decide ((0x200 : Fin 1024).val ≥ 0x200) &&
     (ownWrite s.me 0x13 1).isSome && s.tagLive s.myCtx 1 && !s.tagLive s.myCtx 7 && (ownWrite s.me 0x00 7).isNone && (ownWrite s.me 0x54 7).isNone) = true := by decide +kernel
/-- R42: VL takes min(x, 64). -/
theorem test_srw_vl : nextWith (exec (.srw 6 0x13) (cube (strand [(6, 200)]))) (fun t => decide (t.me.vl = 64)) = true := by decide +kernel
/-- R45: COREID is core, then cube from bit 8. -/
theorem test_srr_strand : nextWith (exec (.srr 6 1) (cube (strand []))) (fun t => decide (t.me.readX 6 = 1)) = true := by decide +kernel
theorem witness_SpindleControl :
    slotOf (1 : Nat) < 8 ∧ (1 : Nat) < 4096 ∧ ((cube (strand [])).unit (unitKey 0 8)).busy = false ∧
    ({ cube (strand []) with units := [(1, strand []), (8, { busy := true, st := .run })] } : State).unit 8 = { busy := true, st := .run } ∧
    (0x00040001 : Word).getLsbD 0 = true ∧ (0x00040001 : Word).getLsbD 3 = false ∧ (scratch 0x2001).toNat % 4096 ≠ 0 ∧ (scratch 0x2000).toNat % 4096 = 0 ∧
    (scratch 0x2000).toNat / 2 ^ 60 = 15 ∧ (scratch 0x2000).toNat / 2 ^ 28 % 256 = coreOf 1 ∧ (scratch (2 ^ 28)).toNat / 2 ^ 28 % 256 ≠ coreOf 1 := by decide +kernel
/-- R51: GO starts the idle loader at START. -/
theorem test_spindle_go :
    nextWith (exec (.srw 6 0x50) (cube (strand [(6, 0x00040001)]))) (fun t => (t.unit 8).busy && decide ((t.unit 8).pc = 8)) = true := by decide +kernel
theorem witness_TimeAndNotes : isSpindle (cube (strand [])).cur = false ∧ isSpindle 8 = true ∧ (strand []).stores = 0 ∧ (strand []).msgs = 0 ∧ (strand []).copies = 0 ∧
    ({ strand [] with stores := 1 } : Strand).stores ≠ 0 := by decide +kernel
theorem test_hnote_sends :
    nextWith (exec (.hnote 5) { cube (strand [(5, 2)]) with ctxs := [(0, { state := .running, clmask := 1, msixEnable := true, vectors := [(2, { masked := false })] })] })
      (fun t => decide (t.irqs = [(1, 2)]) && decide (t.me.last = 0)) = true := by decide +kernel

/-! ## Messages, queues, tasks -/

/-- The launch of context 0 has claimed queue 2, which holds these items and room for two. -/
def queued (u : Strand) (items : List Line) : State :=
  { cube u with ctxs := [(0, { state := .running, clmask := 1, queues := [(2, some ⟨items, 0, 1, 0⟩)], launch := some ⟨[], true, [], none, 0, [], 4⟩ })] }
theorem witness_HandlersAndQueues :
    isMsgStrand 1 = false ∧ isMsgStrand (handler (strand [])).cur = true ∧ (handler (strand [])).me.msgrpl = 0 ∧
    (handler (strand [])).replyOwner 0 (2 ^ 59 + 3 * 2 ^ 28) = some (0, unitNumber (unitKey 3 0)) ∧ ((2 ^ 59 + 3 * 2 ^ 28 : Nat) : BitVec 60) ≠ 0 ∧
    (handler (strand [])).replyOwner 0 (2 ^ 59 + 5 * 2 ^ 36) = some (5, unitNumber (unitKey 0 0)) ∧
    (let s := queued (strand [(5, 2), (6, scratch 64)]) [7]
     let f := queued (strand [(5, 2), (6, scratch 64)]) [7, 8]
     (s.ctx 0).claims 2 && decide (Tab.read none (s.ctx 0).queues 2 = some ⟨[7], 0, 1, 0⟩) && decide (s.me.msgs < 65535) && !s.plyretsOf s.cur s.me.wid s.fresh &&
     okWith (s.check (scratch 64) 64 .read s.myTag false 0) (State.good s) && okWith (s.check (scratch 64) 64 .write 0 false 0) (fun l => State.good s l && l.scratch) &&
     (s.parked 0 fun _ => true).isEmpty && okWith (f.check (scratch 64) 64 .read f.myTag false 0) (State.good f) && decide (2 ^ 1 ≤ [7, 8].length)) = true ∧
    (let e := queued (strand [(5, 2), (6, scratch 64)]) []
     okWith (e.check (scratch 64) 64 .write 0 false 0) (fun l => State.good e l && l.scratch) &&
     decide ((e.core (coreOf e.cur)).slots.length < (e.core (coreOf e.cur)).poolSize) && Tab.wf none (e.core (coreOf e.cur)).slots) = true := by decide +kernel
theorem test_deq_nb_empty : nextWith (exec (.deqNb 7 5 6) (queued (strand [(5, 2), (6, scratch 64), (7, 9)]) [])) (fun t => decide (t.me.readX 7 = 0)) = true := by
  decide +kernel
theorem test_deq_nb_oldest :
    nextWith (exec (.deqNb 7 5 6) (queued (strand [(5, 2), (6, scratch 64)]) [0xAB, 8])) (fun t => decide (t.me.readX 7 = 1) && decide (t.byte (scratchKey 0 64) = 0xAB) &&
      decide ((Tab.read none (t.ctx 0).queues 2).map HwQueue.items = some [8])) = true := by decide +kernel
theorem test_enq_full : nextWith (exec (.enq 7 5 6) (queued (strand [(5, 2), (6, scratch 64)]) [7, 8])) (fun t => decide (t.me.readX 7 = 0) && decide (t.me.last = 3)) = true := by
  decide +kernel

/-- A descriptor for handler 20 of unit 1 of cube 0, class 3; and one of two payload flits. -/
def descriptor : Word := 0x0000001400100000
theorem witness_MessagesAndCommands :
    (let s := cube (strand [(5, descriptor), (6, 0x000B000000000000), (8, scratch 64)])
     descOk descriptor.toNat false && !descOk 0x0000000F00100000 false && decide (s.me.msgs < 65535) && decide (s.me.copies < 65535) && okWith (s.replyAddress 0) (fun r => decide (r = 0)) &&
     okWith (s.replyAddress (scratch 64)) (fun r => decide (r ≠ 0)) && decide (s.sendState 0 (unitNumber s.cur) (descClass descriptor.toNat) = .ready) &&
     okWith (s.readFlits (scratch 64) 2) (fun _ => true)) = true ∧
    isEngineUnit (512 + 64) = true ∧ isEngineUnit (512 + 2) = true ∧ isEngineUnit 40 = true ∧ isEngineUnit 3 = false ∧ (scratch 64).toNat % 64 = 0 ∧ (scratch 72).toNat % 64 ≠ 0 := by
  decide +kernel
theorem test_send_packet :
    nextWith (exec (.send 0 5 6 8) (cube (strand [(5, descriptor), (6, 11), (8, 12)]))) (fun t => decide (t.me.msgs = 1) &&
      decide ((t.inner.map fun p => (p.dunit, p.hcls, p.payload)) = [(1, 20, [11, 12, 0, 0])])) = true := by decide +kernel

/-- A record in scratchpad words from 64: entry 0x100, home core 1, GMEM set. -/
def template (u : Strand) : State := { cube u with mem := [⟨scratchKey 0 65, 1⟩, ⟨scratchKey 0 74, 8⟩, ⟨scratchKey 0 76, 1⟩] }
theorem witness_SpawnRecords :
    (let s := template (strand [(5, 0xFFFF000000000003), (6, scratch 64), (8, scratch (3 * 2 ^ 28)), (9, scratch 72)])
     okWith (s.check (scratch 64) 64 .read s.myTag false 0) (fun l => State.good s l && !(wordAt (leWords (s.view s.myCtx l 64 s.myTag)) 0).getLsbD 0 &&
       decide ((wordAt (leWords (s.view s.myCtx l 64 s.myTag)) 1).toNat / 2 ^ 32 % 256 = 1)) && s.inPartition s.myCtx 1 && !s.inPartition s.myCtx 8 && decide (s.me.msgs < 65535) &&
     decide ((s.core (coreOf s.cur)).spawns.length < 32) && okWith (s.check (scratch (3 * 2 ^ 28)) 1 .read s.myTag false 0) (fun l => State.good s l && l.scratch)) = true := by
  decide +kernel
/-- R155: GMEM is sent as zero, and HOME is where the record goes. -/
theorem test_tspawn_record :
    nextWith (exec (.tspawn 6) (template (strand [(6, scratch 64)]))) (fun t => decide ((t.inner.map fun p => (p.dunit, p.hcls, wordAt p.payload 0, wordAt p.payload 1)) =
      [(1, 3, 0x100, 0x100000000)])) = true := by decide +kernel
/-- One core of one strand. -/
def gangState (u : Strand) : State := { cube u with mem := [⟨scratchKey 0 65, 1⟩, ⟨scratchKey 0 66, 1⟩, ⟨scratchKey 0 73, 2⟩] }
theorem witness_DecrementsAndGangs :
    (let s := gangState (strand [(6, scratch 64)])
     okWith (s.check (scratch 64) 64 .read s.myTag false 0) (fun l => State.good s l && s.gangOk s.myCtx (leWords (s.view s.myCtx l 64 s.myTag))) &&
     !s.gangOk s.myCtx [] && !s.handleOk (scratch 64).toNat && s.handleOk (0xF000000000000000 + counterOff (s.core 0) 0) && !s.handleOk (0xF000000000000000 + counterOff (s.core 0) 1024) &&
     decide (s.sendState 0 (unitNumber s.cur) 0 = .ready)) = true := by decide +kernel
theorem test_gang_submits : nextWith (exec (.gang 6) (gangState (strand [(6, scratch 64)]))) (fun t => decide ((t.die 0).gangs.map (fun g => g.todo.map (·.1)) = [[0]])) = true := by
  decide +kernel
theorem witness_Suspensions :
    (let s := cube (strand [(6, scratch 64)])
     decide ((s.core 0).slots.length < (s.core 0).poolSize) && Tab.wf none (s.core 0).slots && okWith (s.check (scratch 64) 8 .read 0 false 0) (fun l => State.good s l && l.scratch && !s.isFull l.key)) = true ∧
    (let s : State := { cube (strand [(6, scratch 64)]) with cores := [(0, { poolSize := 0 })], full := [(scratchKey 0 64 / 8, true)] }
     decide ((s.core 0).poolSize ≤ (s.core 0).slots.length) && okWith (s.check (scratch 64) 8 .read 0 false 0) (fun l => State.good s l && l.scratch && s.isFull l.key)) = true ∧
    (let s : State := { cube (strand [(6, scratch 64)]) with cores := [(0, { poolSize := 0 })] }
     okWith (s.check (scratch 64) 8 .read 0 false 0) (fun l => State.good s l && l.scratch && !s.isFull l.key)) = true := by decide +kernel
theorem test_texit_rests : nextWith (exec .cTexit (cube (strand [(6, 1)]))) (fun t => decide (t.me.st = .idle)) = true := by decide +kernel
theorem test_yield_handler : nextWith (exec .yield (handler (strand []))) (fun t => decide (t.me.event.map EventMsg.code = some .hblock)) = true := by decide +kernel

/-! ## Skeins -/

def aRecord : SkRec := ⟨77, 1, 0, 3, 0, 0, 0⟩
def aStage (b : List SkRec) : Stage := { entry := 0x200, depth := 2, high := 2, low := 0, bobbin := b, hold := none, window := [], raised := false }
/-- Skein 5 of context 0: one stage of depth two, and its exit bobbin. -/
def aSkein (b : List SkRec) : Skein :=
  { sid := 5, fixed := false, sstart := 1, comm := 1, rcnt := none, lfsr := 1, stages := [aStage b], exit := aStage [], releases := [], declared := 0, reassigned := 0, allot := [] }
def skeined (u : Strand) (b : List SkRec) : State :=
  { cube u with ctxs := [(0, { state := .running, clmask := 1, ntags := 9, tags := [(1, some ⟨false, 0⟩)], skeins := [(5, some (aSkein b))] })] }
theorem witness_Skeins :
    (let s := skeined (strand [(5, 5), (6, 77), (7, 1)]) [aRecord]
     decide (s.me.msgs < 65535) && decide (s.skein s.myCtx 5 = some (aSkein [aRecord])) && s.tagLive s.myCtx 1 && !s.plyretsOf s.cur s.me.wid s.fresh &&
     decide ((aSkein [aRecord]).setOf 0 = [0]) && decide (((aSkein [aRecord]).stage 0).bobbin.length < ((aSkein [aRecord]).stage 0).depth) &&
     decide (((aSkein [aRecord, aRecord]).stage 0).depth ≤ ((aSkein [aRecord, aRecord]).stage 0).bobbin.length) && !(aSkein [aRecord]).blocked 0 && !isMsgStrand s.cur &&
     decide (s.me.held = none) && decide (s.me.worker = none) && decide (0 < (aSkein []).stages.length)) = true ∧
    (let s := skeined { strand [] with held := some aRecord, heldSid := 5 } []
     decide (s.me.held ≠ none) && decide (s.skein s.myCtx s.me.heldSid = some (aSkein [])) && decide (((aSkein []).stage aRecord.stage.toNat).hold = none)) = true ∧
    (0x8000000000000005 : Word).getLsbD 63 = true ∧ (5 : Word).getLsbD 63 = false := by decide +kernel
theorem test_bobdeq_takes :
    nextWith (exec (.bobdeq 5) (skeined (strand [(5, 5)]) [aRecord])) (fun t => decide (t.me.readX 10 = 77) && decide (t.me.pc = 0x200) && t.me.recfree && decide (t.me.ply = 1)) = true := by
  decide +kernel
theorem test_bobenq_full :
    nextWith (exec (.bobenq 8 5 6 7) (skeined (strand [(5, 5), (6, 77), (7, 1)]) [aRecord, aRecord])) (fun t => decide (t.me.readX 8 = 0) && decide (t.me.last = 3)) = true := by
  decide +kernel
theorem test_recdone_releases :
    nextWith (exec .recdoneP (skeined { strand [] with held := some aRecord, heldSid := 5, recfree := true } []))
      (fun t => decide (t.me.held = none) && !t.me.recfree && someWith (t.skein 0 5) fun k => decide ((k.releases.map Release.pass) = [true])) = true := by decide +kernel

/-! ## Tiles and the array -/

/-- Core 0 holds the lease. READY tiles: 1 and 2 BF16 2 × 2, 3 FP16, 4 FP32, 5 FP64, 6 Q8 1 × 32, 7 Q4 1 × 32, 8 BF16 1 × 32, 9 BF16 1 × 4, 10 BF16 1 × 2;
accumulators 0 (FP32) and 1 (FP64). -/
def array (u : Strand) : State :=
  { cube u with clusters := [(0, {
    ctx := some 0, holder := some 0
    tcfg := [(1, 0x8001011), (2, 0x8001011), (3, 0x8001012), (4, 0x8001013), (5, 0x8001014), (6, 0x801F005), (7, 0x801F006), (8, 0x801F001), (9, 0x8003001), (10, 0x8001001)]
    tstate := [(1, .ready), (2, .ready), (3, .ready), (4, .ready), (5, .ready), (6, .ready), (7, .ready), (8, .ready), (9, .ready), (10, .ready)]
    acc := [(accKey 0 0 0, 0x3FF00000000000)]
    tiles := [(65536, 0x80), (65537, 0x3F), (131073, 0x40)]
    accCfg := [(0, 0x10), (1, 0x11)] })] }
theorem witness_ArrayCommands_lease : leaseHeld (array (strand [])) := by
  unfold leaseHeld; decide +kernel
theorem witness_ArrayCommands_owners : mayUseTile (array (strand [])) 1 ∧ mayUseTile (array (strand [])) 10 ∧ mayUseAcc (array (strand [])) 0 ∧
    mayUseAcc (array (strand [])) 3 ∧ settled (array (strand [])) 1 ∧ settled (array (strand [])) 31 := by
  unfold mayUseTile mayUseAcc settled; decide +kernel
theorem witness_ArrayCommands :
    (let k := (array (strand [])).cluster 0
     let good (f a b : Nat) (c : Fin 4) : Bool := let a := Fin.ofNat 32 a; let b := Fin.ofNat 32 b
       (k.tcfgOf a).getLsbD 27 && (k.tcfgOf b).getLsbD 27 && (k.accOf c).getLsbD 4 && decide ((k.accOf c).getLsbD 0 = decide (f = 2)) &&
       decide (tcFmt (k.tcfgOf a) = [1, 2, 4, 5, 6, 6, 5, 3].getD f 0) && decide (tcFmt (k.tcfgOf b) = [1, 2, 4, 5, 6, 1, 1, 3].getD f 0) &&
       decide (tcCols (k.tcfgOf a) = tcCols (k.tcfgOf b)) && decide (tcGsz (k.tcfgOf a) = tcGsz (k.tcfgOf b)) && decide (k.stateOf a = .ready) && decide (k.stateOf b = .ready)
     good 0 1 2 0 && good 1 3 3 0 && good 2 5 5 1 && good 3 6 6 0 && good 4 7 7 0 && good 5 7 8 0 && good 6 6 8 0 && good 7 4 4 0 &&
     decide (tcCols (k.tcfgOf 9) % patSize 0 = 0) && decide (tcCols (k.tcfgOf 10) = tcCols (k.tcfgOf 9) * patKept 0 / patSize 0) &&
     decide (1 ≤ tcFmt (k.tcfgOf 5)) && decide (tcFmt (k.tcfgOf 5) ≤ 4) && decide (8 * 31 + tcRows (k.tcfgOf 5) ≤ 256)) = true := by decide +kernel
/-- Every command of the array stands among the operations in flight after its issue. -/
theorem test_array_commands_issue :
    ([Instr.mmaBf16 0 1 2 true, .mmaF16 0 3 3 false, .mmaF64 1 5 5 true, .mmaQ8 0 6 6 true, .mmaQ4 0 7 7 true, .mmaQ4b 0 7 8 true, .mmaQ8b 0 6 8 true, .mmaF32r 0 4 4 true,
      .mmsBf16 0 9 10 true 0, .acvt 1 0 31 0 false, .tzero 9, .azero 0 0].all fun i => nextWith (exec i (array (strand []))) fun t =>
        decide (t.ops.length = 1) && decide (t.me.tiles = 1) && decide (t.me.event = none)) = true := by decide +kernel
/-- R59, R199: 1.0 in accumulator slot (0, 0) plus 1.0 × 2.0. -/
theorem test_mma_adds :
    nextWith (exec (.mmaBf16 0 1 2 false) (array (strand []))) (fun s => nextWith (exec .arrayCommandComplete s) fun t =>
      decide (Tab.read 0 (t.cluster 0).acc (accKey 0 0 0) = 0x40080000000000) && t.ops.isEmpty) = true := by decide +kernel
theorem witness_LeasesAndGate :
    ((cube (strand [])).cluster 0).holder = none ∧ ((cube (strand [])).cluster 0).waiting = [] ∧ ((array (strand [])).cluster 0).holder = some 0 ∧
    isMsgStrand (handler (strand [])).cur = true ∧ ((handler (strand [])).cluster 0).holder ≠ some (coreOf (handler (strand [])).cur % 8) ∧
    (let s : State := { cube (strand []) with clusters := [(0, { ctx := some 0, holder := some 0, waiting := [7] })] }
     decide ((s.cluster 0).holder = some (coreOf s.cur % 8)) && decide ((s.cluster 0).waiting = [7])) = true ∧
    (let s : State := { cube (strand []) with clusters := [(0, { ctx := some 0, holder := some 3 })] }
     decide ((s.cluster 0).holder = some 3) && decide (3 ≠ coreOf s.cur % 8)) = true := by decide +kernel
theorem test_lrel_passes_on :
    nextWith (exec .lrel { cube (strand []) with clusters := [(0, { ctx := some 0, holder := some 0, waiting := [7] })] }) (fun t => decide ((t.cluster 0).holder = some 7)) = true := by
  decide +kernel
theorem test_tile_handler : nextWith (exec (.azero 0 0) (handler (strand []))) (fun t => decide (t.me.event.map EventMsg.code = some .hblock)) = true := by decide +kernel

/-- A map of 2 × 2 BF16 elements, rows 4 bytes apart, at this address. -/
def smallMap (base : Word) : BitVec 256 := base.setWidth 256 ||| 0x11000000000000000000000004000000000002000200000000_00000000
def mapped : State := array { strand [(6, scratch 0x600), (7, scratch 0xA00)] with tm := [(1, smallMap (scratch 0x400)), (2, smallMap (scratch 0x500))] }
theorem witness_Tiles :
    (let s := mapped
     let m := tmapOf (s.me.readTm 1)
     okWith (s.tileChecks 1 m (originOf (s.me.readX 0)) .read false) (fun _ => true) && okWith (s.tileChecks 1 m (originOf (s.me.readX 0)) .write true)
       (fun ps => ps.all fun p => !usesCell p.loc (s.mapTag m)) && decide (s.copyOps (coreOf s.cur) < 256) && !s.tileBusy 1 && !s.tileWritten 1 &&
     decide ((s.cluster 0).stateOf 1 = .ready) && decide (s.arrayCmds 0 = []) && tcBad 0x800000F && !tcBad 0x8001011 && (0x800000F : Word).getLsbD 27) = true := by decide +kernel
theorem witness_Tiles_foreign : ¬ mayUseTile ({ array (strand []) with cur := 17 } : State) 1 := by unfold mayUseTile; decide +kernel
theorem test_tld_fills :
    nextWith (exec (.tld 1 1 0) mapped) (fun t => decide ((t.cluster 0).stateOf 1 = .filling) && decide (t.ops.length = 1)) = true := by decide +kernel
theorem test_tcfg_empties :
    nextWith (exec (.tcfg 1 5) (array (strand [(5, 0x8001012)]))) (fun t => decide ((t.cluster 0).stateOf 1 = .empty) && decide ((t.cluster 0).tcfgOf 1 = 0x8001012)) = true := by
  decide +kernel

/-! ## Engine operations, quantised blocks -/

/-- A collective's descriptor in scratchpad words from 0x600: operation 2 of BF16, one member, its list at 0x800, DONE at 0x900. -/
def described : State :=
  { mapped with mem := [⟨scratchKey 0 0x600, 0x12⟩, ⟨scratchKey 0 0x602, 1⟩, ⟨scratchKey 0 0x609, 8⟩, ⟨scratchKey 0 0x60F, 0xF0⟩, ⟨scratchKey 0 0x621, 9⟩, ⟨scratchKey 0 0x627, 0xF0⟩] }
theorem witness_EngineWork :
    (let s := described
     let md := tmapOf (s.me.readTm 1)
     let ms := tmapOf (s.me.readTm 2)
     let plain (m : TMap) : Bool := !m.misshapen && !m.zpad && !m.trans && !m.misaligned && decide (1 ≤ m.fmt) && decide (m.fmt ≤ 4) && decide (m.ndim ≤ 1)
     plain md && plain ms && decide (md.fmt = ms.fmt) && decide (md.extent 0 = ms.extent 0) && decide (md.extent 1 = ms.extent 1) && decide (s.me.copies < 65535) &&
     (tmapOf (s.me.readTm 0)).misshapen && okWith (s.checkRuns (fun _ => true) .read (s.mapTag ms) false true (cutRuns (tensorRuns ms))) (fun _ => true) &&
     okWith (s.checkRuns (fun _ => true) .write (s.mapTag md) true true (cutRuns (tensorRuns md))) (fun _ => true) &&
     okWith (s.checkRuns s.isLocal .read (s.mapTag ms) false false (cutRuns (tensorRuns ms))) (fun _ => true) &&
     okWith (s.checkRuns s.isLocal .write (s.mapTag md) true false (cutRuns (tensorRuns md))) (fun _ => true) &&
     okWith (s.checkRuns s.isLocal .read s.myTag false false (cutRuns [⟨s.me.readX 7, 0, 4 * md.extent 1, 0, .none⟩])) (fun lp =>
       okWith (s.readPlaced s.myTag lp) fun q => (words32 q.2).all (fun k => decide (k < ms.extent 1)) &&
         okWith (s.checkRuns s.isLocal .read (s.mapTag ms) false false (cutRuns ((words32 q.2).mapIdx fun j k => ⟨ms.addr 0 k 0 0, j * 4, 4, 0, .none⟩))) (fun _ => true)) &&
     okWith (s.readBlock (s.me.readX 6) 64 0) (fun q => let b := leWords q.2
       descriptorOk b && decide (cdOp b = 2) && collShape 2 (cdCount b) md ms && decide (ms.fmt = cdFmt b) && decide ((wordAt b 1).toNat % 4 = 0) &&
       okWith (q.1.readCubes (wordAt b 1) (cdCount b)) (fun r => decide (words32 r.2 = [0]) && noTwice (words32 r.2) &&
         okWith (s.collPlaces .read (s.mapTag ms) false (collRuns ms)) (fun _ => true) && okWith (s.collPlaces .write (s.mapTag md) true (collRuns md)) (fun _ => true) &&
         okWith (r.1.check (wordAt b 4) 8 .write 0 false 0) (State.good r.1)))) = true := by decide +kernel
theorem test_engine_operations_issue :
    ([Instr.cpy 1 2 0, .gath 1 2 7 0, .coll 1 2 6].all fun i => nextWith (exec i described) fun t => decide (t.ops.length = 1) && decide (t.me.copies = 1)) = true := by decide +kernel
theorem witness_Conversions_blocks : (∃ m e, (headerA false 0x7FF).1 = .value m e) ∧ (∃ m e, (headerB true 0x700000000000).1 = .value m e) ∧
    (∃ w : Word, (headerA false w).1 = .poison) := ⟨⟨_, _, rfl⟩, ⟨_, _, rfl⟩, ⟨0xFFF, by decide +kernel⟩⟩

/-! ## Privileged instructions -/

/-- The service core of cluster 0 executes. -/
def service (u : Strand) : State := { cube (strand []) with cur := serviceKey 0, units := [(1, strand []), (serviceKey 0, u)] }
theorem witness_Privileged :
    isService (cube (strand [])).cur = false ∧
    (let s := service (strand [(5, 0x100), (6, scratch 0x1000), (7, 0x10)])
     isService s.cur && !s.enginesOf 0 && (takeMessage 0 (Tab.read [] (s.core 0).inbox 1)).isNone && (s.firmwarePlace (scratch 0x1000)).isSome &&
     !(s.unit (unitKey 0 1)).halted && (({ s with units := [(1, { halted := true })] } : State).unit (unitKey 0 1)).halted && (s.stopCtx 0).quietCtx 0 &&
     (0x10 : Word).getLsbD 4 && !(0x100 : Word).getLsbD 4 && !malformedPte 0 0) = true := by decide +kernel
theorem test_gstop_resumes : nextWith (exec (.gstop 7) (service (strand [(7, 0x10)]))) (fun t => (t.ctx 0).stopped) = true := by decide +kernel
theorem test_mbxr_priv : nextWith (exec (.mbxr 3 5 6) (cube (strand []))) (fun t => decide (t.me.event.map EventMsg.code = some .priv)) = true := by decide +kernel

/-! ## Steps of the machine: scheduling, launches, contexts -/

def bare (k : PktKind) : Packet := { (default : Packet) with kind := k }
/-- Core 0 has strands 1 to 7 idle; its list of priority 2 holds the record of slot 4. -/
def idling (inp : Input) (k : Machine.Core) : State :=
  { clusters := [(0, { ctx := some 0 })], ctxs := [(0, { state := .running, clmask := 1 })], cores := [(0, k)], inp := inp, cycle := 200000 }
def listed : Machine.Core := { runq := [(2, [⟨4, 0x40000, 0, false, none⟩])], slots := [(4, some ⟨.runnable, 1, none, none, false, 0, 0⟩)] }
def aWait (k : WaitKind) : Wait := ⟨k, scratch 8, 0, 1, 0⟩
def aSpill : Spill := ⟨9, true, 0, false, 3, 0, aWait .full, none, 0, 0, none, [], none⟩
theorem witness_Scheduling :
    (let s := idling {} listed
     s.mayTake 0 && s.works 0 && decide (s.idleStrand 0 = some 1) && decide (s.localWork 0 = some (.run 2 0)) && decide (s.agedWork 0 = none) && (readySpills (s.core 0)).isEmpty) = true ∧
    (let s : State := { idling {} {} with cores := [(5, listed)] }
     decide (s.scanner 0 = some 1) && decide ((s.core 0).scanSince = 0) &&
     decide ((scanOrder 1).findSome? (fun d => (stealableOf (s.core (victimOf 0 d))).map fun e => (d, e)) = some (5, 2, 0, ⟨4, 0x40000, 0, false, none⟩))) = true ∧
    (let s := idling {} { scanSince := 5 }
     decide (s.scanner 0 = some 1) && decide (64 ≤ s.cycle + 1 - (s.core 0).scanSince) && ([1, 2, 3, 4, 5, 6, 7].all fun d => (stealableOf (s.core (victimOf 0 d))).isNone)) = true ∧
    (let s := idling {} { spills := [(2, some aSpill)] }
     s.mayTake 0 && decide (s.localWork 0 = some (.spill 2)) && decide (s.idleStrand 0 = some 1)) = true ∧
    (let s : State := { idling { slot := 3 } {} with units := [(3, { st := .blocked, wait := some (aWait .full) })] }
     decide (s.timedOut 3 = some (aWait .full)) && decide (freeSpill (s.core 0) = some 0) && !s.spillsFirst 3 (aWait .full)) = true ∧
    (let s := idling {} { spills := [(0, some { aSpill with ready := false })] }
     decide ((s.core 0).blktmo ≤ s.cycle - aSpill.since) && s.works 0) = true ∧
    (let s : State := { idling {} {} with dies := [(0, { gangs := [⟨0, 0, [], 0, [(0, [2])], []⟩] })] }
     !(s.ctx 0).stopped && decide (s.idleStrand 0 = some 1) && decide (({ s with cores := [], units := [(1, { st := .run }), (2, { st := .run }), (3, { st := .run }),
       (4, { st := .run }), (5, { st := .run }), (6, { st := .run }), (7, { st := .run })] } : State).idleStrand 0 = none)) = true ∧
    ([((1 : Nat), [(2 : Word)])].map (·.1)).Nodup := by decide +kernel
theorem test_record_pickup : nextWith (exec .recordPickup (idling {} listed)) (fun t => decide ((t.unit 1).st = .run) && decide (Tab.read [] (t.core 0).runq 2 = [])) = true := by
  decide +kernel
theorem test_ageing : nextWith (exec .ageingPromotion (idling {} { listed with runq := [(2, [⟨4, 0x40000, 0, false, some 0⟩])] })) (fun t => (Tab.read [] (t.core 0).runq 2).all RunEntry.aged) = true := by decide +kernel

/-- A launch record: one level of one instance, entry 0x100, DONE in core 0's scratchpad. -/
def launchRecord : List Word := [0x10001, 0x100, scratch 0x3000, 0, 0, 0, 0, 0, 0x10000]
def launching (inp : Input) (k : Machine.Ctx) : State := { clusters := [(0, { ctx := some 0 })], ctxs := [(0, k)], inp := inp, cycle := 200000 }
def liveLaunch : Launch := ⟨launchRecord, true, [0], some 0, 0, [⟨3, false⟩], 0⟩
theorem witness_LaunchSteps :
    (let s := launching { word0 := scratch 0x1000 } { state := .idle, clmask := 1, ptlog := 10 }
     decide ((s.ctx 0).state ≠ .free) && decide ((scratch 0x1000).toNat % 64 = 0) && (s.mgmtWords 0 (scratch 0x1000) 32).isSome && decide ((s.ctx 0).submissions.length < 9) &&
     decide ((scratch 0x1008).toNat % 64 ≠ 0) && decide ((wordAt launchRecord 2).toNat % 8 = 0) && (s.mgmtPlace 0 (wordAt launchRecord 2) true).isSome &&
     okWith (s.prepare 0 launchRecord) (fun _ => true) && (s.mgmtPlace 0 0 true).isNone && errWith (s.prepare 0 [2, 0x100, scratch 0x3000]) 1 &&
     decide ((s.ctx 0).launch = none) && !(s.ctx 0).stopped && decide (s.plat.boot ≠ .failed)) = true ∧
    liveLaunch.words ≠ [] ∧
    (let s : State := { launching {} { state := .idle, clmask := 1, ptlog := 10 } with mgmt := [{ bare .launchStart with scube := 3, payload := launchRecord }] }
     (takePacket (fun q => decide (q.kind = .launchStart)) s.mgmt).isSome && decide ((s.ctx 0).state ≠ .out) && !(s.ctx 0).stopped && decide (3 ≠ s.cubeNum) && !s.launchHeld 0 launchRecord &&
       okWith (({ s with mgmt := [] }.setCtx 0 (s.configured 0)).prepare 0 launchRecord) (fun _ => true)) = true ∧
    (takePacket (fun q => decide (q.kind = .engagementAck) && decide (q.ctx = 0)) [bare .engagementAck]).isSome = true ∧
    (launching {} { state := .running, launch := some { liveLaunch with sent := [] } }).live 0 = false := by decide +kernel
theorem test_launch_refused :
    nextWith (exec .launchIngestion (launching {} { state := .idle, clmask := 1, submissions := [⟨[1, 1], 0, false⟩] })) (fun t => (t.ctx 0).launch.isNone && (t.ctx 0).submissions.isEmpty) = true := by
  decide +kernel

def hostEvent : EventMsg := { (default : EventMsg) with code := .undef, strand := 2, unit := 0, gen := 7 }
theorem witness_ContextSteps :
    maskClusters 1 = [0] ∧ ((launching {} { clmask := 1 }).cluster 1).ctx = none ∧ ((launching {} { clmask := 1 }).cluster 0).ctx ≠ none ∧
    (launching {} { state := .running }).quietCtx 0 = true ∧ (launching {} { dcores := 3 }).selected 0 = [0, 1] ∧
    (let w : Nat := 2 * 2 ^ 8 + EvCode.undef.num * 2 ^ 16 + 7 * 2 ^ 24
     decide (w / 2 ^ 8 % 8 = hostEvent.strand) && decide (w / 2 ^ 16 % 2 ^ 8 = hostEvent.code.num) && decide (w / 2 ^ 24 % 2 ^ 8 = hostEvent.gen.toNat) && decide (hostEvent.ctx = 0)) = true := by
  decide +kernel
theorem test_context_free : nextWith (exec .contextFree (launching {} { state := .idle, clmask := 1 })) (fun t => decide ((t.ctx 0).state = .free) && decide ((t.ctx 0).gen = 1)) = true := by
  decide +kernel
theorem test_hreply_stale :
    nextWith (exec .hreply (launching { word0 := 0x08000200 } { state := .running, hevt := [hostEvent] })) (fun t => decide ((t.ctx 0).hevt = [hostEvent])) = true := by decide +kernel

/-! ## Steps of the machine: messages and events -/

/-- Core 0's inbox of priority 1 holds this packet, its payload at the region's start. -/
def inboxed (p : Packet) : State := idling {} { inbox := [(1, [⟨p, inboxBase + 16384 + 32, 0, false⟩])] }
def parkedAt (p : Park) : Machine.Core := { slots := [(4, some ⟨p, 1, none, none, false, 0, 0⟩)] }
theorem witness_MessageSteps_arrival :
    (let p : Packet := { bare .user with hcls := 20, payload := [1, 2, 3, 4] }
     let s : State := { idling {} {} with inner := [p], ctxs := [(0, { state := .running, htab := [(20, 0x201)] })] }
     decide (s.serverCore p = some 0) && !s.overtakes 0 p && !s.unperformed p p.ord && !isGateway p.dunit && isGateway (512 + 8) && decide ((s.ctx p.ctx).state ≠ .out) && s.inPartition 0 0 && !s.noEntry p && !(s.cluster 0).gated && regionFree [] 0 0 (32 * (1 + p.plen)) &&
     regionFree [] 0 (16384 - 64) (32 * (1 + p.plen)) && !(s.inPartition 1 0) && decide ((s.ctx 0).handler 20 = some 0x200) && decide ((s.ctx 0).handler 21 = none)) = true ∧
    (let p : Packet := { bare .user with hcls := 20, pri := 1 }
     (inboxed p).strandZeroFree 0 && someWith ((inboxed p).nextMessage 0) fun m => decide (m.1 = 1) && decide (m.2.2.pkt = p)) = true := by decide +kernel
theorem witness_MessageSteps_builtin :
    (let p (h : Nat) (ws : List Word) (aux : BitVec 16) : Packet := { bare .builtin with hcls := h, scube := 5, payload := ws, aux := aux }
     let at_ (off : Nat) : Word := BitVec.ofNat 64 (2 ^ 59 + off)
     let k : Machine.Core := {}
     someWith ((inboxed (p 3 [0x100] 0)).builtin 0 3) (fun m => (m.2.core 0).slots.isEmpty && !m.1.pkt.aux.getLsbD 4) &&
     someWith ((inboxed (p 4 [at_ (counterOff k 0), 1] 0)).builtin 0 4) (fun m => decide ((wordAt m.1.pkt.payload 0).toNat % 2 ^ 20 = counterOff k 0)) &&
     someWith ((inboxed (p 0 [at_ 8] 3)).builtin 0 0) (fun m => okWith (m.2.remoteKey m.1.pkt false) (fun a => !m.2.uncorrectable a) && decide (m.1.pkt.origin = none)) &&
     someWith ((inboxed (p 0 [at_ (8 * 2 ^ 28)] 3)).builtin 0 0) (fun m => errWith (m.2.remoteKey m.1.pkt false) .perm) &&
     someWith ((inboxed (p 1 [at_ 8, 0, 7] 3)).builtin 0 1) (fun m => okWith (m.2.remoteKey m.1.pkt true) (fun _ => true) && decide (m.1.pkt.opcode ≠ 1)) &&
     someWith ((inboxed (p 2 [at_ 8, 0, 7] 3)).builtin 0 2) (fun m => okWith (m.2.remoteKey m.1.pkt true) (fun _ => true) && (atomicAnswer m.1.pkt.opcode 8 0 m.1.pkt.payload).1.isSome) &&
     someWith ((inboxed { p 5 [1, 2] 0 with reply := BitVec.ofNat 60 (2 ^ 59 + 64) }).builtin 0 5) (fun m => (m.2.localOf m.1.pkt.reply.toNat).isSome) &&
     someWith ((inboxed (p 6 [0, 0, 0, 0, 0, 0, 0, 0, 2] 0)).builtin 0 6) (fun m => decide ((wordAt m.1.pkt.payload 8).toNat % 64 = 2))) = true ∧
    (let s := queued (strand []) [7]
     (s.ctx 0).claims 2 && (s.parked 0 fun _ => true).isEmpty && someWith (Tab.read none (s.ctx 0).queues 2) (fun h => decide (h.items.length < h.capacity)) &&
     someWith (Tab.read none ((queued (strand []) [7, 8]).ctx 0).queues 2) (fun h => decide (h.capacity ≤ h.items.length))) = true := by decide +kernel
theorem witness_MessageSteps_others :
    (let p : Packet := { bare .ack with dunit := 0, wid := 9 }
     let s : State := { idling {} {} with inner := [p], units := [(2, { wid := 9, msgs := 1 })] }
     decide (partyOf p.dunit p.wid ≠ none) && decide (workUnit s.unit 2 9 = some 2) && !s.isOut 0 && !s.overtakes 0 p) = true ∧
    (let s : State := { skeined (strand []) [aRecord] with cores := [(0, parkedAt (.bobbin 5 0))] }
     decide (firstParked (s.parked 0 fun p => decide (p = .bobbin 5 0)) = some (0, 4)) && (aSkein [aRecord]).ready 0 && decide (((aSkein [aRecord]).stage 0).bobbin.head? = some aRecord)) = true ∧
    (let q : Packet := bare .builtin
     let s := idling {} { spawns := [q] }
     decide ((s.core 0).spawns.find? (fun q => !q.awaited && decide (1024 ≤ s.cycle - q.req) && decide (s.sendState q.dcube q.sunit 0 = .ready)) = some q)) = true := by decide +kernel
theorem test_remote_store :
    nextWith (exec .remoteStore (inboxed { bare .builtin with hcls := 1, scube := 5, payload := [BitVec.ofNat 64 (2 ^ 59 + 8), 0, 0x1234], aux := 1 }))
      (fun t => decide (t.byte (scratchKey 0 8) = 0x34) && decide (t.byte (scratchKey 0 9) = 0x12) && decide (t.byte (scratchKey 0 10) = 0)) = true := by decide +kernel
theorem test_queue_overflow :
    nextWith (exec .queueWindowWrite { queued (strand []) [7, 8] with inp := { index := 2 } }) (fun t =>
      decide ((Tab.read none (t.ctx 0).queues 2).map (fun h => (h.items.length, h.overflow)) = some (2, 1))) = true := by decide +kernel

def anEvent (c : EvCode) : EventMsg := { (default : EventMsg) with code := c, strand := 1, party := 1 }
/-- Strand 1 of core 0 is stopped on UNDEF. -/
def stoppedOn (posted : Bool) : State :=
  { idling { slot := 1 } {} with units := [(1, { st := .stopped, event := some (anEvent .undef), posted := posted, irLen := 4, pc := 8 })] }
theorem witness_EventSteps :
    (let s := stoppedOn false
     decide ((s.unit 1).event = some (anEvent .undef)) && !(s.unit 1).posted && decide ((s.cluster 0).svc.length < 256) && decide ((s.ctx 0).policy .undef < 3) && decide ((s.ctx 0).hevt.length < 64) && decide ((anEvent .undef).gen = (s.ctx 0).gen)) = true ∧
    (takeEvent (fun e => e.note || decide (e.code ≠ .xmiss)) [anEvent .undef]).isSome = true ∧ (takeEvent (fun e => !e.note && decide (e.code = .xmiss)) [anEvent .xmiss]).isSome = true ∧
    (({ evpol := 0xC } : Machine.Ctx).policy .undef = 3) ∧
    (let p : Packet := { bare .builtin with hcls := 8, payload := [replyWord (anEvent .undef) 1 false] }
     let s : State := { stoppedOn true with inner := [p] }
     decide (replyKey p.dunit (wordAt p.payload 0) = some 1) && s.inPartition 0 0 && decide ((wordAt p.payload 0).toNat % 4 = 1) && decide ((wordAt p.payload 0).toNat / 4 % 2 = 0)) = true ∧
    (let o : Op := ⟨.cpy, .copies, 1, 0, 0, 0, 0, 0, 1, [], [], [], 0, none, false, false, [], some 0, [], false⟩
     decide (o.stuck = some 0) && decide (4096 ≤ (idling {} {}).cycle - 0)) = true := by decide +kernel
theorem witness_EventSteps_hoverrun :
    (let s : State := { idling {} {} with cycle := 400000, units := [(0, { st := .run, inMsg := some ⟨bare .user, 0, 0, false⟩ })] }
     s.overBudget (unitKey 0 0) && decide ((s.unit 0).vec = none) && decide ((s.unit 0).remote = none) && !(s.unit 0).halted) = true ∧
    (({ idling { slot := 1 } {} with units := [(1, { st := .run, hold := some ⟨.plyPool 0x100000 2, 0, 0⟩ })] } : State).unit 1).hold = some ⟨.plyPool 0x100000 2, 0, 0⟩ := by decide +kernel
/-- R91: ACT 1 goes on past the instruction. -/
theorem test_event_skip :
    nextWith (exec .eventReply { stoppedOn true with inner := [{ bare .builtin with hcls := 8, payload := [replyWord (anEvent .undef) 1 false] }] })
      (fun t => decide ((t.unit 1).st = .run) && decide ((t.unit 1).pc = 12)) = true := by decide +kernel
/-- A page table at physical address 0 with one entry, for 0x100000, where the walk first looks: in bucket 690, of the shard of cluster 18. -/
def walked : State :=
  { idling { part := 18 } {} with
    amap := [(0, some ⟨true, false, false, 30, 1, 0, 0, 0x8000000000, 0, 0x40000, 0, 0, 0, 0, [], [], true, 0⟩)]
    ctxs := [(0, { state := .running, clmask := 1, ptlog := 10 })]
    clusters := [(0, { ctx := some 0 }), (18, { svc := [{ anEvent .xmiss with addr := 0x100000 }] })]
    mem := [⟨44160, 1⟩, ⟨44163, 0x10⟩] }
theorem witness_EventSteps_walk : (walked.setCluster 18 { walked.cluster 18 with svc := [] }).walk 0 0x100000 = some (pteOf 0x10000001 0) ∧
    (walked.ctx 0).shard 0x100000 = 18 := by decide +kernel
theorem test_tlb_miss_walk :
    nextWith (exec .tlbMissWalk walked) (fun t => decide (Tab.read none (t.core 0).tlb 0 = some (pteOf 0x10000001 0)) && (t.cluster 18).svc.isEmpty) = true := by decide +kernel

/-! ## Steps of the machine: units and engines -/

def anOp (kind : OpKind) (ctr : Ctr) : Op := ⟨kind, ctr, 1, 9, 0, 0, 0, 0, 1, [], [], [], 0, none, false, false, [], none, [], false⟩
/-- Strand 1 runs work 9, which has one operation in flight. -/
def flying (o : Op) : State := { cube { strand [] with wid := 9, stores := 1, copies := 1, tiles := 1 } with ops := [o], cycle := 200000 }
theorem witness_UnitSteps :
    (let s : State := { idling { slot := 1 } {} with units := [(1, { st := .run, loads := 1, pend := [⟨.x 5, 7⟩] })] }
     decide (s.answerFor 1 = none) && decide ((s.unit 1).pend = [⟨.x 5, 7⟩]) && decide (LoadDest.x 5 ≠ .x 0) && decide (s.cycle = 200000)) = true ∧
    workUnit (flying (anOp .store .stores)).unit 1 9 = some 1 ∧ (flying (anOp .store .stores)).isOut 0 = false ∧
    (let s : State := { idling { slot := 1 } {} with units := [(1, { st := .blocked, wait := some { aWait .rlk with addr := scratch (2 ^ 36) } })] }
     okWith (s.resolve 0 0 (scratch (2 ^ 36)) .write 0) (fun l => decide (l.cube ≠ s.cubeNum)) && decide (256 ≤ s.cycle - (s.unit 1).lockTried)) = true ∧
    (let s : State := { idling {} {} with clusters := [(0, { ctx := some 0, holder := some 0, waiting := [7] })] }
     decide (16384 ≤ s.cycle - (s.cluster 0).leaseSince) && !s.tileWaiting 0 && decide (s.ctxOf (unitKey 0 8) ≠ 16) && !(s.unit (unitKey 0 8)).busy && decide (({ s with units := [(8, { busy := true, st := .run, haltReq := true })] } : State).unit 8 = { busy := true, st := .run, haltReq := true })) = true ∧
    (scratch 0x2000).toNat % 4096 = 0 ∧ (scratch 0x2000).toNat / 2 ^ 28 % 256 = 0 := by decide +kernel
theorem test_load_return :
    nextWith (exec .loadReturn { idling { slot := 1 } {} with units := [(1, { st := .run, x := [(5, 7)], loads := 1, pend := [⟨.x 5, 7⟩] })] })
      (fun t => decide ((t.unit 1).loads = 0) && decide ((t.unit 1).pend = []) && decide ((t.unit 1).readX 5 = 7)) = true := by decide +kernel
theorem test_idle_expires :
    nextWith (exec .idleWaitExpiry { idling { slot := 1 } {} with units := [(1, { st := .run, hold := some ⟨.idle, 0, 200000⟩ })] }) (fun t => decide ((t.unit 1).hold = none)) = true := by
  decide +kernel
theorem test_lease_expires :
    nextWith (exec .leaseExpiry { idling {} {} with clusters := [(0, { ctx := some 0, holder := some 0, waiting := [7] })] }) (fun t => decide ((t.cluster 0).holder = some 7)) = true := by
  decide +kernel

/-- Tag 3 is retiring with one cell, of line 2: byte 1 is 0xAB. -/
def returning : State :=
  { flying (anOp (.plyret 3 true) .stores) with
    ctxs := [(0, { state := .running, clmask := 1, ntags := 9, tags := [(3, some ⟨true, 0⟩)] })], cells := [(cellKey 0 3 128, some ⟨0xAB00, 2, 0⟩)] }
theorem witness_TransferSteps :
    (let o := { anOp .cpy .copies with reads := [[⟨.mem (scratchKey 0 64) 0 0, 0, 8, .none, false, 0⟩]], writes := [[⟨.mem (scratchKey 0 128) 0 0, 0, 8, .none, false, 0⟩]] }
     let s := flying o
     !s.unackedOf o.ord && !s.isOut o.ctx && decide (workUnit s.unit o.party o.wid = some 1) && !s.uncorrectable (scratchKey 0 64)) = true ∧
    returning.cellsOf 0 3 = [cellKey 0 3 128] ∧ Tab.read none returning.cells (cellKey 0 3 128) = some ⟨0xAB00, 2, 0⟩ ∧
    ({ returning with cells := [] } : State).cellsOf 0 3 = [] ∧ 2 ^ 47 ≤ ({ flying { anOp .cpy .copies with pts := 2 ^ 47 } with inp := {} } : State).topStamp := by decide +kernel
theorem test_plyret_line : nextWith (exec .plyretCLineWrite returning) (fun t => decide (t.byte 129 = 0xAB) && decide (t.byte 128 = 0) && t.cells.isEmpty) = true := by decide +kernel
theorem test_plyret_complete :
    nextWith (exec .plyretComplete { returning with cells := [] }) (fun t => decide (Tab.read none (t.ctx 0).tags 3 = none) && decide ((t.unit 1).stores = 0)) = true := by decide +kernel
theorem test_tld_complete :
    nextWith (exec .tldComplete (flying { anOp (.tld 1) .tiles with buf := [(0, some 0x5A)] })) (fun t => decide ((t.cluster 0).stateOf 1 = .ready) && t.ops.isEmpty) = true := by
  decide +kernel
theorem witness_ArraySteps : (flying (anOp (.array (.azero 0)) .tiles)).arrayBehind 0 0 (.azero 0) = false ∧ (anOp (.array (.azero 0)) .tiles).kind = .array (.azero 0) := by
  decide +kernel
theorem test_azero_clears :
    nextWith (exec .arrayCommandComplete { flying (anOp (.array (.azero 0)) .tiles) with clusters := [(0, { ctx := some 0, acc := [(accKey 0 255 255, 5), (accKey 1 0 0, 6)] })] })
      (fun t => decide ((t.cluster 0).acc = [(accKey 1 0 0, 6)]) && decide ((t.unit 1).tiles = 0)) = true := by decide +kernel

/-- An all-reduce of 8 bytes of FP32 over cubes 0 and 3; and a broadcast from cube 3. -/
def aColl (op : Nat) : Coll := { op := op, fmt := 3, members := [0, 3], root := 3, tmo := 1, cid := 6, size := 8, elements := 2, sent := [], parts := [] }
def collecting (c : Coll) (ps : List Packet) : State := { flying (anOp (.coll c) .copies) with inner := ps }
def aChunk (k : PktKind) : Packet := { bare k with scube := 3, aux := 6, payload := [0x3F8000003F800000, 0, 0, 0] }
theorem witness_CollectiveSteps :
    (let c := aColl 2
     let s := collecting c [aChunk .reduce]
     decide (s.collLive 0 = some (anOp (.coll c) .copies, c)) && c.inWindow 0 0 && (takeChunk (anOp (.coll c) .copies) c .reduce 0 s.inner).isSome &&
     ((c.children (c.place 0)).map c.at).contains 3 && decide (0 < c.chunks) && decide ((aChunk .reduce).plen = (c.chunkLen 0 + 31) / 32) && decide (c.part 0 0 = none) && decide (c.parent (c.place 0) = none)) = true ∧
    (let c := (aColl 2).setPart 0 0 [0, 0, 0x80, 0x3F, 0, 0, 0x80, 0x3F]
     (c.fromChildren 0 0).isSome && decide (c.part formedPart 0 = none)) = true ∧
    (let c := aColl 0
     let s := collecting c [aChunk .multicast]
     (takeChunk (anOp (.coll c) .copies) c .multicast 0 s.inner).isSome && (c.parent (c.place 0)).isSome && decide (3 = c.at 0) && decide (c.children (c.place 0) = []) && decide (c.part resultPart 0 = none)) = true ∧
    (let c := { (aColl 2).setPart formedPart 0 [1] with members := [3, 0], sent := [(0, some 0)] }
     let s := collecting c []
     decide (s.collLive 0 = some (anOp (.coll c) .copies, c)) && decide (c.parent (c.place 0) = some 0) && decide (0 + 100000 ≤ s.gtime) && !c.chunkDone 0 0 &&
     decide (s.sendState (c.at 0) (anOp (.coll c) .copies).engineUnit 3 ≠ .unreach)) = true ∧
    (let s := collecting (aColl 2) []
     decide (1 * 1800 ≤ s.cycle - (anOp (.coll (aColl 2)) .copies).since) && decide (workUnit s.unit 1 9 = some 1)) = true ∧
    (let c := ((aColl 2).setPart resultPart 0 [1]).setPart donePart 0 []
     decide (c.chunks ≤ c.base 0) && (collecting c []).collStarted 0 (anOp (.coll c) .copies)) = true := by decide +kernel
theorem test_colltmo :
    nextWith (exec .colltmo { flying { anOp (.coll (aColl 2)) .copies with done := some (scratchKey 0 64) } with inner := [] })
      (fun t => t.ops.isEmpty && decide (t.bytes (scratchKey 0 64) 8 = leBytes 8 0x601)) = true := by decide +kernel

/-! ## Steps of the machine: bank and reduction engines, the stage router -/

def aCmd : EngCmd := ⟨scratch 0x1000, 0, 1, 0, 0, 9, 0⟩
/-- A bank command's block at 0x1000 of core 0's scratchpad: a program of two operators on bank 0, DONE at 0x5000, the status block at 0x5040. -/
def banked (k : BankCtl) : State :=
  { cube { strand [] with wid := 9, copies := 1 } with
    banks := [(0, k)], cycle := 400000
    mem := [⟨scratchKey 0 0x1000, 1⟩, ⟨scratchKey 0 0x1001, 2⟩, ⟨scratchKey 0 0x1002, 1⟩, ⟨scratchKey 0 0x1011, 0x50⟩, ⟨scratchKey 0 0x1017, 0xF0⟩,
      ⟨scratchKey 0 0x1018, 0x40⟩, ⟨scratchKey 0 0x1019, 0x50⟩, ⟨scratchKey 0 0x101F, 0xF0⟩,
      ⟨scratchKey 0 0x1060, 0x18⟩, ⟨scratchKey 0 0x1061, 0x2D⟩] }
def aRun (st : BankState) (active : BitVec 16) : BankRun :=
  ⟨aCmd, [0x10101], [], [], st, 0, 0, active, [], [], 0, 0, 0, false, false, false, 1, 0, false, none, some [scratchKey 0 0x5040, scratchKey 0 0x5080], none, [], 0⟩
theorem witness_NearBankSteps :
    (let s := banked { inbox := [aCmd] }
     someWith (takeCommand (fun c => decide (s.formatOf c ≠ 2)) (s.bank 0).inbox) (fun q => someWith ((s.setBank 0 {}).readCommand q.1 52 q.1.addr) fun b =>
       blockOk b && (s.reportPlace q.1 (bkDone b) 8).isSome && (s.reportLines q.1 (bkStat b) 2).isSome && decide (bkRes b = 0) &&
       okWith (s.bankPages 0 q.1 b ((b.drop 24).take 8) (List.range 8)) fun _ => true)) = true ∧
    blockOk [] = false ∧ (aRun .running 0).waiting = [0] ∧ (aRun .running 1).active ≠ 0 ∧ (aRun .running 1).midElement = false ∧ (aRun .stalled 0).midElement = false ∧ ({ aRun .running 0 with next := [(0, 1)] } : BankRun).waiting = [] ∧
    (aRun .stalled 0).lstmo * 1000 ≤ (banked {}).gtime - 0 := by decide +kernel
/-- A stalled command of the block above. -/
def refreshed : BankRun := { aRun .stalled 0 with block := [0x10201, 0, scratch 0x5000, scratch 0x5040] }
theorem witness_NearBankSteps_refresh :
    (let s : State := { banked { inbox := [aCmd], run := some refreshed } with
       mem := [⟨scratchKey 0 0x1000, 2⟩, ⟨scratchKey 0 0x1008, 0x40⟩, ⟨scratchKey 0 0x1009, 0x50⟩, ⟨scratchKey 0 0x100F, 0xF0⟩] }
     someWith (takeCommand (fun c => decide (s.formatOf c = 2)) (s.bank 0).inbox) (fun q => someWith ((s.setBank 0 { run := some refreshed }).readCommand q.1 2 q.1.addr) fun b =>
       decide (wordAt b 0 = 2) && decide (wordAt b 2 = 0) && (List.range 5).all (fun i => decide (wordAt b (3 + i) = 0)) && decide (refreshed.cmd.ctx = q.1.ctx) && decide (wordAt b 1 = bkStat refreshed.block) &&
       okWith (s.bankPages 0 q.1 refreshed.block (b.drop 8) (List.range 8)) fun _ => true)) = true := by decide +kernel
theorem test_disturbance_alert :
    nextWith (exec .disturbanceAlert (banked { run := some (aRun .running 0) })) (fun t => someWith (t.bank 0).run fun r => decide (r.state = .paused) && decide (r.alerts = 1)) = true := by
  decide +kernel

/-- A reduction's block at 0x1000: two sources of one line each, at 0x100000 and 0x100040, into 0x100080; its page stands in core 0's TLB. -/
def reducing (d : Die) : State :=
  { cube { strand [] with wid := 9, copies := 1 } with
    cores := [(0, { tlb := [(0, some ⟨true, 0, false, false, false, false, false, true, false, false, 0, 0, 0x10, 0⟩)] })]
    amap := [(0, some ⟨true, false, false, 30, 1, 0, 0, 0x8000000000, 0, 0x40000, 0, 0, 0, 0, [], [], true, 0⟩)]
    dies := [(0, d)]
    mem := [⟨scratchKey 0 0x1000, 3⟩, ⟨scratchKey 0 0x1001, 2⟩, ⟨scratchKey 0 0x1008, 64⟩, ⟨scratchKey 0 0x1010, 0x80⟩, ⟨scratchKey 0 0x1012, 0x10⟩, ⟨scratchKey 0 0x1019, 0x50⟩,
      ⟨scratchKey 0 0x101F, 0xF0⟩, ⟨scratchKey 0 0x1042, 0x10⟩, ⟨scratchKey 0 0x1048, 0x40⟩, ⟨scratchKey 0 0x104A, 0x10⟩] }
def redBlock : List Word := [0x10203, 128, 0x100080, scratch 0x5000, 0, 0, 0, 0, 0x100000, 0x100040]
theorem witness_NearBankSteps_reduction :
    (let s := reducing { redInbox := [aCmd] }
     someWith ((s.setDie 0 {}).readCommand aCmd 3 aCmd.addr) (fun b => redBlockOk b && (s.reportPlace aCmd (wordAt b 3) 8).isSome && okWith (s.redAll 0 aCmd b (redRanges b)) fun _ => true)) = true ∧
    redBlockOk [] = false ∧
    (let r : RedRun := ⟨aCmd, redBlock, [], [0, 1], 0, none, [], []⟩
     let s := reducing { redRun := some r }
     okWith (s.redPlaces 0 r 0 (redRanges r.block)) (fun q => decide (q.1 = [0, 64, 128])) && decide (r.todo.eraseIdx 0 ≠ [])) = true := by decide +kernel
/-- R286: 1.0 + 2.0 in the destination's first BF16 element. -/
theorem test_reduction_line :
    nextWith (exec .reductionLine { reducing { redRun := some ⟨aCmd, redBlock, [], [0, 1], 0, none, [], []⟩ } with mem := [⟨0, 0x80⟩, ⟨1, 0x3F⟩, ⟨65, 0x40⟩] })
      (fun t => decide (t.bytes 128 4 = [0x40, 0x40, 0, 0]) && someWith (t.die 0).redRun fun r => decide (r.todo = [1])) = true := by decide +kernel
theorem witness_RouterSteps :
    (let rel : Release := ⟨aRecord, true, 0, 9, 1, some 0⟩
     let k : Skein := { aSkein [] with releases := [rel] }
     let s : State := { skeined (strand []) [] with ctxs := [(0, { state := .running, clmask := 1, skeins := [(5, some k)] })] }
     !s.isOut 0 && !s.releaseWaits rel && decide (s.settleRouters.dueRelease 5 k = some 0) && decide (s.settleRouters.skein 0 5 = some k) && decide (((k.stage aRecord.stage.toNat).hold) = none)) = true ∧
    (let k : Skein := { aSkein [] with stages := [{ aStage [] with hold := some aRecord }] }
     decide ((k.stage 0).hold = some aRecord) && (k.place (k.candidates 0 aRecord.done)).isSome) = true ∧
    (aSkein []).byOccupancy = [] ∧ (idling {} {}).dueRelease 5 (aSkein []) = none ∧ (aSkein [aRecord]).byOccupancy = [0] ∧ (aSkein []).reassigned + 4096 ≤ (idling {} {}).cycle := by decide +kernel

/-! ## Steps of the machine: links, fabric, platform, power -/

def linked (l : Link) (inp : Input) : State := { links := [(2, l)], inp := { inp with part := 2 }, cycle := 4000000 }
/-- A flit of a packet of no payload, or with the wrong CRC. -/
def aFlit (good : Bool) : Flit := let f : Flit := { lsn := 0, epoch := false, head := true, crc := 0, data := 0x20000 }
  if good then { f with crc := f.crcOf } else { f with crc := f.crcOf + 1 }
theorem witness_LinkWork :
    (aFlit true).crc = (aFlit true).crcOf ∧ (aFlit false).crc ≠ (aFlit false).crcOf ∧ headFlits (([] ++ [(aFlit true).data]).headD 0) ≤ 1 ∧
    (([] : List (BitVec 256)) ++ [BitVec.ofNat 256 (2 ^ 47)]).length < headFlits (BitVec.ofNat 256 (2 ^ 47)) ∧ ((({} : Link).assemble 2 false [0x20000]).bind id).isSome = true ∧
    fromLsn 0 [aFlit true] = some [aFlit true] ∧ (0 : Nat) + 2000 ≤ (linked {} {}).gtime ∧ 0 + 1000000 ≤ (linked {} {}).gtime ∧ (linked {} {}).gtime < 2000000 + 1000000 ∧
    ({ keys := [(0, some 5)] } : Link).key false false ≠ none ∧ ({ keys := [(2, some 5)] } : Link).key true false ≠ none ∧ ({ keys := [(2, some 5), (3, some 6)] } : Link).key true true ≠ none ∧ ({} : Link).rxRotating = false ∧
    (linked {} {}).portsTaken 2 1 = false ∧ ({ winOpen := some 7 } : Platform).winOpen = some 7 ∧ ({} : Platform).winOpen = none ∧
    (let p : Packet := { bare .drain with scube := 4 }
     (takePacket (fun p => decide (p.kind = .drain) && decide (p.req = 3)) [{ p with req := 3 }]).isSome) = true := by decide +kernel
theorem test_flit_rejected :
    nextWith (exec .flitReceive (linked { state := .up } { flit := aFlit false })) (fun t => (t.link 2).nakked && decide ((t.link 2).rxLsn = 0) && t.net.isEmpty) = true := by decide +kernel
theorem test_flit_accepted :
    nextWith (exec .flitReceive (linked { state := .up } { flit := aFlit true })) (fun t => decide ((t.link 2).rxLsn = 1) && decide (t.net.length = 1)) = true := by decide +kernel
theorem test_retrain_third :
    nextWith (exec .retrainTimeout (linked { state := .retrain, failed := 2, retrainSince := 2000000 } { flag := true })) (fun t => decide ((t.link 2).state = .down)) = true := by
  decide +kernel

/-- Cube 3 is reached by link 2, which is UP. -/
def routed (ps : List Packet) : State := { routes := [(1027, 0xC2)], links := [(2, { state := .up })], net := ps, cycle := 4000000, ctxs := [(0, { gen := 2 })] }
def aKey : SrcKey := ⟨1, [⟨bare .builtin, 0, 0, 0⟩], none⟩
/-- Its receiver is being told where to go on. -/
def aResync : SrcKey := { aKey with resync := some ⟨bare .management, 2122222, 2180000, 2⟩ }
theorem witness_FabricSteps :
    (let p : Packet := { bare .user with dcube := 3, ocls := 3 }
     let s := routed [p]
     decide (p.dcube ≠ s.cubeNum) && !s.isRemoved 3 && !s.tooOld p && routeValid (s.route 3) && !isAdaptive p.ocls && decide (routeFixed (s.route 3) = 2) && (s.link 2).open p &&
     decide ((s.link 2).state ≠ .down) && !routeValid (s.route 4)) = true ∧
    (let s := routed []
     !s.tooOld { bare .management with ocls := 3 } && !sequenced 3 && !s.stale { bare .reduce with ocls := 3, gen := 2 } && s.stale { bare .reduce with ocls := 3, gen := 1 } &&
     s.listed { bare .reduce with dunit := 513 } && !s.listed { bare .reduce with dunit := 525 } && decide (12500 ≤ s.elapsed 0) && decide (100000 ≤ s.elapsed 0) && decide (1000000 ≤ s.gtime - 0) && !s.isRemoved 7 && decide (s.removed.length < 4096) &&
     !s.rangeBusy ⟨true, false, false, 30, 1, 0, 0, 0x8000000000, 0, 0x40000, 0, 0, 0, 0, [], [], true, 0⟩ 0) = true ∧ aKey.resync = none ∧ aResync.resync = some ⟨bare .management, 2122222, 2180000, 2⟩ ∧ ((routed []).elapsed 2122222 = 100000) ∧
    (routed []).elapsed 2122223 < 100000 ∧ 12500 ≤ (routed []).elapsed 2180000 ∧ aKey.unacked[0]? = some ⟨bare .builtin, 0, 0, 0⟩ := by decide +kernel
theorem test_router_forwards : nextWith (exec .routerForward (routed [{ bare .user with dcube := 3, ocls := 3 }])) (fun t => t.net.isEmpty && decide ((t.link 2).buffer.map (·.vc) = [true])) = true := by
  decide +kernel
theorem test_stale_reduce : nextWith (exec .packetArrival (routed [{ bare .reduce with ocls := 3, gen := 1 }])) (fun t => t.inner.isEmpty && t.net.isEmpty) = true := by decide +kernel

theorem witness_PlatformSteps :
    (let s := launching {} { state := .running, clmask := 1, bar2 := [(1, scratch 0x1000)], trctl := 3 }
     (s.mgmtPlace 0 (Tab.read 0 (s.ctx 0).bar2 1 + 8) true).isSome && (s.mgmtPlace 0 (Tab.read 0 (s.ctx 0).bar2 0 + 8) false).isNone && (s.localOf (2 ^ 59)).isSome && decide ((2 ^ 59) % 65536 = 0) &&
     (s.ctx (s.ctxOf 1)).trctl.getLsbD 0 && (s.ctx (s.ctxOf 1)).trctl.getLsbD 1 && decide ((s.cluster 0).trace.length < 2048) && decide (bootCheck 0 [] ≠ 0) && decide (hostPieces 9 8 2 = [(8, 2)])) = true ∧
    ({ poolSize := 1, sampleDue := [(1, 0x100, 0)] } : Machine.Core).sampleDue = [(1, 0x100, 0)] ∧ ((cube (strand [])).unit 1).remote = none := by decide +kernel
/-- The page of the walk above lies on cube 3 where its frame is in the second stripe of two. -/
theorem witness_PlatformSteps_far :
    someWith ({ walked with
      amap := [(0, some ⟨true, false, false, 30, 2, 0, 0, 0x8000000000, 0, 0x40000, 0, 0, 0, 0, [], [], true, 0⟩)]
      mem := [⟨44160, 1⟩, ⟨44163, 0x10⟩, ⟨44169, 0x40⟩, ⟨0x40004, 3⟩] }.mgmtPlace 0 0x100008 true) (fun r => decide (r = .far 3 0x40000008 0 false)) = true := by decide +kernel
theorem test_bar2_write :
    nextWith (exec .bar2Access (launching { index := 2 ^ 28 + 8, amount := 2, flag := true, wide := 0x1234 } { state := .running, clmask := 1, bar2 := [(1, scratch 0x1000)] }))
      (fun t => decide (t.bytes (scratchKey 0 0x1008) 4 = [0x34, 0x12, 0, 0])) = true := by decide +kernel
theorem test_boot_no_image :
    nextWith (exec .bootGo { plat := { boot := .verifying } }) (fun t => decide (t.plat.boot = .failed) && decide (t.plat.bfail = 4)) = true := by decide +kernel
theorem witness_PowerSteps :
    min 2800 ({} : Platform).plim.toNat - ({} : Platform).guard.toNat = 2760 ∧ (2760 : Nat) < 2761 ∧ (2699 : Nat) + 60 < 2760 ∧ (2700 : Nat) ≤ 2760 ∧ (2760 : Nat) ≤ 2700 + 60 ∧
    (∃ x, x < 4 ∧ 4 < (State.reset.die x).mir) ∧ (∀ x, x < 4 → (({ dies := [(0, { mir := 4 }), (1, { mir := 4 }), (2, { mir := 4 }), (3, { mir := 4 })] } : State).die x).mir ≤ 4) ∧
    (∀ b, b < 256 → 16 ≤ (State.reset.bank b).pab) ∧ ({} : Platform).tcrit.toNat < 106 ∧ ({} : Platform).twarn.toNat < 96 ∧
    (launching {} { state := .running, clmask := 1 }).onDie 0 0 = true ∧ (launching {} { state := .running, clmask := 1 }).clusterIdle 0 = true ∧ 180000 ≤ (launching {} {}).cycle - 0 ∧
    ({ launching {} {} with inner := [bare .user] } : State).arrivalFor 0 = true := by
  refine ⟨rfl, by decide, by decide, by decide, by decide, ⟨0, by decide⟩, by decide +kernel, by decide +kernel, by decide, by decide, ?_, ?_, ?_, ?_⟩ <;> decide +kernel
theorem test_power_falls :
    nextWith (exec .powerWindow { inp := { amount := 2761 } }) (fun t => decide ((t.die 0).mir = 15) && decide ((t.die 3).mir = 15) && decide (t.plat.lowWindows = 0)) = true := by decide +kernel
theorem test_thermal_stop :
    nextWith (exec .thermalStop (launching { amount := 106 } { state := .running, clmask := 1 })) (fun t => (t.die 0).tstop && (t.ctx 0).stopped) = true := by decide +kernel
theorem witness_StepKeepsMemoryCanonical : Memory.wf placed.mem = true ∧ nextWith (step placed) (fun t => Memory.wf t.mem) = true := by decide +kernel
/-! ## Hypotheses on what a step has left under way -/

theorem witness_VectorAccesses_anew : Anew (cube vstrand) := by unfold Anew; decide +kernel
theorem witness_HandlersAndQueues_owes : owesNothing (strand []) ∧ (cube (strand [(5, 0x302)])).sendState 3 (unitNumber 1) 0 = .ready ∧
    (0x302 : Nat) / 2 ^ 6 % 4 = 0 ∧ (0x302 : Nat) / 2 ^ 8 % 2 ^ 20 = 3 := by
  exact ⟨fun _ h => absurd h (by simp [strand]), by decide +kernel, by decide, by decide⟩
theorem witness_Suspensions_regions : regionsFit ({} : Machine.Core) := by unfold regionsFit; decide +kernel
theorem witness_Plies_queue : (tagged (strand []) 1).plynewQueue 0 (tagged (strand []) 1).fresh = [] := by decide +kernel
theorem witness_Tiles_taken : mapped.me.taken = [] ∧ mapped.me.recfree = false := by decide +kernel
theorem witness_LeasesAndGate_late :
    ({ holder := some 3, granted := some (7, some 1) } : Cluster).tooLate 2 7 = true ∧ ({ holder := some 3, granted := some (7, some 1) } : Cluster).tooLate 4 7 = false := by
  decide +kernel
theorem witness_Skeins_flush : (aSkein [aRecord]).flush = aSkein [aRecord] ∧ (aSkein []).sid = 5 ∧ (aSkein []).stages.length ≤ 16 := by decide +kernel
/-- The service core shoots down a page of context 0 at 0x200000 that a bank command holds; `due`: the command has still to stall. -/
def shot (due : Bool) : State :=
  { service (strand [(5, 0x200000), (6, 1)]) with banks := [(0, { run := some { aRun .running 1 with pages := [(0, some 0)], virt := [(0, 0x200000)], stallDue := due } })] }
theorem witness_Privileged_shootdown :
    (shot false).inFlight 0 0x200000 21 false = false ∧ (shot true).stallPending 0 0x200000 21 false = true ∧ (shot false).stallPending 0 0x200000 21 false = false ∧
    ((shot true).setMe { (shot true).me with hold := some ⟨.shootdown, 0, 0⟩ }).me.hold.map (·.kind) = some .shootdown := by decide +kernel

/-! ## Premises of single clauses -/

theorem witness_FloatRounding : isFinitePattern fp32 0x3F800000 ∧ isFinitePattern fp16 1 ∧ isSignallingPattern bf16 0x7F81 ∧ isFinitePattern fp16 0x8000 ∧
    numberOf fp16 0x8000 = 0 ∧ 2 ^ fp32.width ≤ (0x100000000 : Word).toNat := by
  refine ⟨by unfold isFinitePattern; decide, by unfold isFinitePattern; decide, by unfold isSignallingPattern isNanPattern; decide, by unfold isFinitePattern; decide,
    by simp [numberOf, fp16, Fmt.emin, Fmt.bias], by decide⟩
theorem witness_VectorConversions_lane : ((List.range 16).filter fun i => decide (i < vstrand.vl.toNat) && (vstrand.readM 1).getLsbD i)[1]? = some 2 := by decide +kernel
/-- Strand 2 waits for the word of `scratch 8` and has been passed over 16 times. -/
def passedOver (kind : WaitKind) (full : Tab Bool) : State :=
  { cube (strand [(6, scratch 8)]) with units := [(1, strand [(6, scratch 8)]), (2, { strand [] with st := .blocked, wait := some ⟨kind, scratch 8, 0, 1, 16⟩ })], full := full }
theorem witness_FullWords_reserved :
    (passedOver .full [(scratchKey 0 8 / 8, true)]).isReserved .full (scratch 8) = true ∧ (passedOver .full [(scratchKey 0 8 / 8, true)]).isFull (scratchKey 0 8) = true ∧
    (passedOver .empty []).isReserved .empty (scratch 8) = true ∧ (cube (strand [])).isReserved .full (scratch 8) = false ∧ (cube (strand [])).isReserved .empty (scratch 8) = false ∧
    (cube (strand [])).isReserved .empty (scratch 0) = false := by decide +kernel
/-- A lock word with WR set; its waiting write is the unit's own, which waits for it or was halted. -/
def lockedWord (u : Strand) : State := { cube u with mem := [⟨scratchKey 0 15, 0x80⟩] }
theorem witness_Locks_again :
    (let s := lockedWord { strand [(6, scratch 8)] with wait := some ⟨.wlk, scratch 8, 0, 1, 0⟩ }
     okWith (s.check (scratch 8) 8 .write s.myTag true 0) (fun l => State.good s l && decide (scopeFor s l = 0) && !usesCell l s.myTag &&
       decide ((lockFields (BitVec.ofNat 64 (leVal (s.view s.myCtx l 8 s.myTag)))).1 = true)) && someWith s.me.wait fun e => decide (e.kind = .wlk) && decide (e.addr = scratch 8)) = true ∧
    (let s := lockedWord { strand [(6, scratch 8)] with wwait := some (0, scratchKey 0 8, 0) }
     okWith (s.check (scratch 8) 8 .write s.myTag true 0) (fun l => decide (s.me.wwait = some (l.cube, l.key, if l.plied then s.myTag else 0)))) = true ∧
    (2 : Nat) ^ 30 - 1 < 2 ^ 30 := by decide +kernel
theorem witness_SpindleControl_both : (0x00040009 : Word).getLsbD 0 = true ∧ (0x00040009 : Word).getLsbD 3 = true := by decide
/-- A launch queue of nine submissions. -/
def submitting (n : Nat) : State :=
  { cube (strand [(5, 0x204), (6, scratch 0x1000)]) with
    ctxs := [(0, { state := .running, clmask := 1, submissions := List.replicate n ⟨launchRecord, 0, false⟩ })]
    mem := [⟨scratchKey 0 0x1011, 0x30⟩, ⟨scratchKey 0 0x1017, 0xF0⟩] }
/-- The page of 0x100000 lies in a range that is being re-striped. -/
def restriping (k : Machine.Ctx) : State :=
  { walked with
    amap := [(0, some ⟨true, false, true, 30, 1, 0, 0, 0x8000000000, 0, 0x40000, 0x40000, 1, 30, 0, [], [], false, 0⟩)]
    ctxs := [(0, { k with state := .running, clmask := 1, ptlog := 10 })] }
theorem witness_MessagesAndCommands_launch :
    (let s := submitting 8
     decide ((0x204 : Nat) % 512 = 4) && isEngineUnit 0x204 && decide (0x204 / 512 % 2 = 1) && !s.submitHeld 0 (scratch 0x1000) && decide ((s.ctx 0).state ≠ .free) &&
     someWith (s.mgmtWords 0 (scratch 0x1000) 32) (fun ws => decide ((wordAt ws 2).toNat % 8 = 0) && someWith (s.mgmtPlace 0 (wordAt ws 2) true) fun r => decide (r = .here (scratchKey 0 0x3000))) &&
     decide ((s.ctx 0).submissions.length < 9) && decide (9 ≤ ((submitting 9).ctx 0).submissions.length) && (s.mgmtWords 0 0x40 32).isNone) = true ∧
    (restriping {}).submitHeld 0 0x100000 = true := by decide +kernel
theorem test_esend_full :
    nextWith (exec (.esend 5 6) (submitting 9)) (fun t => decide (t.bytes (scratchKey 0 0x3000) 8 = leBytes 8 5) && decide ((t.ctx 0).submissions.length = 9)) = true := by decide +kernel
theorem witness_Skeins_exit :
    (let s := skeined (strand [(5, 5), (6, 0x10000005)]) []
     decide (s.skein s.myCtx 5 = some (aSkein [])) && decide (((aSkein []).stage 0).bobbin = []) && decide ((aSkein []).exit.bobbin = []) && decide ((0x10000005 : Nat) / 2 ^ 28 = 1) &&
     decide ((s.core 0).slots.length < (s.core 0).poolSize) && Tab.wf none (s.core 0).slots && decide (s.me.worker = none) && decide (s.me.held = none)) = true ∧
    ({ aSkein [] with exit := aStage [aRecord] } : Skein).exit.bobbin = [aRecord] ∧ isMsgStrand (handler (strand [])).cur = true := by decide +kernel
theorem test_bobdeq_exit :
    nextWith (exec (.bobdeq 6) { skeined (strand [(6, 0x10000005)]) [] with
        ctxs := [(0, { state := .running, clmask := 1, ntags := 9, tags := [(1, some ⟨false, 0⟩)], skeins := [(5, some { aSkein [] with exit := aStage [aRecord] })] })] })
      (fun t => decide (t.me.readX 10 = 77) && decide (t.me.held = none) && decide (t.me.ply = 1)) = true := by decide +kernel
theorem witness_LeasesAndGate_rotation :
    firstInRotation (some 0) [3, 7] 3 ∧ firstInRotation (some 0) [0, 3] 3 ∧ firstInRotation none [0, 3] 0 ∧
    ({ holder := some 0, lastHolder := some 0, waiting := [3, 7] } : Cluster).holder = some 0 ∧ ({ lastHolder := some 0, waiting := [3] } : Cluster).holder = none := by
  unfold firstInRotation; decide
theorem witness_Conversions_source :
    laneAt ({ strand [] with v := [(2, 0x7F80)] } : Strand) 2 16 0 / 2 ^ bf16.mb % 2 ^ bf16.eb = 2 ^ bf16.eb - 1 ∧
    (∀ i, i < 64 → laneAt (strand []) (Fin.ofNat 32 (2 + i / 32)) 16 (i % 32) / 2 ^ bf16.mb % 2 ^ bf16.eb ≠ 2 ^ bf16.eb - 1) ∧
    (scaleNumber (headerA false 0x7FF).1).isSome = true ∧ (scaleNumber (headerB true 0x700000000000).1).isSome = true ∧ (scaleNumber (headerA false 0).1).isSome = true := by
  decide +kernel
theorem witness_Scheduling_gang :
    (let s : State := { idling {} {} with dies := [(0, { gangs := [⟨0, 0, [], 0, [], [(1, [2])]⟩] })] }
     s.works (coreOf 1) && decide (((s.die 0).gangs.map (·.todo)) = [[]])) = true ∧
    ({ idling {} {} with ctxs := [(0, { state := .running, clmask := 1, pstop := true, dcores := 1 })] } : State).works (coreOf 1) = false ∧
    (some 0 = some (0 : Nat) ∧ 65536 ≤ (idling {} {}).cycle - 0) := by decide +kernel
theorem test_gang_starts :
    nextWith (exec .gangStart { idling {} {} with dies := [(0, { gangs := [⟨0, 0, [], 0, [], [(1, [0x200, 0])]⟩] })], units := [(1, { st := .reserved })] })
      (fun t => decide ((t.unit 1).st = .run) && decide ((t.unit 1).pc = 0x200) && decide ((t.die 0).gangs = [])) = true := by decide +kernel
/-- A posted write of context 0's function waits for its acknowledgement. -/
def posting (inp : Input) (k : Machine.Ctx) : State :=
  { launching inp k with srcKeys := [(7, some ⟨1, [⟨{ bare .builtin with sunit := hostPort }, 0, 0, 0⟩], none⟩)] }
theorem witness_LaunchSteps_held :
    (posting {} { state := .idle }).hostPending 0 = true ∧ (restriping {}).submitHeld 0 0x100000 = true ∧
    (let s := launching { word0 := scratch 0x1000 } { state := .idle, clmask := 1, ptlog := 10, submissions := [⟨launchRecord, 0, false⟩] }
     let s1 := s.setCtx 0 { s.configured 0 with submissions := [] }
     !s.hostPending 0 && !s.submitHeld 0 s.inp.word0 && !s.launchHeld 0 launchRecord && okWith (s1.prepare 0 launchRecord) (fun _ => true) && (s1.mgmtPlace 0 (wordAt launchRecord 2) true).isSome &&
     errWith (s1.prepare 0 [2, 0x100, scratch 0x3000]) 1 && !s.mgmtHeld 0 (wordAt liveLaunch.words 2)) = true := by decide +kernel
theorem test_launch_starts :
    nextWith (exec .launchIngestion (launching {} { state := .idle, clmask := 1, ptlog := 10, submissions := [⟨launchRecord, 0, false⟩] })) (fun t =>
      decide ((t.ctx 0).state = .running) && (t.ctx 0).launch.isSome && decide ((t.core 0).slots.length = 1)) = true := by decide +kernel
theorem witness_ContextSteps_host :
    (posting {} { state := .running }).hostPending 0 = true ∧ (launching {} { state := .running }).hostPending 0 = false ∧
    (launching {} { state := .running, submissions := [⟨launchRecord, 0, false⟩] }).mgmtHeld 0 (wordAt launchRecord 2) = false ∧
    0x100088 / 8 * 8 - 0x100000 = 0x088 ∧ 0x100038 / 8 * 8 - 0x100000 = 0x038 ∧ ({ dhalt := true } : Machine.Ctx).dhalt = true ∧
    (({ launching {} {} with clusters := [(0, { ctx := some 0, svc := [{ hostEvent with ctx := 1 }] })] } : State).cluster 0).svc.map (·.ctx) = [1] := by decide +kernel
theorem witness_MessageSteps_late :
    (let p : Packet := { bare .user with hcls := 20 }
     let s := idling {} {}
     !s.lateBefore p && decide (p.origin = none)) = true ∧
    (let q : Packet := { bare .builtin with hcls := 3, dcube := 9, ord := 4 }
     let s : State := { idling {} { spawns := [q] } with removed := [9] }
     decide ((s.core 0).spawns.find? (fun q => !q.awaited && decide (1024 ≤ s.cycle - q.req) && (s.isRemoved q.dcube || decide (s.sendState q.dcube q.sunit 0 = .ready))) = some q) &&
     s.isRemoved q.dcube && decide (q.origin = none) && decide (q.scube = s.cubeNum) && decide (coreOfUnit q.sunit = some 0)) = true := by decide +kernel
theorem test_spawn_unreachable :
    nextWith (exec .spawnResend { idling {} { spawns := [{ bare .builtin with hcls := 3, dcube := 9, ord := 4 }] } with removed := [9] }) (fun t =>
      (t.core 0).spawns.isEmpty && decide ((t.inner.map fun p => (p.kind, p.aux)) = [(.response, 1)])) = true := by decide +kernel
theorem witness_EventSteps_full :
    (let s : State := { stoppedOn true with ctxs := [(0, { state := .running, clmask := 1, evpol := 0xC, hevt := List.replicate 64 hostEvent })], clusters := [(0, { ctx := some 0, svc := [anEvent .undef] })] }
     decide (s.plat.boot ≠ .failed) && decide ((s.ctx 0).policy .undef = 3) && decide (64 ≤ (s.ctx 0).hevt.length) && !s.isOut 0 && decide ((s.unit (anEvent .undef).party).event = some (anEvent .undef)) &&
     (takeEvent (fun e => e.note || decide (e.code ≠ .xmiss)) (s.cluster 0).svc).isSome) = true := by decide +kernel
theorem witness_UnitSteps_image :
    (({ cube (strand []) with units := [(1, strand []), (8, { busy := true, st := .run })] } : State).unit 8).event = none ∧
    (({ cube (strand []) with units := [(1, strand []), (8, { busy := true, st := .stopped, event := some (anEvent .undef) })] } : State).unit 8).event ≠ none := by decide +kernel
theorem witness_TransferSteps_order :
    (let s : State := { returning with ops := [anOp (.plyret 2 false) .stores, anOp (.plyret 3 true) .stores], cells := [] }
     (s.ops.take 1).any fun p => decide (p.party = 1) && decide (p.ctx = 0)) = true ∧ returning.ops.take 0 = [] ∧
    (flying (anOp .cpy .copies)).copiedAway (scratchKey 0 64) = false := by decide +kernel
/-- R204: a PLYRET of the same party before it has not completed. -/
theorem test_plyret_order :
    nextWith (exec .plyretComplete { returning with ops := [anOp (.plyret 2 false) .stores, anOp (.plyret 3 true) .stores], cells := [], inp := { index := 1 } })
      (fun t => decide (t.ops.length = 2)) = true := by decide +kernel
theorem witness_ArraySteps_acvt : (flying (anOp (.array (.acvt 3 0 0 0 true true false)) .tiles)).arrayBehind 0 0 (.acvt 3 0 0 0 true true false) = false := by decide +kernel
/-- R201: the FP32 accumulator's 1.5 becomes an FP16 element, and the accumulator is cleared. -/
theorem test_acvt_converts :
    nextWith (exec .arrayCommandComplete { flying (anOp (.array (.acvt 3 0 0 0 true false false)) .tiles) with
        clusters := [(0, { ctx := some 0, tcfg := [(3, 0x8001012)], acc := [(accKey 0 0 0, 0x3FF80000000000)] })] })
      (fun t => decide (Tab.read 0 (t.cluster 0).tiles (3 * 65536 + 1) = 0x3E) && decide ((t.cluster 0).acc = [])) = true := by decide +kernel
theorem witness_CollectiveSteps_report :
    (let c := ((aColl 2).setPart resultPart 0 [1]).setPart formedPart 0 [1]
     let s : State := { collecting c [] with inp := { flag := true, words := c.agreed } }
     decide (s.collLive 0 = some (anOp (.coll c) .copies, c)) && c.hasPart s.cubeNum 0 && decide (0 < c.chunks) && decide (([] : List Word) ≠ c.agreed)) = true ∧
    (let c := { aColl 2 with members := [0] }
     c.inWindow 0 0 && (c.fromChildren (c.place 0) 0).isSome && decide (c.parent (c.place 0) = none) && decide (c.part formedPart 0 = none)) = true ∧
    (let c := { aColl 0 with members := [5, 3, 0], root := 5 }
     decide ((c.parent (c.place 0)).isSome)) = true := by decide +kernel
theorem witness_FabricSteps_stripe :
    (let s := restriping {}
     someWith (Tab.read none s.amap 0) fun a => a.fwd && !s.stripeUsed a 0 && ({ s with ops := [{ anOp .cpy .copies with done := some 8 }] } : State).stripeUsed a 0) = true := by decide +kernel
theorem witness_PlatformSteps_held :
    (posting {} { state := .running }).hostPending 0 = true ∧ (launching {} { state := .running }).hostPending 0 = false ∧
    (restriping { bar2 := [(1, 0x100000)] }).mgmtHeld 0 (Tab.read 0 ((restriping { bar2 := [(1, 0x100000)] }).ctx 0).bar2 1 + 8) = true ∧
    (launching {} { state := .running, clmask := 1, bar2 := [(1, scratch 0x1000)] }).mgmtHeld 0 (scratch 0x1008) = false ∧
    ({ boot := .verifying } : Platform).boot = .verifying := by decide +kernel
/-- R317: an image that passes every check runs, whatever the digest and the signature's check turn out to be. -/
theorem witness_PlatformSteps_boot (image : List Byte) (h : bootCheck 0 image = 0) :
    ∃ s : State, s.plat.boot = .verifying ∧ bootCheck s.plat.minVersion s.plat.bootwin = 0 :=
  ⟨{ plat := { boot := .verifying, bootwin := image, minVersion := 0 } }, rfl, h⟩
end Sys2Proof.Tests
end

section
namespace Sys2Proof.Machine
open Sys2Proof Host

/-! ## Scratchpad addresses, and the bytes of the run-list region (R16, R18) -/

@[simp] theorem isScratchKey_scratchKey (core off : Nat) : isScratchKey (scratchKey core off) = true :=
  decide_eq_true (by unfold scratchKey; omega)

theorem scratchOff_scratchKey {off : Nat} (core : Nat) (h : off < 2 ^ 20) : scratchOff (scratchKey core off) = off := by
  unfold scratchOff scratchKey; omega

theorem scratchCore_scratchKey {core off : Nat} (hc : core < 256) (h : off < 2 ^ 20) : scratchCore (scratchKey core off) = core := by
  unfold scratchCore scratchKey; omega

/-- In the run-list region of a core no byte of memory shows, whatever has been written there. -/
theorem byte_runList (s : State) {core off : Nat} (hc : core < 256) (hlo : runListBase ≤ off) (hhi : off < 2 ^ 20) :
    s.byte (scratchKey core off) = s.runListByte core off := by
  simp [State.byte, scratchOff_scratchKey core hhi, scratchCore_scratchKey hc hhi, hlo]

/-- Without entries the region reads as the cube has it, open (log entry 8). -/
theorem runListByte_of_empty (s : State) {core : Nat} (off : Nat) (h : (s.core core).runq = []) :
    s.runListByte core off = Config.runListByte core off [] := by
  have none_listed : (List.range 4).findSome? (fun _ => (none : Option RunEntry)) = none := rfl
  simp [State.runListByte, h, Tab.read, none_listed]

/-- A response for a reply address in the run-list region of core 0, which waits in that core's inbox with `w` as word 0. -/
def listReply (w : Word) : Packet :=
  { (default : Packet) with kind := .response, hcls := 5, ocls := 1, reply := BitVec.ofNat 60 (2 ^ 59 + runListBase), payload := [w, 0, 0, 0] }

def listReplyMsg (w : Word) : InMsg := ⟨listReply w, 0, 0, false⟩

def listReplyState (w : Word) : State :=
  { clusters := [(0, { ctx := some 0 })], ctxs := [(0, { state := .running })], cores := [(0, { inbox := [(0, [listReplyMsg w])] })] }

theorem listReply_builtin (w : Word) : (listReplyState w).builtin 0 5 = some (listReplyMsg w, (listReplyState w).dropMessage 0 0 0) := rfl

theorem listReply_place (w : Word) :
    ((listReplyState w).dropMessage 0 0 0).localOf (listReplyMsg w).pkt.reply.toNat = some (scratchKey 0 runListBase) := by
  have cube : ((listReplyState w).dropMessage 0 0 0).cubeNum = 0 := rfl
  have reply : (listReplyMsg w).pkt.reply.toNat = 2 ^ 59 + runListBase := rfl
  simp [State.localOf, cube, reply, bits, runListBase]

/-! ## Answers to a reply address (R151) -/

@[simp] theorem state_cubeWrite_cores (s : State) (key : Nat) (bs : List Byte) : (s.cubeWrite key bs).cores = s.cores := rfl

@[simp] theorem state_completionWrite_cores (s : State) (key : Nat) (w : Word) : (s.completionWrite key w).cores = s.cores := by
  unfold State.completionWrite; split <;> rfl

/-- The two words of a response to a reply address are written by strand 0's routine (R151). -/
def State.answered (s : State) (key : Nat) (ws : List Word) : State :=
  (s.cubeWrite (key + 8) (leBytes 8 (wordAt ws 1).toNat)).completionWrite key (wordAt ws 0)

theorem responseDelivery_reply {s s1 : State} {m : InMsg} {key : Nat} (hb : s.builtin s.inp.core 5 = some (m, s1))
    (hk : s1.localOf m.pkt.reply.toNat = some key) : exec .responseDelivery s = .next (s1.answered key m.pkt.payload) := by
  show execResponseDelivery s = _
  simp only [execResponseDelivery, hb, hk, State.answered]

/-- After the delivery the reply address reads as the region did before it: as no word that was to be written. -/
theorem listReply_byte (w : Word) :
    (((listReplyState w).dropMessage 0 0 0).answered (scratchKey 0 runListBase) (listReplyMsg w).pkt.payload).byte (scratchKey 0 runListBase)
      = Config.runListByte 0 runListBase [] := by
  rw [byte_runList _ (by decide) (Nat.le_refl _) (by decide), runListByte_of_empty]
  simp only [State.answered, State.core, state_completionWrite_cores, state_cubeWrite_cores]
  rfl

end Sys2Proof.Machine

namespace Sys2Proof.Proofs
open Sys2Proof Sys2Proof.Machine Sys2Proof.Stated Host

/-- Of O46's clauses the one on RESPONSE_DELIVERY: what it says of the first byte at the reply address. -/
theorem listReply_claimed (h : Obligations.MessageSteps) (w : Word) : Config.runListByte 0 runListBase [] = BitVec.ofNat 8 (w.toNat % 256) := by
  obtain ⟨-, -, -, -, -, -, -, -, -, -, delivery, -⟩ := h (listReplyState w)
  obtain ⟨t, hexec, hbytes, -⟩ := delivery _ _ _ (listReply_builtin w) (listReply_place w)
  rw [responseDelivery_reply (listReply_builtin w) (listReply_place w)] at hexec
  cases hexec
  rw [← listReply_byte w]
  exact (List.cons.inj hbytes).1

/-- Refutes O46: a response whose reply address lies in the run-list region of a core (R18) is delivered, but no byte of memory shows there, so the
region cannot read as the delivered word for both of two words. -/
theorem not_messageSteps : ¬ Obligations.MessageSteps := by
  intro h
  have same := (listReply_claimed h 0).symm.trans (listReply_claimed h 1)
  exact absurd same (by decide)

end Sys2Proof.Proofs
end

section
namespace Sys2Proof.Machine
open Sys2Proof Sys2Proof.Stated Host

/-! ## Words of memory -/

/-- Word i of n words read from an address is the word at its place. -/
theorem wordAt_leWords_bytes (s : State) {n i : Nat} (key : Nat) (h : i < n) : wordAt (leWords (s.bytes key (8 * n))) i = s.word64 (key + 8 * i) := by
  induction n generalizing i key with
  | zero => omega
  | succ n ih =>
    show wordAt (s.word64 key :: leWords (s.bytes (key + 8) (8 * n))) i = _
    cases i with
    | zero => rfl
    | succ i =>
      have place : key + 8 * (i + 1) = key + 8 + 8 * i := by omega
      rw [place]
      exact ih (key + 8) (Nat.lt_of_succ_lt_succ h)

/-- Word i of a pool record. -/
theorem wordAt_record (s : State) (core slot : Nat) {i : Nat} (h : i < 8) :
    wordAt (s.record core slot) i = s.word64 (scratchKey core (recordOff (s.core core) slot) + 8 * i) :=
  wordAt_leWords_bytes s _ h

/-- Bit 36 of a word is bit 4 of its byte 4 (R4). -/
theorem word64_bit36 (s : State) (key : Nat) : (s.word64 key).getLsbD 36 = (s.byte (key + 4)).getLsbD 4 := by
  have bound (k : Nat) : (s.byte k).toNat < 256 := (s.byte k).isLt
  have b0 := bound key
  have b1 := bound (key + 1)
  have b2 := bound (key + 2)
  have b3 := bound (key + 3)
  have b4 := bound (key + 4)
  simp only [State.word64, State.bytes, leVal, BitVec.getLsbD, BitVec.toNat_ofNat, Nat.testBit_eq_decide_div_mod_eq, Nat.add_assoc, Nat.reduceAdd,
    decide_eq_decide]
  omega

/-! ## Taking up a record (R14) -/

@[simp] theorem state_traceWith_units (s : State) (key : Nat) (w0 w2 w3 : Word) : (s.traceWith key w0 w2 w3).units = s.units := by
  unfold State.traceWith; dsimp only; split
  · split <;> rfl
  · rfl
@[simp] theorem state_trace_units (s : State) (key kind : Nat) (w2 w3 : Word) : (s.trace key kind w2 w3).units = s.units := state_traceWith_units ..
@[simp] theorem state_trace_unit (s : State) (key kind : Nat) (w2 w3 : Word) (k : Nat) : (s.trace key kind w2 w3).unit k = s.unit k := by
  simp [State.unit]

/-- x9 to x14 of a strand that takes up a record. -/
theorem recordRegisters_read (ws : List Word) (r : Nat) :
    Tab.read 0 ((List.range 6).foldl (fun (t : Tab Word) i => Tab.write 0 t (9 + i) (wordAt ws (2 + i))) []) r
      = if 9 ≤ r ∧ r ≤ 14 then wordAt ws (r - 7) else 0 := by
  simp only [List.range, List.range.loop, List.foldl, tab_read_write, Nat.reduceAdd, Tab.read]
  by_cases h : 9 ≤ r ∧ r ≤ 14
  · rw [if_pos h]
    obtain rfl | rfl | rfl | rfl | rfl | rfl : r = 9 ∨ r = 10 ∨ r = 11 ∨ r = 12 ∨ r = 13 ∨ r = 14 := by omega
    all_goals rfl
  · rw [if_neg h]
    iterate 6 rw [if_neg (by omega)]

/-- A unit whose registers are a fresh strand's has taken the record up. -/
theorem takenUp_of_fresh {s t : State} {q : State} {key : Nat} {ws : List Word} {w : Option Worker} {r : Option SkRec} {f : Bool} {sid since : Nat}
    (hr : (q.unit key).rngst = (s.unit key).rngst)
    (h : t.unit key = { q.freshStrand key ws with worker := w, held := r, recfree := f, heldSid := sid, heldSince := since }) : TakenUp s t key ws := by
  constructor
  all_goals simp only [h, State.freshStrand, hr, and_self]
  case integers =>
    intro x
    simp only [Strand.readX, Strand.pending, List.find?_nil, Option.map_none, recordRegisters_read]
    by_cases hx : x.val = 0
    · rw [if_pos hx, if_neg (by omega)]
    · rw [if_neg hx]
  case masks =>
    intro x hx
    exact if_neg fun hc => hx (Fin.ext hc)
  case floats => exact fun _ => rfl
  case vectors => exact fun _ => rfl
  case maps => exact fun _ => rfl

@[simp] theorem state_startRecord_same (s : State) (key : Nat) (ws : List Word) : (s.startRecord key ws).unit key = s.freshStrand key ws :=
  tab_read_write_same _ _ _ _

/-- What RECORD_PICKUP and the steal scans do with a chosen record (R14): the strand takes up the record as the pool slot shows it then. -/
theorem pickup_takenUp (s : State) (home slot key : Nat) : TakenUp s (s.pickup home slot key) key (s.record home slot) := by
  simp only [State.pickup]
  cases Tab.read none (s.core home).slots slot with
  | none =>
    refine takenUp_of_fresh (q := s.setSlot home slot none) (w := none) (r := none) (f := false) (sid := 0) (since := 0) rfl ?_
    simp only [state_trace_unit, state_setCore_get_unit, state_startRecord_same, State.freshStrand]
  | some x =>
    refine takenUp_of_fresh (q := s.setSlot home slot none) (w := x.worker) (r := x.held) (f := x.recfree) (sid := x.heldSid) (since := x.heldSince) rfl ?_
    simp only [state_trace_unit, state_setCore_get_unit, state_setUnit_same, state_startRecord_same]

end Sys2Proof.Machine
end

section
namespace Sys2Proof.Machine
open Sys2Proof Sys2Proof.Stated Host

/-! ## Rows of a core's run list (R16) -/

/-- The entry of priority 0 that stands in a row, where it is among the list's own. -/
def rowEntry (core r : Nat) (l : List RunEntry) : Option RunEntry :=
  (l.take runListRoom).find? fun e => decide (Config.runListRow core 0 e.slot % 1024 = r)

/-- A byte of a row, where only priority 0 has entries. -/
theorem runListByte_row (s : State) {core r j : Nat} {l : List RunEntry} (hq : (s.core core).runq = [(0, l)]) (hj : j < 16) :
    s.runListByte core (runListBase + 16 * r + j) =
      ((rowEntry core r l).map fun e => (runEntryBytes s.cubeNum core (s.core core) e).getD j 0).getD
        (Config.runListByte core (runListBase + 16 * r + j) [(0, l)]) := by
  have row : (runListBase + 16 * r + j - runListBase) / 16 = r := by omega
  have place : (runListBase + 16 * r + j) % 16 = j := by unfold runListBase; omega
  simp only [State.runListByte, hq, row, place, List.range, List.range.loop, List.findSome?, Tab.read, if_pos, rowEntry]
  cases hf : (l.take runListRoom).find? fun e => decide (Config.runListRow core 0 e.slot % 1024 = r) <;> simp

/-- Bit 4 of byte 4 of a run-list entry is bit 0 of the cube's number, which stands in the record's address (R16, R93). -/
theorem runEntryBytes_cubeBit (cube : Nat) (k : Core) (e : RunEntry) (h : recordOff k e.slot < 2 ^ 28) :
    ((runEntryBytes cube 0 k e).getD 4 0).getLsbD 4 = decide (cube % 2 = 1) := by
  simp only [runEntryBytes, leBytes, List.cons_append, List.getD_cons_succ, List.getD_cons_zero, BitVec.getLsbD, BitVec.toNat_ofNat,
    Nat.testBit_eq_decide_div_mod_eq, decide_eq_decide]
  omega

/-- Where a record lies over a row of the run list, bit 36 of the word there is bit 4 of the row's byte 4. -/
theorem wordAt_record_row (s : State) {slot r : Nat} (hr : r < 1024) (hrec : recordOff (s.core 0) slot = runListBase + 64 * (r / 4)) :
    (wordAt (s.record 0 slot) (2 * (r % 4))).getLsbD 36 = (s.runListByte 0 (runListBase + 16 * r + 4)).getLsbD 4 := by
  have place : scratchKey 0 (runListBase + 64 * (r / 4)) + 8 * (2 * (r % 4)) + 4 = scratchKey 0 (runListBase + 16 * r + 4) := by
    unfold scratchKey; omega
  have inside : runListBase + 16 * r + 4 < 2 ^ 20 := by unfold runListBase; omega
  rw [wordAt_record s 0 slot (by omega), hrec, word64_bit36, place, byte_runList s (by decide) (by omega) inside]

/-- PC holds every bit of the value it is given but bit 0 (R37). -/
theorem pcValue_strand_bit36 (p : Word) : (pcValue (unitKey 0 1) p).getLsbD 36 = p.getLsbD 36 := by
  simp [pcValue, isSpindle, isService, slotOf, unitKey]

/-- Two records that one strand has taken up agree in bit 36 of their even words: PC, x9, x11 and x13 hold these. -/
theorem takenUp_words_agree {s s' t : State} {ws ws' : List Word} (h : TakenUp s t (unitKey 0 1) ws) (h' : TakenUp s' t (unitKey 0 1) ws') {j : Nat} (hj : j < 4) :
    (wordAt ws (2 * j)).getLsbD 36 = (wordAt ws' (2 * j)).getLsbD 36 := by
  have pcs := h.pc.symm.trans h'.pc
  have regs (r : Fin 32) := (h.integers r).symm.trans (h'.integers r)
  obtain rfl | rfl | rfl | rfl : j = 0 ∨ j = 1 ∨ j = 2 ∨ j = 3 := by omega
  · have bit := congrArg (fun w : Word => w.getLsbD 36) pcs
    simpa only [pcValue_strand_bit36] using bit
  · exact congrArg (fun w : Word => w.getLsbD 36) (regs 9)
  · exact congrArg (fun w : Word => w.getLsbD 36) (regs 11)
  · exact congrArg (fun w : Word => w.getLsbD 36) (regs 13)

/-! ## A core whose only work stands in its run list of priority 0 -/

/-- No work has aged where no entry has and no spill slot is occupied (R33). -/
theorem agedWork_none (s : State) (core : Nat) (hspills : (s.core core).spills = []) (h : ∀ p, ∀ e ∈ Tab.read [] (s.core core).runq p, e.aged = false) :
    s.agedWork core = none := by
  have runs : ((List.range 4).flatMap fun p => ((Tab.read [] (s.core core).runq p).mapIdx fun i r => (r, i)).filterMap fun e =>
      if e.1.aged then some (e.1.since, Work.run p e.2) else none) = [] := by
    simp only [List.flatMap_eq_nil_iff, List.filterMap_eq_nil_iff]
    intro p _ e he
    obtain ⟨i, hi, rfl⟩ := List.mem_mapIdx.1 he
    simp [h p _ (List.getElem_mem hi)]
  simp only [State.agedWork, readySpills, hspills, List.filterMap_nil, List.filter_nil, List.map_nil, List.nil_append, runs, leastBy, Option.map_none]

/-- A run-list entry of a slot, which has not aged. -/
def entryOf (slot : Nat) : RunEntry := ⟨slot, 0, 0, false, none⟩

/-- Core 0 of a cube in a running context 0, with these slots in its run list of priority 0. -/
def listedState (cube : BitVec 20) (slots : List Nat) : State :=
  { plat := { cube := cube }, clusters := [(0, { ctx := some 0 })], ctxs := [(0, { state := .running })], cores := [(0, { runq := [(0, slots.map entryOf)] })] }

theorem listedState_mayTake (cube : BitVec 20) (slots : List Nat) : (listedState cube slots).mayTake 0 = true := by
  simp [State.mayTake, State.works, listedState, State.ctxOfCluster, State.cluster, State.ctx, State.core, Tab.read]

theorem listedState_localWork (cube : BitVec 20) (slot : Nat) (slots : List Nat) : (listedState cube (slot :: slots)).localWork 0 = some (.run 0 0) := by
  have aged : (listedState cube (slot :: slots)).agedWork 0 = none := by
    refine agedWork_none _ _ rfl fun p e he => ?_
    have hq : ((listedState cube (slot :: slots)).core 0).runq = [(0, (slot :: slots).map entryOf)] := rfl
    rw [hq] at he
    simp only [Tab.read] at he
    split at he
    · obtain ⟨i, -, rfl⟩ := List.mem_map.1 he; rfl
    · cases he
  simp only [State.localWork, aged]
  rfl

end Sys2Proof.Machine
end

section
namespace Sys2Proof.Machine
open Sys2Proof Sys2Proof.Stated Host

/-- The row of slot 0's entry in core 0's list of priority 0: open (Config.runListRow, log entry 8). -/
def firstRow : Nat := Config.runListRow 0 0 0 % 1024

/-- A slot number, past the pool's last, whose record would lie over that row. -/
def overSlot : Nat := 3200 + firstRow / 4

theorem firstRow_lt : firstRow < 1024 := Nat.mod_lt _ (by decide)

/-- The byte of that row which holds bit 0 of the cube's number, where the row holds an entry. -/
def rowByte (s : State) : Bool := (s.runListByte 0 (runListBase + 16 * firstRow + 4)).getLsbD 4

theorem recordOff_default (k : Core) (slot : Nat) (hp : k.poolSize = 1024) (hs : k.spillSize = 16) : recordOff k slot = 0xCA000 + 64 * slot := by
  simp only [recordOff, poolBase, spillBase, inboxBase, poolBytes, hp, hs]; omega

theorem recordOff_overSlot (k : Core) (hp : k.poolSize = 1024) (hs : k.spillSize = 16) : recordOff k overSlot = runListBase + 64 * (firstRow / 4) := by
  rw [recordOff_default k _ hp hs, overSlot, runListBase]; omega

@[simp] theorem state_dropEntry_same (s : State) (core prio idx : Nat) : (s.dropEntry core prio idx).core core =
    { s.core core with runq := Tab.write [] (s.core core).runq prio ((Tab.read [] (s.core core).runq prio).eraseIdx idx) } :=
  state_setCore_same _ _ _

/-- Core 0 after its first entry has left the list. -/
theorem listedState_dropped_runq (cube : BitVec 20) (slot : Nat) (slots : List Nat) :
    (((listedState cube (slot :: slots)).dropEntry 0 0 0).core 0).runq = if slots = [] then [] else [(0, slots.map entryOf)] := by
  have hq : ((listedState cube (slot :: slots)).core 0).runq = [(0, entryOf slot :: slots.map entryOf)] := rfl
  simp only [state_dropEntry_same, hq, Tab.read, if_pos, List.eraseIdx_cons_zero, Tab.write, List.map_eq_nil_iff, Tab.erase]
  split <;> rfl

/-- The row shows the cube's number where it holds an entry of the core. -/
theorem rowByte_of_entry {s : State} {l : List RunEntry} {e : RunEntry} (hq : (s.core 0).runq = [(0, l)]) (he : rowEntry 0 firstRow l = some e)
    (hrec : recordOff (s.core 0) e.slot < 2 ^ 28) : rowByte s = decide (s.cubeNum % 2 = 1) := by
  rw [rowByte, runListByte_row s hq (by decide), he]
  exact runEntryBytes_cubeBit _ _ _ hrec

/-- Without an entry it reads as the cube has it: of the lists alone, whatever the cube's number. -/
theorem rowByte_of_none {s : State} {l : List RunEntry} (hq : (s.core 0).runq = [(0, l)]) (he : rowEntry 0 firstRow l = none) :
    rowByte s = (Config.runListByte 0 (runListBase + 16 * firstRow + 4) [(0, l)]).getLsbD 4 := by
  rw [rowByte, runListByte_row s hq (by decide), he]
  rfl

/-- The slots that fill up the list's own entries behind a first one, and slot 0 after them, in the overflow chain (R16). -/
def chained : List Nat := List.replicate 255 overSlot ++ [0]

theorem chained_length : (chained.map entryOf).length ≤ runListRoom := by
  rw [List.length_map, chained, List.length_append, List.length_replicate]; decide

/-- No entry of `overSlot` has slot 0's row, where the two slots' rows differ. -/
theorem find_overSlot_none (h : Config.runListRow 0 0 overSlot % 1024 ≠ firstRow) (n : Nat) :
    ((List.replicate n overSlot).map entryOf).find? (fun e => decide (Config.runListRow 0 0 e.slot % 1024 = firstRow)) = none := by
  rw [List.find?_eq_none]
  intro e he
  obtain ⟨slot, hslot, rfl⟩ := List.mem_map.1 he
  rw [List.eq_of_mem_replicate hslot]
  exact decide_eq_false h ▸ Bool.false_ne_true

/-- Slot 0's entry is the list's 257th: its row is empty. -/
theorem rowEntry_chained_before (h : Config.runListRow 0 0 overSlot % 1024 ≠ firstRow) :
    rowEntry 0 firstRow ((overSlot :: chained).map entryOf) = none := by
  have list : overSlot :: chained = List.replicate 256 overSlot ++ [0] := rfl
  rw [rowEntry, list, List.map_append, List.take_left' (by rw [List.length_map, List.length_replicate]; rfl)]
  exact find_overSlot_none h 256

/-- It is the 256th once another has left: the row holds it. -/
theorem rowEntry_chained_after (h : Config.runListRow 0 0 overSlot % 1024 ≠ firstRow) :
    rowEntry 0 firstRow (chained.map entryOf) = some (entryOf 0) := by
  rw [rowEntry, List.take_of_length_le chained_length, chained, List.map_append, List.find?_append, find_overSlot_none h 255]
  simp [entryOf, firstRow]

end Sys2Proof.Machine

namespace Sys2Proof.Proofs
open Sys2Proof Sys2Proof.Machine Sys2Proof.Stated Host

/-- RECORD_PICKUP in `listedState`: the entry leaves the list, then its record is read. -/
theorem recordPickup_listed (cube : BitVec 20) (slot : Nat) (slots : List Nat) :
    exec .recordPickup (listedState cube (slot :: slots)) = .next (((listedState cube (slot :: slots)).dropEntry 0 0 0).pickup 0 slot (unitKey 0 1)) := by
  have take : (listedState cube (slot :: slots)).mayTake (listedState cube (slot :: slots)).inp.core = true := listedState_mayTake cube _
  have idle : (listedState cube (slot :: slots)).idleStrand (listedState cube (slot :: slots)).inp.core = some (unitKey 0 1) := rfl
  have work : (listedState cube (slot :: slots)).localWork (listedState cube (slot :: slots)).inp.core = some (.run 0 0) := listedState_localWork cube slot slots
  show execRecordPickup _ = _
  simp only [execRecordPickup, take, idle, work, if_pos]
  rfl

/-- What O43's clause on RECORD_PICKUP says of `listedState`: the record reads alike before and after its entry leaves the list. -/
theorem rowByte_claimed (h : Obligations.Scheduling) (cube : BitVec 20) (slots : List Nat) :
    rowByte (listedState cube (overSlot :: slots)) = rowByte ((listedState cube (overSlot :: slots)).dropEntry 0 0 0) := by
  have wordBit (s : State) (hp : (s.core 0).poolSize = 1024) (hs : (s.core 0).spillSize = 16) :
      (wordAt (s.record 0 overSlot) (2 * (firstRow % 4))).getLsbD 36 = rowByte s :=
    wordAt_record_row s firstRow_lt (recordOff_overSlot _ hp hs)
  obtain ⟨records, -⟩ := h
  obtain ⟨pickup, -⟩ := records (listedState cube (overSlot :: slots))
  obtain ⟨t, hexec, claimed, -⟩ :=
    pickup (unitKey 0 1) 0 0 (entryOf overSlot) (listedState_mayTake cube _) rfl (listedState_localWork cube overSlot slots) rfl
  rw [recordPickup_listed] at hexec
  cases hexec
  have actual := pickup_takenUp ((listedState cube (overSlot :: slots)).dropEntry 0 0 0) 0 overSlot (unitKey 0 1)
  rw [← wordBit (listedState cube _) rfl rfl, ← wordBit (State.dropEntry _ 0 0 0) (by rw [state_dropEntry_same]; rfl) (by rw [state_dropEntry_same]; rfl)]
  exact takenUp_words_agree claimed actual (Nat.mod_lt _ (by decide))

/-- Refutes O43: what a pool slot's record reads as depends on the run lists where the record would lie in the run-list region (R16, R18: a slot past
the pool's last), and the entry has left its list before its record is read. With `overSlot` alone in the list the row shows its entry before, nothing
after; where `overSlot` has another row than slot 0, the list's 257th entry comes into the row. One of the two readings follows the cube's number. -/
theorem not_scheduling : ¬ Obligations.Scheduling := by
  intro h
  by_cases hrow : Config.runListRow 0 0 overSlot % 1024 = firstRow
  · have before (cube : BitVec 20) : rowByte (listedState cube [overSlot]) = decide (cube.toNat % 2 = 1) :=
      rowByte_of_entry (e := entryOf overSlot) rfl (by simp [rowEntry, entryOf, hrow, runListRoom]) (by
        rw [show (entryOf overSlot).slot = overSlot from rfl, recordOff_overSlot _ rfl rfl]; have := firstRow_lt; unfold runListBase; omega)
    have after (cube : BitVec 20) : rowByte ((listedState cube [overSlot]).dropEntry 0 0 0)
        = (Config.runListByte 0 (runListBase + 16 * firstRow + 4) []).getLsbD 4 :=
      congrArg (BitVec.getLsbD · 4) (runListByte_of_empty _ _ (listedState_dropped_runq cube overSlot []))
    have same (cube : BitVec 20) := (before cube).symm.trans ((rowByte_claimed h cube []).trans (after cube))
    exact absurd ((same 0).trans (same 1).symm) (by decide)
  · have before (cube : BitVec 20) : rowByte (listedState cube (overSlot :: chained))
        = (Config.runListByte 0 (runListBase + 16 * firstRow + 4) [(0, (overSlot :: chained).map entryOf)]).getLsbD 4 :=
      rowByte_of_none rfl (rowEntry_chained_before hrow)
    have after (cube : BitVec 20) : rowByte ((listedState cube (overSlot :: chained)).dropEntry 0 0 0) = decide (cube.toNat % 2 = 1) :=
      rowByte_of_entry (listedState_dropped_runq cube overSlot chained) (rowEntry_chained_after hrow) (by
        rw [recordOff_default _ _ (by rw [state_dropEntry_same]; rfl) (by rw [state_dropEntry_same]; rfl)]; decide)
    have same (cube : BitVec 20) := (after cube).symm.trans ((rowByte_claimed h cube chained).symm.trans (before cube))
    exact absurd ((same 0).trans (same 1).symm) (by decide)

end Sys2Proof.Proofs
end

section
namespace Sys2Proof.Machine
open Sys2Proof Sys2Proof.Stated Host

/-! ## Sending a packet (R146, R298): what it leaves alone, and where the packet is afterwards -/

theorem state_launchPacket_frame (s : State) (p : Packet) : { s.launchPacket p with net := s.net, srcKeys := s.srcKeys } = s := by
  unfold State.launchPacket; dsimp only; split <;> rfl

theorem state_depart_frame (s : State) (p : Packet) :
    { s.depart p with inner := s.inner, net := s.net, outbox := s.outbox, srcKeys := s.srcKeys } = s := by
  unfold State.depart
  split
  · rfl
  · split
    · rfl
    · exact congrArg (fun t : State => { t with inner := s.inner, outbox := s.outbox }) (state_launchPacket_frame s p)

theorem state_post_frame (s : State) (p : Packet) :
    { s.post p with inner := s.inner, net := s.net, outbox := s.outbox, srcKeys := s.srcKeys, fresh := s.fresh } = s :=
  congrArg (fun t : State => { t with fresh := s.fresh }) (state_depart_frame { s with fresh := s.fresh + 1 } { p with ord := s.fresh })

@[simp] theorem state_post_units (s : State) (p : Packet) : (s.post p).units = s.units := (congrArg State.units (state_post_frame s p) :)
@[simp] theorem state_post_cores (s : State) (p : Packet) : (s.post p).cores = s.cores := (congrArg State.cores (state_post_frame s p) :)
@[simp] theorem state_post_clusters (s : State) (p : Packet) : (s.post p).clusters = s.clusters := (congrArg State.clusters (state_post_frame s p) :)
@[simp] theorem state_post_ctxs (s : State) (p : Packet) : (s.post p).ctxs = s.ctxs := (congrArg State.ctxs (state_post_frame s p) :)
@[simp] theorem state_post_mgmt (s : State) (p : Packet) : (s.post p).mgmt = s.mgmt := (congrArg State.mgmt (state_post_frame s p) :)
@[simp] theorem state_post_plat (s : State) (p : Packet) : (s.post p).plat = s.plat := (congrArg State.plat (state_post_frame s p) :)
@[simp] theorem state_post_unit (s : State) (p : Packet) (k : Nat) : (s.post p).unit k = s.unit k := by simp [State.unit]
@[simp] theorem state_post_core (s : State) (p : Packet) (c : Nat) : (s.post p).core c = s.core c := by simp [State.core]
@[simp] theorem state_post_cluster (s : State) (p : Packet) (c : Nat) : (s.post p).cluster c = s.cluster c := by simp [State.cluster]
@[simp] theorem state_post_ctx (s : State) (p : Packet) (c : Nat) : (s.post p).ctx c = s.ctx c := by simp [State.ctx]

/-- Two states send alike: the same packets wait and are on their way, and the same keys and cubes decide on a packet. -/
structure SendsAlike (s t : State) : Prop where
  outbox : t.outbox = s.outbox
  inner : t.inner = s.inner
  net : t.net = s.net
  keys : t.srcKeys = s.srcKeys
  removed : t.removed = s.removed
  cube : t.plat.cube = s.plat.cube

theorem SendsAlike.refl (s : State) : SendsAlike s s := ⟨rfl, rfl, rfl, rfl, rfl, rfl⟩

theorem SendsAlike.cubeNum {s t : State} (h : SendsAlike s t) : t.cubeNum = s.cubeNum := congrArg BitVec.toNat h.cube

theorem SendsAlike.packetState {s t : State} (h : SendsAlike s t) (p : Packet) : t.packetState p = s.packetState p := by
  unfold State.packetState State.sendState State.isRemoved
  rw [h.cubeNum, h.keys, h.removed]

theorem SendsAlike.setCore {s t : State} (h : SendsAlike s t) (c : Nat) (q : Core) : SendsAlike s (t.setCore c q) :=
  ⟨h.outbox, h.inner, h.net, h.keys, h.removed, h.cube⟩

theorem SendsAlike.setCluster {s t : State} (h : SendsAlike s t) (c : Nat) (q : Cluster) : SendsAlike s (t.setCluster c q) :=
  ⟨h.outbox, h.inner, h.net, h.keys, h.removed, h.cube⟩

/-- What a departure can do: the packet waits in the core, enters this cube's network, or goes out under its key. -/
theorem state_depart_cases (s : State) (p : Packet) :
    (s.mustWait p = true ∧ s.depart p = { s with outbox := s.outbox ++ [p] }) ∨
    (p.dcube = s.cubeNum ∧ s.depart p = { s with inner := s.inner ++ [{ p with ts := BitVec.ofNat 32 s.gtime }] }) ∨
    (p.dcube ≠ s.cubeNum ∧ s.depart p = s.launchPacket p) := by
  unfold State.depart
  split
  · exact .inl ⟨‹_›, rfl⟩
  · split
    · exact .inr (.inl ⟨‹_›, rfl⟩)
    · exact .inr (.inr ⟨‹_›, rfl⟩)

/-- A packet for another cube goes out to it (R298). -/
theorem state_launchPacket_net (s : State) (p : Packet) :
    ∃ ts seq, (s.launchPacket p).net = s.net ++ [{ p with ts := ts, seq := seq }] ∧ (s.launchPacket p).inner = s.inner ∧ (s.launchPacket p).outbox = s.outbox := by
  unfold State.launchPacket
  dsimp only
  split <;> exact ⟨_, _, rfl, rfl, rfl⟩

/-- A packet that departs is on its way in this cube or to another one, or waits in the core where it must. -/
theorem posted_depart {s t : State} (h : SendsAlike s t) {p : Packet} {P : Packet → Prop} (hp : ∀ ts seq, P { p with ts := ts, seq := seq }) :
    Posted s (t.depart p) P := by
  obtain ⟨hwait, hq⟩ | ⟨hcube, hq⟩ | ⟨hcube, hq⟩ := state_depart_cases t p
  · rw [hq]
    refine ⟨p, hp p.ts p.seq, .inr (.inr ⟨?_, congrArg (· ++ [p]) h.outbox, h.inner, h.net⟩)⟩
    simp only [State.mustWait, Bool.or_eq_true, Bool.and_eq_true, decide_eq_true_eq] at hwait
    rw [← h.outbox, ← h.packetState]
    obtain (hkey | ⟨-, hstate⟩) | ⟨hmessage, -⟩ := hwait
    · exact .inl hkey
    · exact .inr (.inl hstate)
    · exact .inr (.inr hmessage)
  · rw [hq]
    exact ⟨{ p with ts := BitVec.ofNat 32 t.gtime }, hp _ p.seq, .inl ⟨hcube.trans h.cubeNum, congrArg (· ++ [_]) h.inner, h.net, h.outbox⟩⟩
  · obtain ⟨ts, seq, hnet, hinner, houtbox⟩ := state_launchPacket_net t p
    rw [hq]
    exact ⟨_, hp ts seq, .inr (.inl ⟨fun hc => hcube (hc.trans h.cubeNum.symm), hnet.trans (congrArg (· ++ [_]) h.net), hinner.trans h.inner, houtbox.trans h.outbox⟩)⟩

/-- The same of a packet that is sent, which gets a number of the model's. -/
theorem posted_post {s t : State} (h : SendsAlike s t) {p : Packet} {P : Packet → Prop} (hp : ∀ ord ts seq, P { p with ord := ord, ts := ts, seq := seq }) :
    Posted s (t.post p) P :=
  posted_depart (t := { t with fresh := t.fresh + 1 }) ⟨h.outbox, h.inner, h.net, h.keys, h.removed, h.cube⟩ (hp _)

theorem posted_mono {s t : State} {P Q : Packet → Prop} (h : Posted s t P) (hPQ : ∀ p, P p → Q p) : Posted s t Q := by
  obtain ⟨q, hq, hplace⟩ := h
  exact ⟨q, hPQ q hq, hplace⟩

/-- A packet for another cube does not enter this cube's network. -/
theorem state_depart_inner_of_far (s : State) {p : Packet} (h : p.dcube ≠ s.cubeNum) : (s.depart p).inner = s.inner := by
  obtain ⟨-, hq⟩ | ⟨hcube, -⟩ | ⟨-, hq⟩ := state_depart_cases s p
  · rw [hq]
  · exact absurd hcube h
  · obtain ⟨-, -, -, hinner, -⟩ := state_launchPacket_net s p
    rw [hq, hinner]

theorem state_post_inner_of_far (s : State) {p : Packet} (h : p.dcube ≠ s.cubeNum) : (s.post p).inner = s.inner :=
  state_depart_inner_of_far { s with fresh := s.fresh + 1 } (p := { p with ord := s.fresh }) h

end Sys2Proof.Machine
end

section
namespace Sys2Proof.Machine
open Sys2Proof Sys2Proof.Stated Host

/-! ## Replies of a service core (R91, R316) -/

@[simp] theorem state_reply_units (s : State) (e : EventMsg) (f : Nat) (w0 w1 : Word) : (s.reply e f w0 w1).units = s.units := state_post_units ..
@[simp] theorem state_reply_core (s : State) (e : EventMsg) (f : Nat) (w0 w1 : Word) (c : Nat) : (s.reply e f w0 w1).core c = s.core c := state_post_core ..
@[simp] theorem state_reply_cluster (s : State) (e : EventMsg) (f : Nat) (w0 w1 : Word) (c : Nat) : (s.reply e f w0 w1).cluster c = s.cluster c := state_post_cluster ..
@[simp] theorem state_reply_ctx (s : State) (e : EventMsg) (f : Nat) (w0 w1 : Word) (c : Nat) : (s.reply e f w0 w1).ctx c = s.ctx c := state_post_ctx ..

/-- A reply goes to the unit that stopped, in HCLS 8, with its word 0 in front (R91). -/
theorem reply_posted {s t : State} (h : SendsAlike s t) (e : EventMsg) (f : Nat) (w0 w1 : Word) :
    Posted s (t.reply e f w0 w1) fun p => p.kind = .builtin ∧ p.hcls = 8 ∧ p.dunit = e.unit ∧ wordAt p.payload 0 = w0 :=
  posted_post h fun _ _ _ => ⟨rfl, rfl, rfl, rfl⟩

/-- A policy below 3 is answered by a reply: terminate, skip or retry (R316). -/
theorem answer_eq_reply (s : State) (e : EventMsg) {policy : Nat} (h : policy < 3) :
    s.answer e policy = s.reply e (unitNumber (serviceKey (clusterOf e.party))) (replyWord e (2 - policy) false) 0 := by
  obtain rfl | rfl | rfl : policy = 0 ∨ policy = 1 ∨ policy = 2 := by omega
  all_goals rfl

theorem answer_three (s : State) (e : EventMsg) : s.answer e 3 = s.forward e := rfl

/-- A filled TLB entry is answered by a retry (R246). -/
theorem fillTlb_eq (s : State) (e : EventMsg) (i : Nat) (p : Pte) :
    s.fillTlb e i p = (s.setCore (coreOf e.party) { s.core (coreOf e.party) with tlb := Tab.write none (s.core (coreOf e.party)).tlb (i % 64) (some p) }).reply e
      (unitNumber (serviceKey (clusterOf e.party))) (replyWord e 0 false) 0 := by
  dsimp only [State.fillTlb]
  exact answer_eq_reply _ e (by decide : 2 < 3)

/-- It stands in the entry of the stopped unit's core. -/
theorem fillTlb_tlb (s : State) (e : EventMsg) (i : Nat) (p : Pte) : Tab.read none ((s.fillTlb e i p).core (coreOf e.party)).tlb (i % 64) = some p := by
  rw [fillTlb_eq, state_reply_core, state_setCore_same]
  exact tab_read_write_same none (some p) _ _

theorem fillTlb_posted {s t : State} (h : SendsAlike s t) (e : EventMsg) (i : Nat) (p : Pte) :
    Posted s (t.fillTlb e i p) fun q => q.hcls = 8 ∧ q.dunit = e.unit ∧ wordAt q.payload 0 = replyWord e 0 false := by
  rw [fillTlb_eq]
  exact posted_mono (reply_posted (h.setCore _ _) e _ _ _) fun _ hq => hq.2

/-! ## Raising a function's vector (R310) -/

@[simp] theorem state_raiseVf_cluster (s : State) (ctx v c : Nat) : (s.raiseVf ctx v).2.cluster c = s.cluster c := by
  unfold State.raiseVf; dsimp only; split <;> rfl

theorem state_raiseVf_ctx (s : State) (ctx v : Nat) : ∃ vs, (s.raiseVf ctx v).2.ctx ctx = { s.ctx ctx with vectors := vs } := by
  unfold State.raiseVf
  dsimp only
  split
  · exact ⟨_, state_setCtx_same _ _ _⟩
  · exact ⟨_, state_setCtx_same _ _ _⟩

/-! ## Forwarding an event to the host (R316) -/

theorem forward_queued (s : State) (e : EventMsg) (h : (s.ctx e.ctx).hevt.length < 64) (c : Nat) :
    (s.forward e).cluster c = s.cluster c ∧ ((s.forward e).ctx e.ctx).hevt = (s.ctx e.ctx).hevt ++ [e] := by
  obtain ⟨vs, hvs⟩ := state_raiseVf_ctx (s.setCtx e.ctx { s.ctx e.ctx with hevt := (s.ctx e.ctx).hevt ++ [e] }) e.ctx 63
  simp only [State.forward, if_pos h, state_raiseVf_cluster, state_setCtx_get_cluster, hvs, state_setCtx_same, and_self]

/-- Where 64 events wait, the event waits in its unit's slot once more. -/
theorem forward_full (s : State) (e : EventMsg) (h : 64 ≤ (s.ctx e.ctx).hevt.length) (hin : s.isOut e.ctx = false) (hev : (s.unit e.party).event = some e) :
    s.forward e = s.setUnit e.party { s.unit e.party with posted := false } := by
  simp only [State.forward, if_neg (Nat.not_lt.2 h), State.unpost, hin, hev, if_pos, Bool.false_eq_true, if_false]

/-! ## Notes (R88) -/

/-- A note stands last in its cluster's inbox. -/
theorem note_posted (s : State) (cluster ctx unit : Nat) (code : EvCode) (addr : Word) :
    ∃ e, ((s.note cluster ctx unit code addr).cluster cluster).svc = (s.cluster cluster).svc ++ [e] ∧ e.code = code ∧ e.note = true ∧ e.ctx = ctx :=
  ⟨_, congrArg Cluster.svc (state_setCluster_same _ _ _), rfl, rfl, rfl⟩

/-! ## Events that the cube itself raises in a unit (R31, R87, R138) -/

/-- A unit stops on an event; what stands between `s` and the stop leaves its PC and x registers and every other unit alone. -/
theorem takeEventOf_stops {s t : State} {key : Nat} (code : EvCode) (addr : Word) (lane : Nat) (aux : BitVec 10)
    (hpc : (t.unit key).pc = (s.unit key).pc) (hx : ∀ r, (t.unit key).readX r = (s.unit key).readX r) (hothers : ∀ k, k ≠ key → t.unit k = s.unit k) :
    UnitStops s (t.takeEventOf key code addr lane aux) key code addr := by
  refine ⟨?_, ⟨t.eventMsg key code addr lane aux, ?_, rfl, rfl, rfl⟩, ?_, fun r => ?_, fun k hk => ?_⟩
  · rw [state_takeEventOf_unit]
  · rw [state_takeEventOf_unit]
  · rw [state_takeEventOf_unit]; exact hpc
  · rw [state_takeEventOf_unit]; exact hx r
  · rw [state_takeEventOf_other _ _ _ _ _ hk]; exact hothers k hk

/-- Noting a fetch changes the fetching unit's record of the instruction only. -/
theorem noteFetch_unit (s : State) (key : Nat) (f : Fetched) :
    ∃ ir len stop, (s.noteFetch key f).unit key = { s.unit key with ir := ir, irLen := len, fetchStop := stop } := by
  match f with
  | .word w len => exact ⟨_, _, _, state_setUnit_same _ _ _⟩
  | .stop _ _ none => exact ⟨_, _, _, state_setUnit_same _ _ _⟩
  | .stop _ _ (some h) => exact ⟨_, _, _, state_setUnit_same _ _ _⟩

theorem noteFetch_other (s : State) {key k : Nat} (f : Fetched) (h : k ≠ key) : (s.noteFetch key f).unit k = s.unit k := by
  match f with
  | .word w len => exact state_setUnit_other _ _ h
  | .stop _ _ none => exact state_setUnit_other s _ h
  | .stop _ _ (some h') => exact state_setUnit_other s _ h

/-! ## Withdrawing a request, releasing a record, ending a work (R20, R91, R133, R163) -/

/-- The units and this cube's network are as before. -/
structure LeavesUnits (s t : State) : Prop where
  units : t.units = s.units
  inner : t.inner = s.inner

theorem LeavesUnits.refl (s : State) : LeavesUnits s s := ⟨rfl, rfl⟩
theorem LeavesUnits.trans {s t u : State} (h : LeavesUnits s t) (h' : LeavesUnits t u) : LeavesUnits s u :=
  ⟨h'.units.trans h.units, h'.inner.trans h.inner⟩

theorem leavesUnits_ite {s t u : State} {c : Prop} [Decidable c] (ht : LeavesUnits s t) (hu : LeavesUnits s u) : LeavesUnits s (if c then t else u) := by
  split
  · exact ht
  · exact hu

theorem state_put_leavesUnits {s t : State} {ctx : Nat} {l : Loc} {bs : List Byte} {tag : BitVec 16} (h : s.put ctx l bs tag = some t) :
    LeavesUnits s t := by
  unfold State.put at h
  split at h
  · cases h; exact ⟨rfl, rfl⟩
  · split at h
    · split at h
      · cases h; exact ⟨rfl, rfl⟩
      · dsimp only at h
        split at h
        · cases h
        · cases h; exact ⟨rfl, rfl⟩
    · cases h; exact ⟨rfl, rfl⟩

theorem state_stampWrite_leavesUnits (s : State) (made : Bool) (pts ctx : Nat) (l : Loc) (tag : BitVec 16) :
    LeavesUnits s (s.stampWrite made pts ctx l tag).2 := by
  unfold State.stampWrite; split <;> exact ⟨rfl, rfl⟩

/-- Of the units only the withdrawing one changes, and nothing enters this cube's network: the request to another cube goes there. -/
theorem state_withdrawWaiter_leavesUnits (s : State) (key : Nat) : LeavesUnits (s.setUnit key { s.unit key with wwait := none }) (s.withdrawWaiter key) := by
  unfold State.withdrawWaiter
  dsimp only
  split
  · exact .refl _
  · split
    · split
      · exact .refl _
      · split
        · exact (state_put_leavesUnits ‹_›).trans (state_stampWrite_leavesUnits ..)
        · exact .refl _
    · exact leavesUnits_ite (.refl _) ⟨state_post_units _ _, state_post_inner_of_far _ ‹¬ _ = s.cubeNum›⟩

theorem state_withdrawWaiter_unit (s : State) (key : Nat) : (s.withdrawWaiter key).unit key = { s.unit key with wwait := none } := by
  rw [State.unit, (state_withdrawWaiter_leavesUnits s key).units]
  exact state_setUnit_same _ _ _

theorem state_withdraw_unit (s : State) (key : Nat) : (s.withdraw key).unit key = { s.unit key with wwait := none, wait := none } := by
  have unit : ((s.withdrawWaiter key).setUnit key { (s.withdrawWaiter key).unit key with wait := none }).unit key =
      { s.unit key with wwait := none, wait := none } := by
    rw [state_setUnit_same, state_withdrawWaiter_unit]
  unfold State.withdraw
  dsimp only
  split
  · split
    · exact unit
    · exact unit
  · exact unit

@[simp] theorem state_release_units (s : State) (ctx : Nat) (u : Strand) (pass : Bool) : (s.release ctx u pass).units = s.units := by
  unfold State.release; split <;> rfl

/-- The work of a task strand ends: the strand is at rest; a HALT that was asked of it stays. -/
theorem terminate_unit {s : State} {key : Nat} (hspindle : isSpindle key = false) (hmsg : isMsgStrand key = false) :
    atRest ((s.terminate key).unit key) ∧ ((s.terminate key).unit key).haltReq = (s.unit key).haltReq := by
  have released : ((s.withdraw key).release (s.ctxOf key) ((s.withdraw key).unit key) false).unit key = { s.unit key with wwait := none, wait := none } := by
    rw [State.unit, state_release_units]
    exact state_withdraw_unit s key
  have vacated : (s.terminate key).unit key = ({ s.unit key with wwait := none, wait := none } : Strand).vacate := by
    unfold State.terminate
    simp only [hspindle, hmsg, Bool.false_eq_true, if_false, released]
    split
    · exact state_setUnit_same _ _ _
    · exact state_setUnit_same _ _ _
  rw [vacated]
  exact ⟨⟨rfl, rfl, rfl, rfl, rfl, rfl, rfl⟩, rfl⟩

theorem bits_low_two (v : Nat) : bits v 1 0 = v % 4 := by simp [bits]

theorem getLsbD_two_false {w : Word} (h : w.toNat / 4 % 2 = 0) : w.getLsbD 2 = false := by
  rw [BitVec.getLsbD, Nat.testBit_eq_decide_div_mod_eq, decide_eq_false_iff_not]
  omega

/-! ## A reply at the stopped unit (R91) -/

/-- Retry: the unit goes on at the instruction. -/
theorem applyReply_retry {s : State} {key : Nat} {w0 w1 : Word} (hact : bits w0.toNat 1 0 = 0) (hhalt : (s.unit key).haltReq = false) :
    (s.applyReply key w0 w1).inner = s.inner ∧ ((s.applyReply key w0 w1).unit key).st = .run ∧ ((s.applyReply key w0 w1).unit key).event = none ∧
      ((s.applyReply key w0 w1).unit key).pc = (s.unit key).pc := by
  simp only [State.applyReply, hact, if_true]
  split
  case h_1 e _ => by_cases hc : e.code = .hoverrun <;> simp [hc, hhalt]
  case h_2 => simp [hhalt]

/-- Skip without a value: the unit goes on after the instruction. -/
theorem applyReply_skip {s : State} {key : Nat} {w0 w1 : Word} (hact : bits w0.toNat 1 0 = 1) (hwrd : w0.getLsbD 2 = false)
    (hlen : (s.unit key).irLen ≠ 0) (hhalt : (s.unit key).haltReq = false) :
    (s.applyReply key w0 w1).inner = s.inner ∧ ((s.applyReply key w0 w1).unit key).st = .run ∧
      ((s.applyReply key w0 w1).unit key).pc = pcValue key ((s.unit key).pc + BitVec.ofNat 64 (s.unit key).irLen) := by
  simp only [State.applyReply, hact, hwrd, hlen, hhalt, Nat.one_ne_zero, if_false, if_true, Bool.false_eq_true, state_setUnit_same]
  exact ⟨(state_withdrawWaiter_leavesUnits s key).inner, trivial, trivial⟩

/-- Terminate: the strand's work ends. -/
theorem applyReply_terminate {s : State} {key : Nat} {w0 w1 : Word} (hact : bits w0.toNat 1 0 = 2) (hspindle : isSpindle key = false)
    (hmsg : isMsgStrand key = false) (hhalt : (s.unit key).haltReq = false) : atRest ((s.applyReply key w0 w1).unit key) := by
  obtain ⟨hrest, hkept⟩ := terminate_unit (s := s) hspindle hmsg
  simp only [State.applyReply, hact, Nat.reduceEqDiff, if_false, hkept, hhalt, Bool.false_eq_true]
  exact hrest

/-- The packets that EVENT_REPLY takes: replies to the units of a core. -/
def isReplyTo (core : Nat) (p : Packet) : Bool := decide (p.kind = .builtin) && decide (p.hcls = 8) && (match unitKeyOf p.dunit with
  | some x => !isService x && decide (coreOf x = core)
  | none => false)

end Sys2Proof.Machine

namespace Sys2Proof.Proofs
open Sys2Proof Sys2Proof.Machine Sys2Proof.Stated Host

/-! ## The steps of EventSteps -/

/-- EVENT_MESSAGE with room in the inbox, and in HEVT where the event is to be forwarded. -/
theorem eventMessage_next {s : State} {e : EventMsg} {key : Nat} (hkey : key = unitKey s.inp.core s.inp.slot) (hev : (s.unit key).event = some e)
    (hst : (s.unit key).st = .stopped) (hposted : (s.unit key).posted = false) (hroom : (s.cluster (clusterOf key)).svc.length < 256)
    (hhevt : e.code ≠ .xmiss → e.code ≠ .plypool → (s.ctx e.ctx).policy e.code = 3 → (s.ctx e.ctx).hevt.length < 64) :
    exec .eventMessage s = .next ((s.setCluster (clusterOf key) { s.cluster (clusterOf key) with svc := (s.cluster (clusterOf key)).svc ++ [e] }).setUnit key
      { s.unit key with posted := true }) := by
  subst hkey
  have notFull : (s.ctx e.ctx).hevtFull e.code = false := by
    refine Bool.eq_false_iff.2 fun hfull => ?_
    simp only [Ctx.hevtFull, Bool.and_eq_true, decide_eq_true_eq] at hfull
    obtain ⟨⟨⟨hx, hp⟩, h3⟩, hlen⟩ := hfull
    exact Nat.not_le.2 (hhevt hx hp h3) hlen
  show execEventMessage s = _
  simp only [execEventMessage, hev, hst, hposted, notFull, serviceRoom, hroom, Bool.not_false, and_self, if_true]

/-- EVENT_POLICY_REPLY of an event that is current, no note and not PLYPOOL. -/
theorem eventPolicyReply_next {s : State} {e : EventMsg} {rest : List EventMsg} (hboot : s.plat.boot ≠ .failed)
    (htake : takeEvent (fun e => e.note || decide (e.code ≠ .xmiss)) (s.cluster s.inp.part).svc = some (e, rest))
    (hgen : e.gen = (s.ctx e.ctx).gen) (hcode : e.code ≠ .plypool) (hnote : e.note = false) :
    exec .eventPolicyReply s =
      .next ((s.setCluster s.inp.part { s.cluster s.inp.part with svc := rest }).answer e ((s.ctx e.ctx).policy e.code)) := by
  show execEventPolicyReply s = _
  simp only [execEventPolicyReply, if_neg hboot, htake, hgen, hcode, hnote, ne_eq, not_true_eq_false, if_false, Bool.false_eq_true]

/-- TLB_MISS_WALK of a current XMISS: to its shard's service core, or, where an entry is found, into the stopped core's TLB, with a retry. -/
theorem tlbMissWalk_next {s : State} {e : EventMsg} {rest : List EventMsg} (hboot : s.plat.boot ≠ .failed)
    (htake : takeEvent (fun e => !e.note && decide (e.code = .xmiss)) (s.cluster s.inp.part).svc = some (e, rest)) (hgen : e.gen = (s.ctx e.ctx).gen) :
    let s1 := s.setCluster s.inp.part { s.cluster s.inp.part with svc := rest }
    let shard := (s.ctx e.ctx).shard e.addr
    (shard ≠ s.inp.part → exec .tlbMissWalk s = .next (s1.setCluster shard { s1.cluster shard with svc := (s1.cluster shard).svc ++ [e] })) ∧
    (∀ p, shard = s.inp.part → s1.walk e.ctx e.addr = some p → exec .tlbMissWalk s = .next (s1.fillTlb e s.inp.index p)) := by
  refine ⟨fun hshard => ?_, fun p hshard hwalk => ?_⟩
  · show execTlbMissWalk s = _
    simp only [execTlbMissWalk, if_neg hboot, htake, hgen, ne_eq, not_true_eq_false, if_false, if_pos (Ne.symm hshard)]
  · show execTlbMissWalk s = _
    simp only [execTlbMissWalk, if_neg hboot, htake, hgen, hshard, ne_eq, not_true_eq_false, if_false, hwalk]

/-- EVENT_REPLY of a reply that matches the event of a strand which is in. -/
theorem eventReply_next {s : State} {p : Packet} {rest : List Packet} {k : Nat} {e : EventMsg} (htake : takePacket (isReplyTo s.inp.core) s.inner = some (p, rest))
    (hkey : replyKey p.dunit (wordAt p.payload 0) = some k) (hspindle : isSpindle k = false) (hin : (s.ctx p.ctx).state ≠ .out)
    (hpart : s.inPartition p.ctx (coreOf k) = true) (hst : (s.unit k).st = .stopped) (hev : (s.unit k).event = some e)
    (hgen : bits (wordAt p.payload 0).toNat 31 24 = (s.ctx p.ctx).gen.toNat) (hcode : bits (wordAt p.payload 0).toNat 23 16 = e.code.num) :
    exec .eventReply s = .next (({ s with inner := rest } : State).applyReply k (wordAt p.payload 0) (wordAt p.payload 1)) := by
  have answers : (s.unit k).answers (s.ctx p.ctx).gen (isSpindle k) (wordAt p.payload 0) = true := by
    simp [Strand.answers, hst, hspindle, hgen, hev, hcode]
  have takes : (({ s with inner := rest } : State)).takeReply p.ctx p.dunit (wordAt p.payload 0) (wordAt p.payload 1) =
      (({ s with inner := rest } : State)).applyReply k (wordAt p.payload 0) (wordAt p.payload 1) := by
    simp only [State.takeReply, hkey]
    rw [if_neg (show ¬ (({ s with inner := rest } : State).ctx p.ctx).state = .out from hin), if_pos]
    exact Bool.and_eq_true_iff.2 ⟨hpart, answers⟩
  show Outcome.next (match takePacket (isReplyTo s.inp.core) s.inner with
    | some (p, rest) => ({ s with inner := rest } : State).takeReply p.ctx p.dunit (wordAt p.payload 0) (wordAt p.payload 1)
    | none => s) = _
  rw [htake, ← takes]

/-- HOVERRUN of a handler that has used up its budget, between two instructions. -/
theorem hoverrun_next {s : State} (hst : (s.unit (unitKey s.inp.core 0)).st = .run) (hhalted : (s.unit (unitKey s.inp.core 0)).halted = false)
    (hremote : (s.unit (unitKey s.inp.core 0)).remote = none) (hvec : (s.unit (unitKey s.inp.core 0)).vec = none)
    (hbudget : s.overBudget (unitKey s.inp.core 0) = true) :
    exec .hoverrun s =
      .next ((s.noteFetch (unitKey s.inp.core 0) (s.fetch (unitKey s.inp.core 0))).takeEventOf (unitKey s.inp.core 0) .hoverrun 0 0 0) := by
  show execHoverrun s = _
  simp only [execHoverrun, hst, hhalted, hremote, hvec, hbudget, Option.isNone_none, Bool.not_false, and_self, if_true]

/-- PLYPOOL_TIMEOUT of an access that has held issue for 4,096 cc. -/
theorem plypoolTimeout_next {s : State} {va : Word} {lane since till : Nat}
    (hhold : (s.unit (unitKey s.inp.core s.inp.slot)).hold = some ⟨.plyPool va lane, since, till⟩)
    (hst : (s.unit (unitKey s.inp.core s.inp.slot)).st = .run) (hhalted : (s.unit (unitKey s.inp.core s.inp.slot)).halted = false)
    (hlong : 4096 ≤ s.cycle - since) :
    exec .plypoolTimeout s = .next (s.takeEventOf (unitKey s.inp.core s.inp.slot) .plypool va lane 0) := by
  show execPlypoolTimeout s = _
  simp only [execPlypoolTimeout, hhold, hst, hhalted, hlong, Bool.not_false, and_self, if_true]

/-- PLYPOOL_NOTE of an engine line that has waited for 4,096 cc. -/
theorem plypoolNote_next {s : State} {o : Op} {since : Nat} (hflag : s.inp.flag = false) (hop : s.ops[s.inp.index]? = some o)
    (hstuck : o.stuck = some since) (hlong : 4096 ≤ s.cycle - since) :
    exec .plypoolNote s = .next ((s.setOp s.inp.index { o with stuck := some s.cycle }).note (clusterOf o.party) o.ctx o.engineUnit .plypool 0) := by
  show execPlypoolNote s = _
  simp only [execPlypoolNote, hflag, hop, hstuck, hlong, if_true, Bool.false_eq_true, if_false]

/-- Settles O47: each step's outcome is known from its hypotheses, and the laws above say what it holds. -/
theorem eventSteps : Obligations.EventSteps := by
  intro s
  refine ⟨?message, ?policy, ?shard, ?walk, ?reply, ?hoverrun, ?timeout, ?note⟩
  case message =>
    intro e hev hst hposted hroom hhevt
    refine ⟨_, eventMessage_next rfl hev hst hposted hroom hhevt, ?_, state_setUnit_same _ _ _⟩
    rw [state_setUnit_get_cluster, state_setCluster_same]
  case policy =>
    intro e rest hboot htake hgen hcode hnote
    have next := eventPolicyReply_next hboot htake hgen hcode hnote
    refine ⟨fun hpolicy => ?_, fun hpolicy hroom => ?_, fun hpolicy hfull hin hev => ?_⟩
    · rw [answer_eq_reply _ _ hpolicy] at next
      refine ⟨_, next, ?_, reply_posted ((SendsAlike.refl s).setCluster _ _) _ _ _ _⟩
      rw [state_reply_cluster, state_setCluster_same]
    · rw [hpolicy, answer_three] at next
      obtain ⟨hcluster, hhevt⟩ := forward_queued (s.setCluster s.inp.part { s.cluster s.inp.part with svc := rest }) e hroom s.inp.part
      exact ⟨_, next, by rw [hcluster, state_setCluster_same], hhevt⟩
    · rw [hpolicy, answer_three, forward_full (s.setCluster s.inp.part { s.cluster s.inp.part with svc := rest }) e hfull hin hev] at next
      refine ⟨_, next, ?_, state_setUnit_same _ _ _, rfl⟩
      rw [state_setUnit_get_cluster, state_setCluster_same]
  case shard =>
    intro e rest hboot htake hgen hshard
    refine ⟨_, (tlbMissWalk_next hboot htake hgen).1 hshard, ?_, ?_⟩
    · rw [state_setCluster_other _ _ hshard.symm, state_setCluster_same]
    · rw [state_setCluster_same, state_setCluster_other _ _ hshard]
  case walk =>
    intro e rest p hboot htake hgen hshard hwalk
    exact ⟨_, (tlbMissWalk_next hboot htake hgen).2 p hshard hwalk, fillTlb_tlb .., fillTlb_posted ((SendsAlike.refl s).setCluster _ _) _ _ _⟩
  case reply =>
    intro p rest k e w v htake hkey hspindle hin hpart hst hev hhalt hgen hcode
    have next := eventReply_next htake hkey hspindle hin hpart hst hev hgen hcode
    refine ⟨fun hact => ?_, fun hact hwrd hlen => ?_, fun hact hmsg => ?_⟩
    · exact ⟨_, next, applyReply_retry (by rw [bits_low_two, hact]) hhalt⟩
    · exact ⟨_, next, applyReply_skip (by rw [bits_low_two, hact]) (getLsbD_two_false hwrd) hlen hhalt⟩
    · exact ⟨_, next, applyReply_terminate (by rw [bits_low_two, hact]) hspindle hmsg hhalt⟩
  case hoverrun =>
    intro z hst hhalted hremote hvec hbudget
    obtain ⟨ir, len, stop, hunit⟩ := noteFetch_unit s z (s.fetch z)
    exact ⟨_, hoverrun_next hst hhalted hremote hvec hbudget,
      takeEventOf_stops _ _ _ _ (by rw [hunit]) (fun r => by rw [hunit]; rfl) fun k hk => noteFetch_other s _ hk⟩
  case timeout =>
    intro va lane since till hhold hst hhalted hlong
    exact ⟨_, plypoolTimeout_next hhold hst hhalted hlong, takeEventOf_stops _ _ _ _ rfl (fun _ => rfl) fun _ _ => rfl⟩
  case note =>
    intro o since hflag hop hstuck hlong
    obtain ⟨e, hsvc, hcode, hnote, hctx⟩ := note_posted (s.setOp s.inp.index { o with stuck := some s.cycle }) (clusterOf o.party) o.ctx o.engineUnit .plypool 0
    exact ⟨_, e, plypoolNote_next hflag hop hstuck hlong, hsvc, hcode, hnote, hctx⟩

end Sys2Proof.Proofs
end

section
namespace Sys2Proof.Machine
open Sys2Proof Sys2Proof.Stated Host

/-! ## What leaves the contexts, the units and the cores' parameters alone (R24, R27) -/

/-- What a launch sets in a core: P, S, BLKTMO and HBUDGET. -/
def Core.params (q : Core) : Nat × Nat × Nat × Nat := (q.poolSize, q.spillSize, q.blktmo, q.hbudget)

/-- The contexts, the units, die management's packets and the cores' parameters are as before. -/
structure KeepsContexts (s t : State) : Prop where
  ctxs : t.ctxs = s.ctxs
  units : t.units = s.units
  mgmt : t.mgmt = s.mgmt
  params : ∀ c, (t.core c).params = (s.core c).params

theorem KeepsContexts.refl (s : State) : KeepsContexts s s := ⟨rfl, rfl, rfl, fun _ => rfl⟩

theorem KeepsContexts.trans {s t u : State} (h : KeepsContexts s t) (h' : KeepsContexts t u) : KeepsContexts s u :=
  ⟨h'.ctxs.trans h.ctxs, h'.units.trans h.units, h'.mgmt.trans h.mgmt, fun c => (h'.params c).trans (h.params c)⟩

theorem KeepsContexts.ctx {s t : State} (h : KeepsContexts s t) (c : Nat) : t.ctx c = s.ctx c := by simp [State.ctx, h.ctxs]

theorem KeepsContexts.foldl {α : Type} {f : State → α → State} (h : ∀ s a, KeepsContexts s (f s a)) (l : List α) (s : State) : KeepsContexts s (l.foldl f s) := by
  induction l generalizing s with
  | nil => exact .refl s
  | cons a l ih => exact (h s a).trans (ih (f s a))

theorem state_setCore_keepsContexts {s : State} {c : Nat} {q : Core} (h : q.params = (s.core c).params) : KeepsContexts s (s.setCore c q) := by
  refine ⟨rfl, rfl, rfl, fun d => ?_⟩
  by_cases hd : d = c
  · rw [hd, state_setCore_same, h]
  · rw [state_setCore_other _ _ hd]

theorem state_post_keepsContexts (s : State) (p : Packet) : KeepsContexts s (s.post p) :=
  ⟨state_post_ctxs .., state_post_units .., state_post_mgmt .., fun _ => congrArg Core.params (state_post_core ..)⟩

theorem state_completionWrite_keepsContexts (s : State) (key : Nat) (w : Word) : KeepsContexts s (s.completionWrite key w) := by
  unfold State.completionWrite
  dsimp only
  split
  · exact ⟨rfl, rfl, rfl, fun _ => rfl⟩
  · exact ⟨rfl, rfl, rfl, fun _ => rfl⟩

theorem state_writeDone_keepsContexts (s : State) (ctx : Nat) (ws : List Word) (status : Nat) : KeepsContexts s (s.writeDone ctx ws status) := by
  unfold State.writeDone
  dsimp only
  split
  · exact .refl s
  · split
    · exact state_completionWrite_keepsContexts ..
    · exact state_post_keepsContexts ..
    · exact .refl s

theorem state_ackEngagement_keepsContexts (s : State) (ctx cube status n : Nat) : KeepsContexts s (s.ackEngagement ctx cube status n) := by
  unfold State.ackEngagement
  split
  · exact .refl s
  · exact .foldl (fun _ _ => state_post_keepsContexts ..) _ s

theorem state_ackEngagers_keepsContexts (s : State) (ctx : Nat) (cubes : List Nat) (status : Nat) : KeepsContexts s (s.ackEngagers ctx cubes status) :=
  .foldl (fun _ _ => state_ackEngagement_keepsContexts ..) _ s

theorem state_clearCaches_keepsContexts (s : State) (ctx : Nat) : KeepsContexts s (s.clearCaches ctx) :=
  .foldl (fun t c => state_setCore_keepsContexts (q := { t.core c with icache := [] }) rfl) _ s

/-! ## Placing records (R16, R25) -/

theorem state_putBase_keepsContexts (s : State) (key : Nat) (bs : List Byte) : KeepsContexts s (s.putBase key bs) := ⟨rfl, rfl, rfl, fun _ => rfl⟩

/-- A number of the model's that is given out changes none of these. -/
theorem KeepsContexts.fresh {s t : State} (h : KeepsContexts s t) (n : Nat) : KeepsContexts s { t with fresh := n } := ⟨h.ctxs, h.units, h.mgmt, h.params⟩

theorem state_setSlot_keepsContexts (s : State) (core slot : Nat) (e : Option Slot) : KeepsContexts s (s.setSlot core slot e) :=
  state_setCore_keepsContexts rfl

theorem state_linkSlot_keepsContexts (s : State) (core slot : Nat) : KeepsContexts s (s.linkSlot core slot) :=
  (state_putBase_keepsContexts ..).fresh _

theorem state_writeRecord_keepsContexts (s : State) (core slot : Nat) (ws : List Word) (count : Nat) : KeepsContexts s (s.writeRecord core slot ws count) := by
  unfold State.writeRecord
  dsimp only
  exact (state_putBase_keepsContexts s _ _).trans (state_putBase_keepsContexts _ _ _)

theorem state_enqueueAt_keepsContexts (s : State) (core slot prio : Nat) : KeepsContexts s (s.enqueueAt core slot prio) := by
  unfold State.enqueueAt
  dsimp only
  have listed := state_setCore_keepsContexts (s := s) (c := core) (q := { s.core core with
    runq := Tab.write [] (s.core core).runq prio (Tab.read [] (s.core core).runq prio ++ [⟨slot, wordAt (s.record core slot) 1, s.cycle, false, none⟩]) }) rfl
  split
  · exact listed
  · exact (listed.trans (.foldl (fun _ _ => state_linkSlot_keepsContexts ..) _ _)).trans (state_linkSlot_keepsContexts ..)

theorem state_makeRecord_keepsContexts (s : State) (core slot : Nat) (ws : List Word) (count : Nat) (park : Park) :
    KeepsContexts s (s.makeRecord core slot ws count park) := by
  have held := (state_writeRecord_keepsContexts s core slot ws count).trans (state_setSlot_keepsContexts _ core slot
    (some { park := park, seq := s.fresh, worker := none, held := none, recfree := false, heldSid := 0, heldSince := 0 }))
  unfold State.makeRecord
  extract_lets written made numbered
  split
  · exact (held.fresh _).trans (state_enqueueAt_keepsContexts ..)
  · exact held.fresh _

theorem state_placeRecord_keepsContexts (s : State) (core : Nat) (ws : List Word) : KeepsContexts s (s.placeRecord core ws) := by
  unfold State.placeRecord
  split
  · exact state_makeRecord_keepsContexts ..
  · exact .refl s

theorem state_submitGang_keepsContexts (s : State) (die : Nat) (g : Gang) : KeepsContexts s (s.submitGang die g) := ⟨rfl, rfl, rfl, fun _ => rfl⟩

/-! ## Set-up (R27) -/

/-- A core with a launch's parameters, its instruction cache empty. -/
def Core.launched (q : Core) (ws : List Word) : Core :=
  { q with poolSize := orDefault (launchPool ws) 1024, spillSize := orDefault (launchSpill ws) 16, blktmo := orDefault (launchBlk ws) 65536,
           hbudget := orDefault (launchBudget ws) 200000, icache := [] }

def State.launchCores (s : State) (ws : List Word) (cores : List Nat) : State := cores.foldl (fun t c => t.setCore c ((t.core c).launched ws)) s

/-- The parameters that a launch record gives. -/
def launchParams (ws : List Word) : Nat × Nat × Nat × Nat :=
  (orDefault (launchPool ws) 1024, orDefault (launchSpill ws) 16, orDefault (launchBlk ws) 65536, orDefault (launchBudget ws) 200000)

theorem launchCores_frame (s : State) (ws : List Word) (cores : List Nat) : { s.launchCores ws cores with cores := s.cores } = s := by
  induction cores generalizing s with
  | nil => rfl
  | cons c cores ih => exact congrArg (fun t : State => { t with cores := s.cores }) (ih (s.setCore c ((s.core c).launched ws)))

/-- A core that has the parameters keeps them while others are set. -/
theorem launchCores_params_of_params {s : State} {ws : List Word} {c : Nat} (cores : List Nat) (h : (s.core c).params = launchParams ws) :
    ((s.launchCores ws cores).core c).params = launchParams ws := by
  induction cores generalizing s with
  | nil => exact h
  | cons d cores ih =>
    refine ih ?_
    by_cases hd : c = d
    · rw [hd, state_setCore_same]; rfl
    · rw [state_setCore_other _ _ hd, h]

theorem launchCores_params {s : State} {ws : List Word} {c : Nat} {cores : List Nat} (h : c ∈ cores) :
    ((s.launchCores ws cores).core c).params = launchParams ws := by
  induction cores generalizing s with
  | nil => cases h
  | cons d cores ih =>
    rcases List.mem_cons.1 h with rfl | h
    · exact launchCores_params_of_params cores (by rw [state_setCore_same]; rfl)
    · exact ih h

/-- What set-up leaves in the context of a launch: it runs, and its launch and its engagers are as before. -/
theorem setUp_ctx (s : State) (ctx : Nat) (ws : List Word) (tab : Option (List Word)) (skeins : List Skein) (recs : List (Nat × List Word)) :
    ∃ htab sks, KeepsContexts ((s.launchCores ws (s.coresOf ctx)).setCtx ctx
      { (s.launchCores ws (s.coresOf ctx)).ctx ctx with htab := htab, skeins := sks, state := .running }) (s.setUp ctx ws tab skeins recs) := by
  unfold State.setUp
  dsimp only
  split
  · refine ⟨_, _, .foldl (fun t d => ?_) _ _⟩
    split
    · exact .refl t
    · exact state_submitGang_keepsContexts ..
  · exact ⟨_, _, .foldl (fun _ _ => state_placeRecord_keepsContexts ..) _ _⟩

/-- What set-up does: the context runs with the launch and the engagers that it had, and every core of the partition has the record's parameters. -/
structure SetsUp (s t : State) (ctx : Nat) (ws : List Word) : Prop where
  mgmt : t.mgmt = s.mgmt
  state : (t.ctx ctx).state = .running
  launch : (t.ctx ctx).launch = (s.ctx ctx).launch
  engagers : (t.ctx ctx).engagers = (s.ctx ctx).engagers
  params : ∀ c ∈ s.coresOf ctx, (t.core c).params = launchParams ws

theorem setUp_setsUp (s : State) (ctx : Nat) (ws : List Word) (tab : Option (List Word)) (skeins : List Skein) (recs : List (Nat × List Word)) :
    SetsUp s (s.setUp ctx ws tab skeins recs) ctx ws := by
  obtain ⟨htab, sks, keeps⟩ := setUp_ctx s ctx ws tab skeins recs
  have same : (s.launchCores ws (s.coresOf ctx)).ctx ctx = s.ctx ctx := (congrArg (State.ctx · ctx) (launchCores_frame s ws (s.coresOf ctx)) :)
  have ctxNow := (keeps.ctx ctx).trans (state_setCtx_same _ _ _)
  rw [same] at ctxNow
  refine ⟨keeps.mgmt.trans (congrArg State.mgmt (launchCores_frame s ws (s.coresOf ctx)) :), ?_, ?_, ?_, fun c hc => ?_⟩
  · rw [ctxNow]
  · rw [ctxNow]
  · rw [ctxNow]
  · exact (keeps.params c).trans (launchCores_params hc)

/-! ## Launch starts to the other cubes (R27) -/

/-- `l'` is `l` after engagements of these cubes, settled or not, have been added. -/
structure Launch.Engages (l l' : Launch) (more : List Nat) : Prop where
  words : l'.words = l.words
  root : l'.root = l.root
  cubes : l'.cubes = l.cubes
  position : l'.position = l.position
  sent : l'.sent.map (·.cube) = l.sent.map (·.cube) ++ more

/-- A start to one cube: one more engagement in the context's launch, and nothing else of the context or the cores. -/
theorem startOn_engages {s : State} {ctx : Nat} {l : Launch} (h : (s.ctx ctx).launch = some l) (ws : List Word) (conf : Bool) (cube : Nat) :
    ∃ l', (s.startOn ctx ws conf cube).ctx ctx = { s.ctx ctx with launch := some l' } ∧ l.Engages l' [cube] ∧
      ∀ c, (s.startOn ctx ws conf cube).core c = s.core c := by
  unfold State.startOn
  simp only [h]
  split
  · exact ⟨_, state_setCtx_same .., ⟨rfl, rfl, rfl, rfl, List.map_append⟩, fun _ => rfl⟩
  · exact ⟨_, (state_post_ctx ..).trans (state_setCtx_same ..), ⟨rfl, rfl, rfl, rfl, List.map_append⟩, fun _ => state_post_core ..⟩

theorem startOns_engages (ws : List Word) (conf : Bool) (ctx : Nat) (cubes : List Nat) {s : State} {l : Launch} (h : (s.ctx ctx).launch = some l) :
    ∃ l', (cubes.foldl (fun t c => t.startOn ctx ws conf c) s).ctx ctx = { s.ctx ctx with launch := some l' } ∧ l.Engages l' cubes ∧
      ∀ c, (cubes.foldl (fun t c => t.startOn ctx ws conf c) s).core c = s.core c := by
  induction cubes generalizing s l with
  | nil => exact ⟨l, by rw [← h]; rfl, ⟨rfl, rfl, rfl, rfl, (List.append_nil _).symm⟩, fun _ => rfl⟩
  | cons cube cubes ih =>
    obtain ⟨l1, hctx1, h1, hcore1⟩ := startOn_engages h ws conf cube
    obtain ⟨l2, hctx2, h2, hcore2⟩ := ih (s := s.startOn ctx ws conf cube) (l := l1) (by rw [hctx1])
    refine ⟨l2, ?_, ⟨h2.words.trans h1.words, h2.root.trans h1.root, h2.cubes.trans h1.cubes, h2.position.trans h1.position, ?_⟩,
      fun c => (hcore2 c).trans (hcore1 c)⟩
    · exact hctx2.trans (by rw [hctx1])
    · rw [h2.sent, h1.sent, List.append_assoc]; rfl

/-! ## The window's fields that wait for a launch (R314) -/

/-- Two contexts have the same launch, STATE and counts. -/
structure Ctx.LaunchAlike (k k' : Ctx) : Prop where
  launch : k'.launch = k.launch
  state : k'.state = k.state
  counts : k'.counts = k.counts

theorem Ctx.LaunchAlike.refl (k : Ctx) : k.LaunchAlike k := ⟨rfl, rfl, rfl⟩
theorem Ctx.LaunchAlike.trans {k k' k'' : Ctx} (h : k.LaunchAlike k') (h' : k'.LaunchAlike k'') : k.LaunchAlike k'' :=
  ⟨h'.launch.trans h.launch, h'.state.trans h.state, h'.counts.trans h.counts⟩

theorem launchAlike_ite {k k' k'' : Ctx} {c : Prop} [Decidable c] (h : k.LaunchAlike k') (h' : k.LaunchAlike k'') : k.LaunchAlike (if c then k' else k'') := by
  split
  · exact h
  · exact h'

theorem ctx_setPool_launchAlike (k : Ctx) (v : Word) : k.LaunchAlike (k.setPool v) := by
  unfold Ctx.setPool; dsimp only; split <;> exact ⟨rfl, rfl, rfl⟩

/-- No field of the window is the launch, STATE or a count. -/
theorem ctx_store_launchAlike (k : Ctx) (off : Nat) (v : Word) : k.LaunchAlike (k.store off v) := by
  by_cases hpool : off = 0x038
  · subst hpool
    exact ctx_setPool_launchAlike k v
  · unfold Ctx.store
    dsimp only
    rw [if_neg hpool]
    repeat' apply launchAlike_ite
    all_goals exact ⟨rfl, rfl, rfl⟩

theorem ctx_configured_launchAlike (k : Ctx) : k.LaunchAlike k.configured := by
  have folded (l : List (Nat × Word)) (c : Ctx) : c.LaunchAlike (l.foldl (fun (c : Ctx) e => c.store e.1 e.2) c) := by
    induction l generalizing c with
    | nil => exact .refl c
    | cons e l ih => exact (ctx_store_launchAlike c e.1 e.2).trans (ih _)
  exact Ctx.LaunchAlike.trans (k' := { k with later := [] }) ⟨rfl, rfl, rfl⟩ (folded _ _)

theorem state_configured_launchAlike (s : State) (ctx : Nat) : (s.ctx ctx).LaunchAlike (s.configured ctx) :=
  (ctx_configured_launchAlike _).trans ⟨rfl, rfl, rfl⟩

/-! ## Counts, packets of die management, the end of a launch's skeins -/

theorem count_counted (s : State) (ctx : Nat) (c : Count) : Counted s (s.count ctx c) ctx c := by
  unfold Counted State.count
  rw [state_setCtx_same]
  exact tab_read_write_same 0 (Tab.read 0 (s.ctx ctx).counts c.key + 1) _ _

theorem count_ctx (s : State) (ctx : Nat) (c : Count) : ∃ counts, (s.count ctx c).ctx ctx = { s.ctx ctx with counts := counts } :=
  ⟨_, state_setCtx_same ..⟩

/-- The first packet of a weaker kind is also the first of a stronger one that it is of. -/
theorem takePacket_of_imp {P Q : Packet → Bool} (hQP : ∀ p, Q p = true → P p = true) {l rest : List Packet} {p : Packet}
    (h : takePacket P l = some (p, rest)) (hp : Q p = true) : takePacket Q l = some (p, rest) := by
  induction l generalizing rest with
  | nil => cases h
  | cons a l ih =>
    by_cases ha : P a = true
    · simp only [takePacket, ha, if_true, Option.some.injEq, Prod.mk.injEq] at h
      obtain ⟨rfl, rfl⟩ := h
      simp only [takePacket, hp, if_true]
    · have hqa : Q a = false := Bool.eq_false_iff.2 fun hq => ha (hQP a hq)
      simp only [takePacket, ha, if_false, Bool.false_eq_true, Option.map_eq_some_iff, Prod.exists, Prod.mk.injEq] at h
      obtain ⟨q, r, hr, rfl, rfl⟩ := h
      simp only [takePacket, hqa, Bool.false_eq_true, if_false, ih hr, Option.map_some]

theorem discardPly_ctx (s : State) (ctx : Nat) (tag : BitVec 16) : ∃ tags, (s.discardPly ctx tag).ctx ctx = { s.ctx ctx with tags := tags } := by
  unfold State.discardPly
  split
  · exact ⟨_, rfl⟩
  · exact ⟨_, state_setCtx_same ..⟩

theorem discardPlies_ctx (ctx : Nat) (recs : List SkRec) (s : State) :
    ∃ tags, (recs.foldl (fun t r => t.discardPly ctx r.ply) s).ctx ctx = { s.ctx ctx with tags := tags } := by
  induction recs generalizing s with
  | nil => exact ⟨_, rfl⟩
  | cons r recs ih =>
    obtain ⟨tags1, h1⟩ := discardPly_ctx s ctx r.ply
    obtain ⟨tags, h⟩ := ih (s.discardPly ctx r.ply)
    exact ⟨tags, by rw [List.foldl_cons, h, h1]⟩

/-- The context's skeins end; their records' tags retire. -/
theorem endSkeins_ctx (s : State) (ctx : Nat) : ∃ tags, (s.endSkeins ctx).ctx ctx = { s.ctx ctx with skeins := [], tags := tags } := by
  obtain ⟨tags, h⟩ := discardPlies_ctx ctx ((s.ctx ctx).skeins.flatMap fun e => match e.2 with
    | some k => k.records
    | none => []) (s.setCtx ctx { s.ctx ctx with skeins := [] })
  exact ⟨tags, (by rw [state_setCtx_same] at h; exact h)⟩

end Sys2Proof.Machine
end

section
namespace Sys2Proof.Proofs
open Sys2Proof Sys2Proof.Machine Sys2Proof.Stated Host

/-! ## DOORBELL (R24, R308, R311) -/

theorem doorbell_next {s : State} (hpending : s.hostPending s.inp.ctx = false) (hheld : s.submitHeld s.inp.ctx s.inp.word0 = false) :
    exec .doorbell s = .next (s.submit s.inp.ctx s.inp.word0 0).2 := by
  show execDoorbell s = _
  simp only [execDoorbell, hpending, hheld, Bool.false_eq_true, or_self, if_false]

theorem doorbell_waits {s : State} (h : s.hostPending s.inp.ctx = true ∨ s.submitHeld s.inp.ctx s.inp.word0 = true) : exec .doorbell s = .next s := by
  show execDoorbell s = _
  simp only [execDoorbell, if_pos h]

theorem submit_queued {s : State} {ctx : Nat} {va : Word} {ws : List Word} (wid : Nat) (hstate : (s.ctx ctx).state ≠ .free) (halign : va.toNat % 64 = 0)
    (hread : s.mgmtWords ctx va 32 = some ws) (hroom : (s.ctx ctx).submissions.length < (if (s.ctx ctx).launch.isSome then 8 else 9)) :
    (s.submit ctx va wid).2 = s.setCtx ctx { s.ctx ctx with submissions := (s.ctx ctx).submissions ++ [⟨ws, wid, s.confAt ctx va⟩] } := by
  simp only [State.submit, if_neg hstate, halign, ne_eq, not_true_eq_false, if_false, hread, if_pos hroom]

theorem submit_misaligned {s : State} {ctx : Nat} {va : Word} (wid : Nat) (hstate : (s.ctx ctx).state ≠ .free) (halign : va.toNat % 64 ≠ 0) :
    (s.submit ctx va wid).2 = s.count ctx .refusedSubmission := by
  simp only [State.submit, if_neg hstate, if_pos halign]

/-! ## LAUNCH_INGESTION (R24, R27) -/

/-- The state in which a submission's record is looked at: the submission is out of the queue, and what was written in STATE 1 has taken effect. -/
def ingesting (s : State) (rest : List Submission) : State := s.setCtx s.inp.ctx { s.configured s.inp.ctx with submissions := rest }

/-- The launch that an ingested record begins. -/
def rootLaunch (ws : List Word) (cubes : List Nat) (position : Option Nat) : Launch := ⟨ws, true, cubes, position, 0, [], wordAt ws 5⟩

/-- What LAUNCH_INGESTION does with a submission whose turn it is: it is refused, fails, or is set up and started on the other cubes. -/
theorem launchIngestion_next {s : State} {sub : Submission} {rest : List Submission} (hlaunch : (s.ctx s.inp.ctx).launch = none)
    (hsub : (s.ctx s.inp.ctx).submissions = sub :: rest) (hstate : (s.ctx s.inp.ctx).state = .idle ∨ (s.ctx s.inp.ctx).state = .running)
    (hstopped : (s.ctx s.inp.ctx).stopped = false) (hboot : s.plat.boot ≠ .failed) (hheld : s.launchHeld s.inp.ctx sub.words = false) :
    let s1 := ingesting s rest
    (((wordAt sub.words 2).toNat % 8 ≠ 0 ∨ s1.mgmtPlace s.inp.ctx (wordAt sub.words 2) true = none) →
      exec .launchIngestion s = .next (s1.count s.inp.ctx .refusedSubmission)) ∧
    ∀ a, (wordAt sub.words 2).toNat % 8 = 0 → s1.mgmtPlace s.inp.ctx (wordAt sub.words 2) true = some a →
      (∀ e, s1.prepare s.inp.ctx sub.words = .error e → exec .launchIngestion s = .next (s1.writeDone s.inp.ctx sub.words e)) ∧
      ∀ cubes tab skeins position recs, s1.prepare s.inp.ctx sub.words = .ok (cubes, tab, skeins, position, recs) →
        exec .launchIngestion s = .next ((cubes.filter fun c => c != s.cubeNum).foldl (fun t c => t.startOn s.inp.ctx sub.words sub.conf c)
          ((s1.setCtx s.inp.ctx { s1.ctx s.inp.ctx with launch := some (rootLaunch sub.words cubes position) }).setUp s.inp.ctx sub.words tab skeins recs)) := by
  have begins : ¬ ((s.ctx s.inp.ctx).state = .free ∨ (s.ctx s.inp.ctx).state = .out ∨ (s.ctx s.inp.ctx).stopped = true ∨ s.plat.boot = .failed ∨
      s.launchHeld s.inp.ctx sub.words = true) := by
    rcases hstate with h | h <;> simp [h, hstopped, hboot, hheld]
  unfold ingesting
  dsimp only
  refine ⟨fun hdone => ?_, fun a halign hplace => ⟨fun e hprep => ?_, fun cubes tab skeins position recs hprep => ?_⟩⟩
  all_goals show execLaunchIngestion s = _
  · rw [← Option.isNone_iff_eq_none] at hdone
    simp only [execLaunchIngestion, hlaunch, hsub, if_neg begins, if_pos hdone]
  · simp only [execLaunchIngestion, hlaunch, hsub, if_neg begins, halign, hplace, hprep, ne_eq, not_true_eq_false, Option.isNone_some, Bool.false_eq_true, or_self,
      if_false]
  · simp only [execLaunchIngestion, hlaunch, hsub, if_neg begins, halign, hplace, hprep, ne_eq, not_true_eq_false, Option.isNone_some, Bool.false_eq_true, or_self,
      if_false, rootLaunch]

/-! ## LAUNCH_START (R27, R35, R36) -/

/-- A packet that is taken is of the kind that was looked for. -/
theorem takePacket_holds {P : Packet → Bool} {l rest : List Packet} {p : Packet} (h : takePacket P l = some (p, rest)) : P p = true := by
  induction l generalizing rest with
  | nil => cases h
  | cons a l ih =>
    by_cases ha : P a = true
    · simp only [takePacket, ha, if_true, Option.some.injEq, Prod.mk.injEq] at h
      rw [← h.1, ha]
    · simp only [takePacket, ha, if_false, Bool.false_eq_true, Option.map_eq_some_iff, Prod.exists, Prod.mk.injEq] at h
      obtain ⟨q, r, hr, rfl, -⟩ := h
      exact ih hr

/-- The launch starts that LAUNCH_START takes. -/
def startsNow (s : State) (q : Packet) : Bool :=
  decide (q.kind = .launchStart) && decide ((s.ctx q.ctx).state ≠ .out) && !(s.ctx q.ctx).stopped && !s.launchHeld q.ctx q.payload

/-- The first launch start at die management is taken where its context is in and not stopped, and nothing that it names is held. -/
theorem takePacket_startsNow {s : State} {p : Packet} {rest : List Packet} (htake : takePacket (fun q => decide (q.kind = .launchStart)) s.mgmt = some (p, rest))
    (hin : (s.ctx p.ctx).state ≠ .out) (hstopped : (s.ctx p.ctx).stopped = false) (hheld : s.launchHeld p.ctx p.payload = false) :
    takePacket (startsNow s) s.mgmt = some (p, rest) := by
  refine takePacket_of_imp (fun q hq => ?_) htake ?_
  · simp only [startsNow, Bool.and_eq_true] at hq
    obtain ⟨⟨⟨hkind, -⟩, -⟩, -⟩ := hq
    exact hkind
  · simp [startsNow, of_decide_eq_true (takePacket_holds htake), hin, hstopped, hheld]

/-- The state in which a start's record is looked at: the packet is gone, and the context is `k`. -/
def starting (s : State) (ctx : Nat) (rest : List Packet) (k : Ctx) : State := ({ s with mgmt := rest } : State).setCtx ctx k

/-- A launch that a start's record joins: of one that only messages began it becomes the record, of another one it claims queues too. -/
def joined (p : Packet) (cubes : List Nat) (position : Option Nat) (l : Launch) : Launch :=
  if l.words = [] then { l with words := p.payload, cubes := cubes, position := position, queues := wordAt p.payload 5 }
  else { l with queues := l.queues ||| wordAt p.payload 5 }

def joins (s : State) (p : Packet) (cubes : List Nat) (position : Option Nat) : State :=
  s.setCtx p.ctx { s.ctx p.ctx with launch := (s.ctx p.ctx).launch.map (joined p cubes position) }

/-- A start for a free context is answered with status 2. -/
theorem launchStart_free {s : State} {p : Packet} {rest : List Packet} (htake : takePacket (startsNow s) s.mgmt = some (p, rest)) (hboot : s.plat.boot ≠ .failed)
    (hfree : (s.ctx p.ctx).state = .free) :
    ∃ k, (s.ctx p.ctx).LaunchAlike k ∧ exec .launchStart s = .next ((starting s p.ctx rest k).ackEngagement p.ctx p.scube 2 1) := by
  refine ⟨if (s.ctx p.ctx).launch.isSome then s.ctx p.ctx else s.configured p.ctx, launchAlike_ite (.refl _) (state_configured_launchAlike ..), ?_⟩
  have free : (if (s.ctx p.ctx).launch.isSome then s.ctx p.ctx else s.configured p.ctx).state = .free :=
    (launchAlike_ite (.refl _) (state_configured_launchAlike s p.ctx)).state.trans hfree
  show execLaunchStart s = _
  unfold startsNow at htake
  simp only [execLaunchStart, htake, if_neg hboot, if_pos free, starting]

/-- A start that finds no launch here engages this cube, sets up and places what the record says. -/
theorem launchStart_engages {s : State} {p : Packet} {rest : List Packet} {cubes : List Nat} {tab : Option (List Word)} {skeins : List Skein} {position : Option Nat}
    {recs : List (Nat × List Word)} (htake : takePacket (startsNow s) s.mgmt = some (p, rest)) (hboot : s.plat.boot ≠ .failed)
    (hstate : (s.ctx p.ctx).state ≠ .free) (hlaunch : (s.ctx p.ctx).launch = none)
    (hprep : (starting s p.ctx rest (s.configured p.ctx)).prepare p.ctx p.payload = .ok (cubes, tab, skeins, position, recs)) :
    exec .launchStart s = .next ((joins ((starting s p.ctx rest (s.configured p.ctx)).beginEngaged p.ctx p.scube) p cubes position).setUp p.ctx p.payload tab skeins recs) := by
  have alike := state_configured_launchAlike s p.ctx
  have notFree : (s.configured p.ctx).state ≠ .free := by rw [alike.state]; exact hstate
  have unlaunched : (s.configured p.ctx).launch = none := alike.launch.trans hlaunch
  show execLaunchStart s = _
  unfold startsNow at htake
  unfold starting at hprep
  simp only [execLaunchStart, htake, hlaunch, Option.isSome_none, Bool.false_eq_true, if_false, if_neg hboot, if_neg notFree, hprep, unlaunched]
  rfl

/-- A start that finds a launch with a record here is counted with it, and waits for both. -/
theorem launchStart_joins {s : State} {p : Packet} {rest : List Packet} {l : Launch} {cubes : List Nat} {tab : Option (List Word)} {skeins : List Skein}
    {position : Option Nat} {recs : List (Nat × List Word)} (htake : takePacket (startsNow s) s.mgmt = some (p, rest)) (hboot : s.plat.boot ≠ .failed)
    (hstate : (s.ctx p.ctx).state ≠ .free) (hlaunch : (s.ctx p.ctx).launch = some l) (hwords : l.words ≠ [])
    (hprep : (starting s p.ctx rest (s.ctx p.ctx)).prepare p.ctx p.payload = .ok (cubes, tab, skeins, position, recs)) :
    exec .launchStart s = .next ((joins ((starting s p.ctx rest (s.ctx p.ctx)).setCtx p.ctx
      { s.ctx p.ctx with engagers := (s.ctx p.ctx).engagers ++ [p.scube] }) p cubes position).setUp p.ctx p.payload tab skeins recs) := by
  show execLaunchStart s = _
  unfold startsNow at htake
  unfold starting at hprep
  simp only [execLaunchStart, htake, hlaunch, Option.isSome_some, if_true, if_neg hboot, if_neg hstate, hprep, hwords, ne_eq, not_false_eq_true, decide_true,
    Bool.or_true]
  rfl

theorem joins_ctx (s : State) (p : Packet) (cubes : List Nat) (position : Option Nat) :
    (joins s p cubes position).ctx p.ctx = { s.ctx p.ctx with launch := (s.ctx p.ctx).launch.map (joined p cubes position) } := state_setCtx_same ..

/-- The first engaging message from another cube: a launch without a record, which that cube waits for (R35). -/
theorem beginEngaged_ctx (s : State) (ctx cube : Nat) :
    ((s.beginEngaged ctx cube).ctx ctx).launch = some engagedLaunch ∧ ((s.beginEngaged ctx cube).ctx ctx).engagers = [cube] := by
  rw [State.beginEngaged, state_setCtx_same]
  exact ⟨rfl, rfl⟩

/-! ## ENGAGEMENT_ACKNOWLEDGEMENT and LAUNCH_COMPLETION (R35) -/

theorem engagementAcknowledgement_next {s : State} {p : Packet} {rest : List Packet}
    (htake : takePacket (fun q => decide (q.kind = .engagementAck) && decide (q.ctx = s.inp.ctx)) s.mgmt = some (p, rest)) :
    exec .engagementAcknowledgement s =
      .next (({ s with mgmt := rest } : State).settleOn p.ctx p.scube ((wordAt p.payload 0).toNat % 256) (p.aux.toNat / 16 + 1)) := by
  show execEngagementAcknowledgement s = _
  simp only [execEngagementAcknowledgement, htake]

/-- The context after the last of a launch's work, its skeins ended. -/
def finished (s : State) : State :=
  (s.setCtx s.inp.ctx { s.ctx s.inp.ctx with launch := none, engagers := [], state := .idle }).endSkeins s.inp.ctx

/-- What follows the end of a launch, acknowledgements and the completion object, leaves the contexts as they are then. -/
theorem launchCompletion_next {s : State} {l : Launch} (hlaunch : (s.ctx s.inp.ctx).launch = some l) (hlive : s.live s.inp.ctx = false)
    (hin : (s.ctx s.inp.ctx).state ≠ .out) (hheld : l.root = true → s.mgmtHeld s.inp.ctx (wordAt l.words 2) = false) :
    ∃ t, exec .launchCompletion s = .next t ∧ KeepsContexts (finished s) t := by
  have completes : ¬ ((s.ctx s.inp.ctx).state = .out ∨ l.root = true ∧ s.mgmtHeld s.inp.ctx (wordAt l.words 2) = true) := by
    rintro (h | ⟨hroot, h⟩)
    · exact hin h
    · rw [hheld hroot] at h; cases h
  have acked := state_ackEngagers_keepsContexts (finished s) s.inp.ctx (s.ctx s.inp.ctx).engagers l.status
  refine ⟨if l.root then ((finished s).ackEngagers s.inp.ctx (s.ctx s.inp.ctx).engagers l.status).writeDone s.inp.ctx l.words l.status
    else (finished s).ackEngagers s.inp.ctx (s.ctx s.inp.ctx).engagers l.status, ?_, ?_⟩
  · show execLaunchCompletion s = _
    simp only [execLaunchCompletion, hlaunch, if_neg completes, hlive, Bool.false_eq_true, if_false, finished]
  · split
    · exact acked.trans (state_writeDone_keepsContexts ..)
    · exact acked

theorem finished_ctx (s : State) : ∃ tags, (finished s).ctx s.inp.ctx =
    { s.ctx s.inp.ctx with launch := none, engagers := [], state := .idle, skeins := [], tags := tags } := by
  obtain ⟨tags, h⟩ := endSkeins_ctx (s.setCtx s.inp.ctx { s.ctx s.inp.ctx with launch := none, engagers := [], state := .idle }) s.inp.ctx
  exact ⟨tags, h.trans (by rw [state_setCtx_same])⟩

/-- Settles O44: each step's outcome is known from its hypotheses; what set-up, starts, acknowledgements and completion leave alone says the rest. -/
theorem launchSteps : Obligations.LaunchSteps := by
  intro s
  refine ⟨?queued, ?waits, ?misaligned, ?ingestion, ?start, ?settled, ?completion⟩
  case queued =>
    intro ws hpending hheld hstate halign hread hroom
    exact ⟨_, doorbell_next hpending hheld, submit_queued 0 hstate halign hread hroom⟩
  case waits => exact doorbell_waits
  case misaligned =>
    intro hpending hheld hstate halign
    obtain ⟨counts, hctx⟩ := count_ctx s s.inp.ctx .refusedSubmission
    refine ⟨_, doorbell_next hpending hheld, ?_⟩
    rw [submit_misaligned 0 hstate halign]
    exact ⟨count_counted .., by rw [hctx]⟩
  case ingestion =>
    intro sub rest hlaunch hsub hstate hstopped hboot hheld
    obtain ⟨refused, goes⟩ := launchIngestion_next hlaunch hsub hstate hstopped hboot hheld
    have alike := state_configured_launchAlike s s.inp.ctx
    have ctxNow : (ingesting s rest).ctx s.inp.ctx = { s.configured s.inp.ctx with submissions := rest } := state_setCtx_same ..
    have noLaunch : ((ingesting s rest).ctx s.inp.ctx).launch = none := by rw [ctxNow]; exact alike.launch.trans hlaunch
    have subsNow : ((ingesting s rest).ctx s.inp.ctx).submissions = rest := by rw [ctxNow]
    refine ⟨fun hdone => ?_, fun a e halign hplace hprep => ?_, fun a cubes tab skeins position recs halign hplace hprep => ?_⟩
    · obtain ⟨counts, hctx⟩ := count_ctx (ingesting s rest) s.inp.ctx .refusedSubmission
      refine ⟨_, refused hdone, ?_, by rw [hctx]; exact subsNow, by rw [hctx]; exact noLaunch⟩
      have counted := count_counted (ingesting s rest) s.inp.ctx .refusedSubmission
      unfold Counted at counted ⊢
      rw [counted, ctxNow, alike.counts]
    · have keeps := state_writeDone_keepsContexts (ingesting s rest) s.inp.ctx sub.words e
      exact ⟨_, (goes a halign hplace).1 e hprep, by rw [keeps.ctx]; exact subsNow, by rw [keeps.ctx]; exact noLaunch, keeps.units, rfl⟩
    · have next := (goes a halign hplace).2 cubes tab skeins position recs hprep
      have up := setUp_setsUp ((ingesting s rest).setCtx s.inp.ctx { (ingesting s rest).ctx s.inp.ctx with launch := some (rootLaunch sub.words cubes position) })
        s.inp.ctx sub.words tab skeins recs
      obtain ⟨l, hctx, hl, hcores⟩ := startOns_engages sub.words sub.conf s.inp.ctx (cubes.filter fun c => c != s.cubeNum)
        (up.launch.trans (by rw [state_setCtx_same]))
      refine ⟨_, l, next, by rw [hctx]; exact up.state, by rw [hctx], hl.words, hl.root, hl.cubes, hl.position, hl.sent, fun c hc => ?_⟩
      have params := up.params c hc
      simp only [Core.params, launchParams, Prod.mk.injEq] at params
      rw [hcores c]
      exact params
  case start =>
    intro p rest htake hin hstopped hheld hboot
    have take := takePacket_startsNow htake hin hstopped hheld
    refine ⟨fun hfree => ?_, fun cubes tab skeins position recs hstate hlaunch hcube hprep => ?_, fun l0 cubes tab skeins position recs hstate hlaunch hwords hprep => ?_⟩
    · obtain ⟨k, alike, next⟩ := launchStart_free take hboot hfree
      have keeps := state_ackEngagement_keepsContexts (starting s p.ctx rest k) p.ctx p.scube 2 1
      have ctxNow := (keeps.ctx p.ctx).trans (state_setCtx_same _ _ _)
      exact ⟨_, next, keeps.mgmt, keeps.units, by rw [ctxNow]; exact alike.state.trans hfree, by rw [ctxNow]; exact alike.launch⟩
    · have up := setUp_setsUp (joins ((starting s p.ctx rest (s.configured p.ctx)).beginEngaged p.ctx p.scube) p cubes position) p.ctx p.payload tab skeins recs
      obtain ⟨hbegun, hengagers⟩ := beginEngaged_ctx (starting s p.ctx rest (s.configured p.ctx)) p.ctx p.scube
      refine ⟨_, joined p cubes position engagedLaunch, launchStart_engages take hboot hstate hlaunch hprep,
        up.mgmt.trans (state_clearCaches_keepsContexts ..).mgmt, up.state, ?_, rfl, rfl, rfl, ?_⟩
      · rw [up.launch, joins_ctx, hbegun]; rfl
      · rw [up.engagers, joins_ctx, hengagers]
    · have up := setUp_setsUp (joins ((starting s p.ctx rest (s.ctx p.ctx)).setCtx p.ctx { s.ctx p.ctx with engagers := (s.ctx p.ctx).engagers ++ [p.scube] })
        p cubes position) p.ctx p.payload tab skeins recs
      refine ⟨_, launchStart_joins take hboot hstate hlaunch hwords hprep, up.mgmt, ?_, ?_⟩
      · rw [up.launch, joins_ctx, state_setCtx_same, hlaunch]
        exact congrArg some (if_neg hwords)
      · rw [up.engagers, joins_ctx, state_setCtx_same]
  case settled =>
    intro p rest l htake hlaunch
    refine ⟨_, engagementAcknowledgement_next htake, rfl, ?_⟩
    rw [State.settleOn, state_setCtx_same]
    exact congrArg (Option.map _) hlaunch
  case completion =>
    intro l hlaunch hlive hin hheld
    obtain ⟨t, next, keeps⟩ := launchCompletion_next hlaunch hlive hin hheld
    obtain ⟨tags, hctx⟩ := finished_ctx s
    have ctxNow := (keeps.ctx s.inp.ctx).trans hctx
    exact ⟨t, next, by rw [ctxNow], by rw [ctxNow], by rw [ctxNow]⟩

end Sys2Proof.Proofs
end

section
namespace Sys2Proof.Machine
open Sys2Proof Sys2Proof.Stated Host

/-! ## The frames of an instruction's end (R37, R38, R87) -/

/-- An instruction that only retires changes nothing outside its own unit. -/
theorem retire_onlyMe (s : State) (u : Strand) (len : Nat) : OnlyMe s (s.retire u len) :=
  ⟨state_retire_rest s u len, fun _ hk => state_retire_other s u len hk, state_retire_byte s u len⟩

/-- With the PC untouched by the instruction itself, the unit goes on behind it. -/
theorem retire_me_goesOn {s : State} {u : Strand} (len : Nat) (h : u.pc = s.me.pc) : (s.retire u len).me = goesOn s u len := by
  rw [state_retire_me, h]
  rfl

/-- A write of x[d] changes its table and the loads that it overtakes; x0 not even those (R38). -/
theorem strand_setX_registers (u : Strand) (d : Fin 32) (v : Word) : { u.setX d v with x := u.x, pend := u.pend } = u := by
  unfold Strand.setX
  split <;> rfl

theorem writeX_writesX (s : State) (d : Fin 32) (v : Word) (len : Nat) : WritesX s (s.writeX d v len) d v (s.me.pc + BitVec.ofNat 64 len) where
  frame := retire_onlyMe ..
  value := state_writeX_readX ..
  others _ hr := state_writeX_readX_other s v len hr
  vectors r := by simp [State.writeX]
  maps r := by simp [State.writeX]
  registers := by
    rw [State.writeX, state_retire_me]
    exact congrArg (fun u : Strand => { u with pc := s.me.pc, hold := s.me.hold, wait := s.me.wait, haltWait := s.me.haltWait, blocks := s.me.blocks })
      (strand_setX_registers s.me d v)
  pc := by simp [State.writeX, Strand.goto]
  goes := by simp [State.writeX, Strand.goto]

/-- Pool lines that go back touch no byte of memory. -/
@[simp] theorem state_returnLines_byte (s : State) (ctx : Nat) (ls : List (Nat × Nat)) (a : Nat) : (s.returnLines ctx ls).byte a = s.byte a :=
  (congrArg (State.byte · a) (state_returnLines_ctxs s ctx ls) :)

/-- The executing unit after its event (R87). -/
theorem takeEvent_me (s : State) (code : EvCode) (addr : Word) (lane : Nat) (aux : BitVec 10) :
    (s.takeEvent code addr lane aux).me =
      { s.me with
        event := some (s.eventMsg s.cur code addr lane aux), posted := false, st := .stopped, hold := none, wait := none, haltWait := none, blocks := [],
        taken := [], vec := none, code := if isSpindle s.cur then BitVec.ofNat 8 code.num else s.me.code } := by
  have cur : (s.takeEvent code addr lane aux).cur = s.cur := (congrArg State.cur (state_returnLines_ctxs s (s.ctxOf s.cur) s.me.taken) :)
  rw [State.me, cur]
  exact state_takeEventOf_unit ..

theorem takeEvent_stopsOn (s : State) (code : EvCode) (addr : Word) (lane : Nat) (aux : BitVec 10) :
    StopsOn s (s.takeEvent code addr lane aux) code addr lane aux where
  rest := rfl
  others _ hk := state_takeEventOf_other s code addr lane aux hk
  memory := state_returnLines_byte s _ _
  stopped := by rw [takeEvent_me]
  message := by rw [takeEvent_me]
  pc := by rw [takeEvent_me]
  registers := by rw [takeEvent_me]

/-- A condition of an instruction that holds lets it go on; one that fails is its event. -/
theorem need_true {ok : Bool} (h : ok = true) (c : EvCode) (a : Word) : need ok c a = .ok () := if_pos h
theorem need_false {ok : Bool} (h : ok = false) (c : EvCode) (a : Word) : need ok c a = raise c a := if_neg (by simp [h])

end Sys2Proof.Machine
end

section
namespace Sys2Proof.Machine
open Sys2Proof Sys2Proof.Stated Host

/-! ## What SRR answers (R45, R115) -/

/-- Fields of a word side by side: what lies below bit n, and what stands from there on. -/
theorem ofNat_field_or {a n : Nat} (b : Nat) (h : a < 2 ^ n) : BitVec.ofNat 64 (a + 2 ^ n * b) = BitVec.ofNat 64 a ||| BitVec.ofNat 64 (2 ^ n * b) := by
  rw [← BitVec.ofNat_or, Nat.or_comm, ← Nat.two_pow_add_eq_or_of_lt h, Nat.add_comm]

/-- A field of its own width, moved to bit n. -/
theorem ofNat_field_shift {w : Nat} (b : BitVec w) (n : Nat) : BitVec.ofNat 64 (2 ^ n * b.toNat) = b.setWidth 64 <<< n := by
  apply BitVec.eq_of_toNat_eq
  simp [Nat.shiftLeft_eq, Nat.mul_comm]

/-- MSTAT's fields (R49). -/
theorem strand_mstat_fields (u : Strand) :
    u.mstat = BitVec.ofNat 64 (u.last.toNat + 2 ^ 8 * u.major.toNat + 2 ^ 16 * u.err.toNat + 2 ^ 17 * u.engerr.toNat) := by
  have hlast : u.last.toNat < 2 ^ 8 := u.last.isLt
  have hmajor : u.major.toNat < 2 ^ 6 := u.major.isLt
  have herr : u.err.toNat < 2 := Bool.toNat_lt _
  have flag (b : Bool) (n : Nat) : BitVec.ofNat 64 (2 ^ n * b.toNat) = if b then BitVec.ofNat 64 (2 ^ n) else 0 := by cases b <;> simp
  rw [ofNat_field_or _ (by omega), ofNat_field_or _ (by omega), ofNat_field_or _ hlast, ofNat_field_shift, flag, flag, BitVec.ofNat_toNat]
  rfl

/-- RECDONE's fields (R45). -/
theorem recDone_of_held {u : Strand} {r : SkRec} (h : u.held = some r) :
    recDone u = BitVec.ofNat 64 (r.done.toNat + 2 ^ 16 * r.visits.toNat + 2 ^ 24 * r.stage.toNat) := by
  have hdone : r.done.toNat < 2 ^ 16 := r.done.isLt
  have hvisits : r.visits.toNat < 2 ^ 8 := r.visits.isLt
  simp only [recDone, h]
  rw [ofNat_field_or _ (by omega), ofNat_field_or _ hdone, ofNat_field_shift, ofNat_field_shift, BitVec.ofNat_toNat]

theorem recDone_of_none {u : Strand} (h : u.held = none) : recDone u = 0 := by simp only [recDone, h]

/-- Every register that R45 lists reads as the table says. -/
theorem readSpecial_of_special {s : State} {i : Nat} {v : Word} (h : special s i = some v) : isSpecial i = true ∧ s.readSpecial i = v := by
  unfold special at h
  dsimp only at h
  split at h
  case h_1 => cases h; exact ⟨rfl, by rw [Nat.mul_comm]; rfl⟩
  case h_3 =>
    cases h
    have hctx : s.myCtx % 16 < 2 ^ 8 := by omega
    exact ⟨rfl, by rw [ofNat_field_or _ hctx, ofNat_field_shift]; rfl⟩
  case h_12 => cases h; exact ⟨rfl, strand_mstat_fields s.me⟩
  case h_17 => cases h; exact ⟨rfl, by cases hm : isMsgStrand s.cur <;> simp [State.readSpecial, hm]⟩
  case h_18 =>
    cases h
    refine ⟨rfl, congrArg (fun w : Word => if isMsgStrand s.cur then 0 else w) ?_⟩
    cases hheld : s.me.held with
    | none => exact recDone_of_none hheld
    | some r => exact recDone_of_held hheld
  case h_26 =>
    split at h
    case isTrue hlvl =>
      cases h
      obtain rfl | rfl | rfl | rfl | rfl | rfl | rfl | rfl : i = 0x30 ∨ i = 0x31 ∨ i = 0x32 ∨ i = 0x33 ∨ i = 0x34 ∨ i = 0x35 ∨ i = 0x36 ∨ i = 0x37 := by omega
      all_goals exact ⟨rfl, rfl⟩
    case isFalse => cases h
  all_goals
    cases h
    exact ⟨rfl, rfl⟩

/-- An index that R45 does not list has no register. -/
theorem isSpecial_of_special_none {s : State} {i : Nat} (h : special s i = none) : isSpecial i = false := by
  unfold special at h
  dsimp only at h
  split at h
  case h_26 =>
    split at h
    case isTrue => cases h
    case isFalse =>
      simp only [isSpecial, Bool.or_eq_false_iff, Bool.and_eq_false_iff, decide_eq_false_iff_not]
      simp only [imp_false] at *
      omega
  all_goals cases h
end Sys2Proof.Machine
end

section
namespace Sys2Proof.Machine
open Sys2Proof Sys2Proof.Stated Host

/-! ## What SRW of the strand's own registers leaves (R42, R47 to R49, R115) -/

/-- VL takes what is written up to 64 (R42). -/
theorem vlWrite_eq (v : Word) : vlWrite v = BitVec.ofNat 7 (min v.toNat 64) := by
  unfold vlWrite
  split
  case isTrue h => rw [Nat.min_eq_right (by omega)]; rfl
  case isFalse h => rw [Nat.min_eq_left (by omega), BitVec.ofNat_toNat]

/-- RNGST takes the low word, its own seed for a zero (R48). -/
theorem rngWrite_eq (v : Word) : rngWrite v = if v.toNat % 2 ^ 32 = 0 then 0x6D2B79F5 else v.setWidth 32 := by
  have zero : v.setWidth 32 = 0 ↔ v.toNat % 2 ^ 32 = 0 := by rw [← BitVec.toNat_inj, BitVec.toNat_setWidth]; rfl
  simp only [rngWrite, zero]

/-- A register of the strand's own: SRW may write it, and leaves the strand as R42 and R47 to R49 say, its PC for the retirement. -/
theorem writeSpecialReg_own {s : State} {i : Nat} {v : Word} {u : Strand} (h : ownWrite s.me i v = some u) :
    isWritable i = true ∧ s.writeSpecialReg i v = .ok (s.retire u 4) ∧ u.pc = s.me.pc := by
  unfold ownWrite at h
  split at h
  case h_4 => cases h; exact ⟨rfl, by rw [← rngWrite_eq]; rfl, rfl⟩
  case h_5 => cases h; exact ⟨rfl, by rw [← vlWrite_eq]; rfl, rfl⟩
  case h_7 => cases h
  all_goals
    cases h
    exact ⟨rfl, rfl, rfl⟩

/-- What may be written besides: PLY, ASTAT and the spindle cores' registers. -/
theorem isWritable_of_ownWrite_none {u : Strand} {i : Nat} {v : Word} (h : ownWrite u i v = none) (hply : i ≠ 0x08) (hastat : i ≠ 0x40)
    (hspindle : i < 0x50 ∨ 0x53 < i) : isWritable i = false := by
  unfold ownWrite at h
  split at h
  case h_7 =>
    simp only [isWritable, Bool.or_eq_false_iff, Bool.and_eq_false_iff, decide_eq_false_iff_not]
    simp only [imp_false] at *
    omega
  all_goals cases h

/-- ASTAT (R54): ones clear flags, SAT is replaced. -/
theorem astatWrite_bit (old : BitVec 9) (v : Word) {b : Nat} (h : b < 9) :
    (astatWrite old v).getLsbD b = if b < 4 then old.getLsbD b && !v.getLsbD b else decide (b = 8) && v.getLsbD 8 := by
  obtain rfl | rfl | rfl | rfl | rfl | rfl | rfl | rfl | rfl : b = 0 ∨ b = 1 ∨ b = 2 ∨ b = 3 ∨ b = 4 ∨ b = 5 ∨ b = 6 ∨ b = 7 ∨ b = 8 := by omega
  all_goals simp [astatWrite]

/-! ## What SRR and SRW come to -/

theorem exec_srr_priv {s : State} {d : Fin 32} {i : Fin 1024} (hservice : isService s.cur = false) (hi : 0x200 ≤ i.val) :
    exec (.srr d i) s = .next (s.takeEvent .priv 0 0 0) := by
  show execSrr d i s = _
  simp only [execSrr, hi, if_true, hservice, Bool.false_eq_true, if_false]
  rfl

theorem exec_srr_undef {s : State} {d : Fin 32} {i : Fin 1024} (hi : i.val < 0x200) (h : isSpecial i.val = false) :
    exec (.srr d i) s = .next (s.takeEvent .undef 0 0 0) := by
  show execSrr d i s = _
  simp only [execSrr, Nat.not_le.2 hi, if_false, h, Bool.not_false, Bool.true_or, if_true]
  rfl

theorem exec_srr_reads {s : State} {d : Fin 32} {i : Fin 1024} (hspindle : isSpindle s.cur = false) (hi : i.val < 0x200) (h : isSpecial i.val = true) :
    exec (.srr d i) s = .next (s.writeX d (s.readSpecial i.val) 4) := by
  show execSrr d i s = _
  simp only [execSrr, Nat.not_le.2 hi, if_false, h, hspindle, Bool.not_true, Bool.false_and, Bool.or_self, Bool.false_eq_true, finish_ok]

theorem exec_srw_priv {s : State} {a : Fin 32} {i : Fin 1024} (hservice : isService s.cur = false) (hi : 0x200 ≤ i.val) :
    exec (.srw a i) s = .next (s.takeEvent .priv 0 0 0) := by
  show execSrw a i s = _
  simp only [execSrw, hi, if_true, hservice, Bool.false_eq_true, if_false]
  rfl

theorem exec_srw_undef {s : State} {a : Fin 32} {i : Fin 1024} (hi : i.val < 0x200) (h : isWritable i.val = false) :
    exec (.srw a i) s = .next (s.takeEvent .undef 0 0 0) := by
  show execSrw a i s = _
  simp only [execSrw, Nat.not_le.2 hi, if_false, h, Bool.not_false, Bool.true_or, if_true]
  rfl

theorem exec_srw_writes {s : State} {a : Fin 32} {i : Fin 1024} (hspindle : isSpindle s.cur = false) (h : isWritable i.val = true) :
    exec (.srw a i) s = finish s (s.writeSpecialReg i.val (s.me.readX a)) := by
  have hi : ¬ 0x200 ≤ i.val := by
    simp only [isWritable, Bool.or_eq_true, Bool.and_eq_true, decide_eq_true_eq] at h
    omega
  show execSrw a i s = _
  simp only [execSrw, hi, if_false, h, hspindle, Bool.not_true, Bool.or_self, Bool.false_eq_true]

/-- PLY is written as PLYSET writes it (R140). -/
theorem writeSpecialReg_ply (s : State) (v : Word) : s.writeSpecialReg 0x08 v = s.setPly v := rfl

theorem setPly_live {s : State} {v : Word} (h : s.tagLive s.myCtx (v.setWidth 16) = true) :
    s.setPly v = .ok (s.retire { s.me with ply := v.setWidth 16 } 4) := by
  rw [State.setPly, need_true h, res_ok_bind]

theorem setPly_refused {s : State} {v : Word} (h : s.tagLive s.myCtx (v.setWidth 16) = false) : s.setPly v = raise .perm (v &&& 0xFFFF) := by
  rw [State.setPly, need_false h]
  rfl

/-- The cluster whose ASTAT SRW has written: flags set in this cc stay (R54). -/
def Cluster.astatWritten (k : Cluster) (v : Word) (now : Nat) : Cluster := { k with astat := astatWrite k.astat v ||| k.justSet now }

theorem writeSpecialReg_astat (s : State) (v : Word) :
    s.writeSpecialReg 0x40 v = .ok ((s.setCluster (clusterOf s.cur) ((s.cluster (clusterOf s.cur)).astatWritten v s.cycle)).retire s.me 4) := rfl

end Sys2Proof.Machine

namespace Sys2Proof.Proofs
open Sys2Proof Sys2Proof.Machine Sys2Proof.Stated Host

/-- Settles O28: each index falls under one of the registers that R45 lists, and the laws above say how it is read and written. -/
theorem specialRegisters : Obligations.SpecialRegisters := by
  refine ⟨fun s d i hspindle hservice => ⟨fun hi => ?readPriv, fun hi hnone => ?readUndef, fun v hi hsome => ?read⟩,
    fun s a i hspindle hservice => ⟨fun u hown => ?own, fun hi hlive => ?ply, fun hi hdead => ?plyPerm, fun hi => ?astat, fun hi => ?priv,
      fun hi hnone hply hastat hctl => ?undef⟩⟩
  case readPriv => exact ⟨_, exec_srr_priv hservice hi, takeEvent_stopsOn ..⟩
  case readUndef => exact ⟨_, exec_srr_undef hi (isSpecial_of_special_none hnone), takeEvent_stopsOn ..⟩
  case read =>
    obtain ⟨hspecial, rfl⟩ := readSpecial_of_special hsome
    exact ⟨_, exec_srr_reads hspindle hi hspecial, writeX_writesX ..⟩
  case own =>
    obtain ⟨hwritable, hwrite, hpc⟩ := writeSpecialReg_own hown
    have next := exec_srw_writes (a := a) hspindle hwritable
    rw [hwrite] at next
    exact ⟨_, next, retire_onlyMe .., retire_me_goesOn 4 hpc⟩
  case ply =>
    have next := exec_srw_writes (a := a) (i := i) hspindle (by rw [hi]; rfl)
    rw [hi, writeSpecialReg_ply, setPly_live hlive] at next
    exact ⟨_, next, retire_onlyMe .., retire_me_goesOn 4 rfl⟩
  case plyPerm =>
    have next := exec_srw_writes (a := a) (i := i) hspindle (by rw [hi]; rfl)
    rw [hi, writeSpecialReg_ply, setPly_refused hdead] at next
    exact ⟨_, next, takeEvent_stopsOn ..⟩
  case astat =>
    have next := exec_srw_writes (a := a) (i := i) hspindle (by rw [hi]; rfl)
    rw [hi, writeSpecialReg_astat] at next
    refine ⟨_, _, next, rfl, retire_me_goesOn 4 rfl, state_setCluster_same .., fun b hb => ?_⟩
    rw [BitVec.getLsbD_or, astatWrite_bit _ _ hb, Bool.or_comm]
  case priv => exact ⟨_, exec_srw_priv hservice hi, takeEvent_stopsOn ..⟩
  case undef => exact ⟨_, exec_srw_undef hi (isWritable_of_ownWrite_none hnone hply hastat hctl), takeEvent_stopsOn ..⟩

end Sys2Proof.Proofs
end

section
namespace Sys2Proof.Machine
open Sys2Proof Sys2Proof.Stated Host

/-! ## The image of an instruction store (R51) -/

@[simp] theorem state_bytes_length (s : State) (key n : Nat) : (s.bytes key n).length = n := by
  induction n generalizing key with
  | zero => rfl
  | succ n ih => exact congrArg (· + 1) (ih (key + 1))

theorem state_bytes_getD (s : State) {key n j : Nat} (h : j < n) : (s.bytes key n).getD j 0 = s.byte (key + j) := by
  induction n generalizing key j with
  | zero => omega
  | succ n ih =>
    cases j with
    | zero => rfl
    | succ j =>
      have place : key + (j + 1) = key + 1 + j := by omega
      rw [place]
      exact ih (Nat.lt_of_succ_lt_succ h)

/-- Byte j of an image is byte j from its place on. -/
theorem imageAt_read (s : State) (key : Nat) {j : Nat} (h : j < 4096) : Tab.read 0 (s.imageAt key) j = s.byte (key + j) := by
  rw [State.imageAt, putBytes_read, state_bytes_length, if_pos (by omega), Nat.sub_zero, state_bytes_getD s h]

/-- A place from which a core's instruction stores are loaded: the core's own scratchpad (R51, R93). -/
structure OwnScratch (s : State) (core : Nat) (va : Word) : Prop where
  window : va.toNat / 2 ^ 60 = 15
  scope : va.toNat / 2 ^ 56 % 16 = 0
  within : va.toNat / 2 ^ 20 % 256 = 0
  cube : va.toNat / 2 ^ 36 % 2 ^ 20 = s.cubeNum
  core : va.toNat / 2 ^ 28 % 256 = core

/-- The check that LOADIMG makes of a place. -/
def State.ownPlace (s : State) (core : Nat) (va : Word) : Bool :=
  isScratchVa va && decide (bits va.toNat 59 56 = 0) && decide (bits va.toNat 27 20 = 0) && decide (bits va.toNat 55 36 = s.cubeNum)
    && decide (bits va.toNat 35 28 = core)

theorem ownPlace_iff (s : State) (core : Nat) (va : Word) : s.ownPlace core va = true ↔ OwnScratch s core va := by
  simp only [State.ownPlace, isScratchVa, Bool.and_eq_true, decide_eq_true_eq]
  exact ⟨fun ⟨⟨⟨⟨h1, h2⟩, h3⟩, h4⟩, h5⟩ => ⟨h1, h2, h3, h4, h5⟩, fun ⟨h1, h2, h3, h4, h5⟩ => ⟨⟨⟨⟨h1, h2⟩, h3⟩, h4⟩, h5⟩⟩

/-- The cube when an image is copied: a busy core is halted, or, stopped on an event, is to halt when its reply comes (log entry 34). -/
def State.readied (s : State) (key : Nat) : State :=
  if !(s.unit key).busy then s else if (s.unit key).event.isSome then s.setUnit key { s.unit key with haltReq := true } else s.haltSpindle key

/-- A spindle core has the 4 KiB of an image in its store. -/
def State.withImage (s : State) (key src : Nat) : State := s.setUnit key { s.unit key with imem := s.imageAt src }

theorem readied_idle {s : State} {key : Nat} (h : (s.unit key).busy = false) : s.readied key = s := by simp [State.readied, h]
theorem readied_stopped {s : State} {key : Nat} (hbusy : (s.unit key).busy = true) (hev : (s.unit key).event ≠ none) :
    s.readied key = s.setUnit key { s.unit key with haltReq := true } := by
  simp [State.readied, hbusy, Option.isSome_iff_ne_none.2 hev]
theorem readied_running {s : State} {key : Nat} (hbusy : (s.unit key).busy = true) (hev : (s.unit key).event = none) : s.readied key = s.haltSpindle key := by
  simp [State.readied, hbusy, hev]

@[simp] theorem withImage_unit (s : State) (key src : Nat) : (s.withImage key src).unit key = { s.unit key with imem := s.imageAt src } := state_setUnit_same ..
theorem withImage_busy (s : State) (key src : Nat) : ((s.withImage key src).unit key).busy = (s.unit key).busy := by rw [withImage_unit]
theorem withImage_st (s : State) (key src : Nat) : ((s.withImage key src).unit key).st = (s.unit key).st := by rw [withImage_unit]
theorem withImage_haltReq (s : State) (key src : Nat) : ((s.withImage key src).unit key).haltReq = (s.unit key).haltReq := by rw [withImage_unit]
@[simp] theorem withImage_byte (s : State) (key src a : Nat) : (s.withImage key src).byte a = s.byte a := rfl

/-- Every byte of the store is that of the place it was loaded from. -/
theorem withImage_imem (s : State) (key src : Nat) {j : Nat} (h : j < 4096) :
    Tab.read 0 ((s.withImage key src).unit key).imem j = (s.withImage key src).byte (src + j) := by
  rw [withImage_unit, withImage_byte, imageAt_read s src h]

/-- A halted spindle core (R51) is idle and nothing more is asked of it. -/
theorem haltSpindle_stopped (s : State) (key : Nat) :
    ((s.haltSpindle key).unit key).busy = false ∧ ((s.haltSpindle key).unit key).st = .idle ∧ ((s.haltSpindle key).unit key).haltReq = false := by
  simp only [State.haltSpindle, state_setUnit_same]
  exact ⟨rfl, rfl, rfl⟩

/-! ## What loading answers (R51) -/

/-- Two checks, then the copy. -/
theorem loadImage_eq (s : State) (core slot : Nat) (va : Word) :
    s.loadImage core slot va = (need (decide (va.toNat % 4096 = 0)) .align va >>= fun _ => need (s.ownPlace core va) .perm va >>= fun _ =>
      .ok ((s.readied (unitKey core slot)).withImage (unitKey core slot) (scratchKey core (bits va.toNat 19 0)))) := rfl

theorem loadImage_own {s : State} {core : Nat} {va : Word} (slot : Nat) (halign : va.toNat % 4096 = 0) (h : OwnScratch s core va) :
    s.loadImage core slot va = .ok ((s.readied (unitKey core slot)).withImage (unitKey core slot) (scratchKey core (va.toNat % 2 ^ 20))) := by
  have place : bits va.toNat 19 0 = va.toNat % 2 ^ 20 := by simp [bits]
  rw [loadImage_eq, need_true (decide_eq_true halign), res_ok_bind, need_true ((ownPlace_iff s core va).2 h), res_ok_bind, place]

theorem loadImage_misaligned {s : State} {va : Word} (core slot : Nat) (halign : va.toNat % 4096 ≠ 0) : s.loadImage core slot va = raise .align va := by
  rw [loadImage_eq, need_false (decide_eq_false halign), raise, res_error_bind]
  rfl

theorem loadImage_elsewhere {s : State} {core : Nat} {va : Word} (slot : Nat) (halign : va.toNat % 4096 = 0) (h : ¬ OwnScratch s core va) :
    s.loadImage core slot va = raise .perm va := by
  have refused : s.ownPlace core va = false := Bool.eq_false_iff.2 fun hc => h ((ownPlace_iff s core va).1 hc)
  rw [loadImage_eq, need_true (decide_eq_true halign), res_ok_bind, need_false refused, raise, res_error_bind]
  rfl

/-! ## GO and HALT (R51) -/

/-- A spindle core that has started: at START, its registers and counters zero. -/
structure Starts (u w : Strand) : Prop where
  busy : w.busy = true
  st : w.st = .run
  pc : w.pc = BitVec.ofNat 64 (u.start.toNat * 2)
  registers : ∀ r, w.readX r = 0
  loads : w.loads = 0
  stores : w.stores = 0

theorem spindleGo_starts {u : Strand} (now : Nat) (h : u.busy = false) : Starts u (u.spindleGo now) := by
  rw [Strand.spindleGo, h]
  refine ⟨rfl, rfl, rfl, fun r => ?_, rfl, rfl⟩
  unfold Strand.readX
  split <;> rfl

theorem spindleGo_busy {u : Strand} (now : Nat) (h : u.busy = true) : u.spindleGo now = u := if_pos h

theorem spindleGo_start (u : Strand) (now : Nat) : (u.spindleGo now).start = u.start := by
  unfold Strand.spindleGo; split <;> rfl

/-- The cube with a spindle core started, whose work gets a number of the model's. -/
def State.withStarted (s : State) (key : Nat) : State := { s.setUnit key ((s.unit key).spindleGo s.fresh) with fresh := s.fresh + 1 }

theorem withStarted_unit (s : State) (key : Nat) : (s.withStarted key).unit key = (s.unit key).spindleGo s.fresh :=
  state_setUnit_same s key ((s.unit key).spindleGo s.fresh)

/-- START as LOADCTL and STORCTL are written (R51). -/
def ctlStart (v : Word) : BitVec 11 := (v >>> 16).setWidth 11

/-- START is stored, whether the core is busy or not. -/
def Strand.withStart (u : Strand) (v : Word) : Strand := { u with start := ctlStart v }

/-- The core after START and GO, before HALT. -/
def Strand.afterGo (u : Strand) (v : Word) (now : Nat) : Strand := if v.getLsbD 0 then (u.withStart v).spindleGo now else u.withStart v

theorem writeCtl_eq (u : Strand) (v : Word) (now : Nat) :
    u.writeCtl v now = if v.getLsbD 3 && (u.afterGo v now).busy then { u.afterGo v now with haltReq := true } else u.afterGo v now := rfl

theorem writeCtl_start (u : Strand) (v : Word) (now : Nat) : (u.writeCtl v now).start = ctlStart v := by
  have started : (u.afterGo v now).start = ctlStart v := by
    unfold Strand.afterGo
    split
    · exact spindleGo_start ..
    · rfl
  rw [writeCtl_eq]
  split <;> exact started

/-- GO at an idle core. -/
theorem writeCtl_go {u : Strand} {v : Word} (now : Nat) (hgo : v.getLsbD 0 = true) (hhalt : v.getLsbD 3 = false) :
    u.writeCtl v now = (u.withStart v).spindleGo now := by
  rw [writeCtl_eq, hhalt]
  exact if_pos hgo

/-- GO and HALT in one write start an idle core, whose halt is then requested (log entry 111). -/
theorem writeCtl_go_halt {u : Strand} {v : Word} (now : Nat) (hbusy : u.busy = false) (hgo : v.getLsbD 0 = true) (hhalt : v.getLsbD 3 = true) :
    u.writeCtl v now = { (u.withStart v).spindleGo now with haltReq := true } := by
  have gone : u.afterGo v now = (u.withStart v).spindleGo now := if_pos hgo
  have started : ((u.withStart v).spindleGo now).busy = true := (spindleGo_starts (u := u.withStart v) now hbusy).busy
  rw [writeCtl_eq, gone, hhalt, started]
  rfl

/-- A busy core: GO does nothing, HALT is requested. -/
theorem writeCtl_busy {u : Strand} (v : Word) (now : Nat) (hbusy : u.busy = true) :
    u.writeCtl v now = { u.withStart v with haltReq := u.haltReq || v.getLsbD 3 } := by
  have gone : u.afterGo v now = u.withStart v := by rw [Strand.afterGo, spindleGo_busy (u := u.withStart v) now hbusy, ite_self]
  have busy : (u.withStart v).busy = true := hbusy
  rw [writeCtl_eq, gone, busy, Bool.and_true]
  cases v.getLsbD 3
  · rw [Bool.or_false]; rfl
  · rw [Bool.or_true]; rfl

/-! ## What SRW of a spindle core's registers comes to (R51) -/

/-- The spindle core that a control or image register belongs to: the loader at even indices. -/
def ctlKey (s : State) (i : Nat) : Nat := unitKey (coreOf s.cur) (if i % 2 = 0 then 8 else 9)

/-- It is not the strand that writes the register. -/
theorem ctlKey_ne_cur {s : State} (i : Nat) (h : slotOf s.cur < 8) : ctlKey s i ≠ s.cur := by
  unfold ctlKey unitKey coreOf
  unfold slotOf at h
  split <;> omega

/-- The cube with a spindle core's control register written. -/
def State.ctlWritten (s : State) (key : Nat) (v : Word) : State := { s.setUnit key ((s.unit key).writeCtl v s.fresh) with fresh := s.fresh + 1 }

theorem ctlWritten_unit (s : State) (key : Nat) (v : Word) : (s.ctlWritten key v).unit key = (s.unit key).writeCtl v s.fresh :=
  state_setUnit_same s key ((s.unit key).writeCtl v s.fresh)
theorem ctlWritten_other (s : State) {key k : Nat} (v : Word) (h : k ≠ key) : (s.ctlWritten key v).unit k = s.unit k :=
  state_setUnit_other s ((s.unit key).writeCtl v s.fresh) h

theorem writeSpecialReg_ctl {s : State} {i : Nat} (v : Word) (hslot : slotOf s.cur < 8) (hi : i = 0x50 ∨ i = 0x51) :
    s.writeSpecialReg i v = .ok ((s.ctlWritten (ctlKey s i) v).retire s.me 4) := by
  have me : (s.setUnit (ctlKey s i) ((s.unit (ctlKey s i)).writeCtl v s.fresh)).me = s.me := state_setUnit_other _ _ (ctlKey_ne_cur i hslot).symm
  rw [← me]
  obtain rfl | rfl := hi <;> rfl

theorem writeSpecialReg_image {s : State} {i : Nat} (v : Word) (hi : i = 0x52 ∨ i = 0x53) :
    s.writeSpecialReg i v = (s.loadImage (coreOf s.cur) (if i % 2 = 0 then 8 else 9) v >>= fun t => .ok (t.retire t.me 4)) := by
  obtain rfl | rfl := hi <;> rfl

theorem isWritable_ctl {i : Nat} (hi : 0x50 ≤ i ∧ i ≤ 0x53) : isWritable i = true := by simp [isWritable, hi]

end Sys2Proof.Machine
end

section
namespace Sys2Proof.Proofs
open Sys2Proof Sys2Proof.Machine Sys2Proof.Stated Host

/-- Settles O29: a control register's write starts, halts or leaves the spindle core by the laws of GO and HALT; an image register's write makes the two
checks of the place and copies. -/
theorem spindleControl : Obligations.SpindleControl := by
  intro s a i hslot hcur v key u
  have notSpindle : isSpindle s.cur = false := Bool.and_eq_false_iff.2 (.inr (decide_eq_false (Nat.not_le.2 hslot)))
  have apart : key ≠ s.cur := ctlKey_ne_cur i.val hslot
  have writes (hi : 0x50 ≤ i.val ∧ i.val ≤ 0x53) : exec (.srw a i) s = finish s (s.writeSpecialReg i.val v) := exec_srw_writes notSpindle (isWritable_ctl hi)
  refine ⟨fun hi => ?control, fun hi => ?image⟩
  case control =>
    have next : exec (.srw a i) s = .next ((s.ctlWritten key v).retire s.me 4) := by
      rw [writes (by omega), writeSpecialReg_ctl v hslot hi]
      rfl
    have written : ((s.ctlWritten key v).retire s.me 4).unit key = u.writeCtl v s.fresh := by
      rw [state_retire_other (s.ctlWritten key v) _ _ apart, ctlWritten_unit]
    refine ⟨_, next, state_retire_me _ _ _, by rw [written, writeCtl_start]; rfl, ?go, ?both, ?busy, ?others⟩
    case go =>
      intro hbusy hgo hhalt
      have starts : Starts (u.withStart v) ((u.withStart v).spindleGo s.fresh) := spindleGo_starts s.fresh hbusy
      rw [written, writeCtl_go s.fresh hgo hhalt]
      refine ⟨starts.busy, starts.st, ?_, starts.registers, starts.loads, starts.stores⟩
      rw [starts.pc, Nat.mul_comm]
      exact ofNat_field_shift (ctlStart v) 1
    case both =>
      intro hbusy hgo hhalt
      rw [written, writeCtl_go_halt s.fresh hbusy hgo hhalt]
      exact ⟨(spindleGo_starts (u := u.withStart v) s.fresh hbusy).busy, rfl⟩
    case busy =>
      intro hbusy
      rw [written, writeCtl_busy v s.fresh hbusy]
      exact ⟨rfl, fun _ => rfl, rfl⟩
    case others =>
      intro k hk hkey
      rw [state_retire_other (s.ctlWritten key v) _ _ hk, ctlWritten_other _ _ hkey]
  case image =>
    have next := writes (by omega)
    rw [writeSpecialReg_image v hi] at next
    refine ⟨fun halign => ?misaligned, fun halign hwindow hscope hwithin hcube hcore hidle => ?own, fun halign hplace => ?elsewhere⟩
    case misaligned =>
      rw [loadImage_misaligned _ _ halign] at next
      exact ⟨_, next, takeEvent_stopsOn ..⟩
    case own =>
      have place : OwnScratch s (coreOf s.cur) v := ⟨hwindow, hscope, hwithin, hcube, hcore⟩
      let t := s.withImage key (scratchKey (coreOf s.cur) (v.toNat % 2 ^ 20))
      have me : t.me = s.me := state_setUnit_other s _ apart.symm
      rw [loadImage_own _ halign place, readied_idle hidle, res_ok_bind] at next
      refine ⟨t.retire t.me 4, next, ?_, fun k hk => ?_⟩
      · rw [state_retire_me, me]
        rfl
      · rw [state_retire_other t _ _ apart, withImage_imem s key _ hk, withImage_byte, scratchKey, scratchKey, Nat.add_assoc]
    case elsewhere =>
      have other : ¬ OwnScratch s (coreOf s.cur) v := fun h => hplace.elim (· h.window) (·.elim (· h.cube) (· h.core))
      rw [loadImage_elsewhere _ halign other] at next
      exact ⟨_, next, takeEvent_stopsOn ..⟩

end Sys2Proof.Proofs
end

section
namespace Sys2Proof.Machine
open Sys2Proof Sys2Proof.Stated Host

/-! ## A load that returns (R44, R122) -/

/-- A unit whose oldest performed load has returned. -/
def Strand.returned (u : Strand) (p : Pend) (rest : List Pend) (pts : Nat) : Strand :=
  { u.deliver p with pend := rest, loads := u.loads - 1, pts := pts }

/-- The oldest of the loads under way to a register is the one that a reader waits for. -/
theorem strand_pending_cons {u : Strand} {p : Pend} {rest : List Pend} (h : u.pend = p :: rest) (d : LoadDest) :
    u.pending d = if p.dest = d then some p.val else (rest.find? fun q => decide (q.dest = d)).map (·.val) := by
  rw [Strand.pending, h, List.find?_cons]
  split <;> simp_all

/-- A register for which no load is under way. -/
theorem find_dest_none {rest : List Pend} {d : LoadDest} (h : ∀ q ∈ rest, q.dest ≠ d) : rest.find? (fun q => decide (q.dest = d)) = none :=
  List.find?_eq_none.2 fun q hq => by simpa using h q hq

theorem deliver_x_of_ne {u : Strand} {p : Pend} {r : Fin 32} (h : p.dest ≠ .x r) : Tab.read 0 (u.deliver p).x r.val = Tab.read 0 u.x r.val := by
  unfold Strand.deliver
  split
  case h_1 d hd =>
    have hr : r.val ≠ d.val := fun hc => h (by rw [hd, Fin.ext hc])
    unfold Strand.setX
    split
    · rfl
    · exact tab_read_write_other _ _ _ hr
  all_goals rfl

theorem deliver_v_of_ne {u : Strand} {p : Pend} {r : Fin 32} (h : p.dest ≠ .v r) : Tab.read 0 (u.deliver p).v r.val = Tab.read 0 u.v r.val := by
  unfold Strand.deliver
  split
  case h_1 => rw [strand_setX_v]
  case h_2 d hd =>
    have hr : r.val ≠ d.val := fun hc => h (by rw [hd, Fin.ext hc])
    exact tab_read_write_other _ _ _ hr
  all_goals rfl

theorem deliver_tm_of_ne {u : Strand} {p : Pend} {r : Fin 16} (h : p.dest ≠ .tm r) : Tab.read 0 (u.deliver p).tm r.val = Tab.read 0 u.tm r.val := by
  unfold Strand.deliver
  split
  case h_1 => rw [strand_setX_tm]
  case h_3 d hd =>
    have hr : r.val ≠ d.val := fun hc => h (by rw [hd, Fin.ext hc])
    exact tab_read_write_other _ _ _ hr
  all_goals rfl

section
variable {u : Strand} {p : Pend} {rest : List Pend} (hpend : u.pend = p :: rest)
include hpend

/-- A register that waits for another load goes on waiting for it. -/
theorem returned_pending_other {d : LoadDest} (pts : Nat) (hd : p.dest ≠ d) : (u.returned p rest pts).pending d = u.pending d := by
  rw [strand_pending_cons hpend, if_neg hd]
  rfl

variable (hlast : p.dest = .none ∨ ∀ q ∈ rest, q.dest ≠ p.dest)
include hlast

/-- The register to which the load returns waited for it, and for no other. -/
theorem returned_pending_same {d : LoadDest} (pts : Nat) (hd : p.dest = d) (hn : d ≠ .none) :
    (u.returned p rest pts).pending d = none ∧ u.pending d = some p.val := by
  subst hd
  refine ⟨congrArg (Option.map _) (find_dest_none (hlast.resolve_left hn)), ?_⟩
  rw [strand_pending_cons hpend, if_pos rfl]

/-- The returned value is in its register, which read as it before; no x register reads differently. -/
theorem returned_readX (pts : Nat) (r : Fin 32) : (u.returned p rest pts).readX r = u.readX r := by
  unfold Strand.readX
  split
  case isTrue => rfl
  case isFalse hr =>
    by_cases hd : p.dest = .x r
    · obtain ⟨after, before⟩ := returned_pending_same hpend hlast pts hd (by simp)
      rw [after, before]
      simp [Strand.returned, Strand.deliver, hd, Strand.setX, hr]
    · rw [returned_pending_other hpend pts hd, Strand.returned, deliver_x_of_ne hd]

theorem returned_readV (pts : Nat) (r : Fin 32) : (u.returned p rest pts).readV r = u.readV r := by
  unfold Strand.readV
  by_cases hd : p.dest = .v r
  · obtain ⟨after, before⟩ := returned_pending_same hpend hlast pts hd (by simp)
    rw [after, before]
    simp [Strand.returned, Strand.deliver, hd, Strand.setV]
  · rw [returned_pending_other hpend pts hd, Strand.returned, deliver_v_of_ne hd]

theorem returned_readTm (pts : Nat) (r : Fin 16) : (u.returned p rest pts).readTm r = u.readTm r := by
  unfold Strand.readTm
  by_cases hd : p.dest = .tm r
  · obtain ⟨after, before⟩ := returned_pending_same hpend hlast pts hd (by simp)
    rw [after, before]
    simp [Strand.returned, Strand.deliver, hd]
  · rw [returned_pending_other hpend pts hd, Strand.returned, deliver_tm_of_ne hd]

end

/-! ## An operation that ends, and a lease that passes on (R44, R191, R264) -/

/-- The end of an operation of work that is on a unit lowers that unit's counter and takes the operation away. -/
theorem endOp_onUnit {s : State} (n : Nat) {o : Op} {w : Nat} (f : Strand → Strand) (hin : s.isOut o.ctx = false)
    (hunit : workUnit s.unit o.party o.wid = some w) :
    s.endOp n o f = ({ s with ops := s.ops.eraseIdx n } : State).setUnit w (f { (s.unit w).lowerCtr o.ctr with pts := max (s.unit w).pts s.floor }) := by
  have hin' : ({ s with ops := s.ops.eraseIdx n } : State).isOut o.ctx = false := hin
  have hunit' : workUnit ({ s with ops := s.ops.eraseIdx n } : State).unit o.party o.wid = some w := hunit
  simp only [State.endOp, State.settleWork, hin', hunit', Bool.false_eq_true, if_false]
  rfl

/-- Every core of the cluster has its turn in the rotation (R265). -/
theorem rotation_surjective (last : Option Nat) {w : Nat} (hw : w < 8) :
    w ∈ (List.range 8).map fun i => match last with
      | some h => (h + 1 + i) % 8
      | none => i := by
  rw [List.mem_map]
  cases last with
  | none => exact ⟨w, List.mem_range.2 hw, rfl⟩
  | some h => exact ⟨(w + 7 * (h + 1)) % 8, List.mem_range.2 (by omega), by dsimp only; omega⟩

/-- A core that waits alone is the next in any rotation (R265). -/
theorem cluster_next_single {k : Cluster} {w : Nat} (hw : w < 8) (h : k.waiting = [w]) : k.next = some w := by
  have waits (i : Nat) : k.waiting.contains i = true ↔ i = w := by rw [h]; simp
  cases hnext : k.next with
  | none => exact absurd ((waits w).2 rfl) (List.find?_eq_none.1 hnext w (rotation_surjective k.lastHolder hw))
  | some x => rw [(waits x).1 (List.find?_some hnext)]

/-- The lease passes to the one core that waits. -/
theorem passOn_single {k : Cluster} {w : Nat} (now : Nat) (hw : w < 8) (h : k.waiting = [w]) :
    (k.passOn now).holder = some w ∧ (k.passOn now).waiting = [] ∧ (k.passOn now).cmds = 0 := by
  have list : (k.grant w now false).waiting = [] := by simp [Cluster.grant, h]
  rw [Cluster.passOn, cluster_next_single hw h]
  exact ⟨rfl, list, rfl⟩

end Sys2Proof.Machine
end

section
namespace Sys2Proof.Proofs
open Sys2Proof Sys2Proof.Machine Sys2Proof.Stated Host

/-! ## The steps of UnitSteps -/

/-- LOAD_RETURN where no answer from another cube has come. -/
theorem loadReturn_next {s : State} {key : Nat} {p : Pend} {rest : List Pend} (hkey : key = unitKey s.inp.core s.inp.slot)
    (hanswer : s.answerFor key = none) (hpend : (s.unit key).pend = p :: rest) :
    exec .loadReturn s = .next (s.setUnit key ((s.unit key).returned p rest (max (s.unit key).pts s.floor))) := by
  subst hkey
  show execLoadReturn s = _
  simp only [execLoadReturn, hanswer, hpend]
  rfl

/-- STORE_PERFORMED of a store whose accesses on other cubes are acknowledged. -/
theorem storePerformed_next {s : State} {o : Op} (hop : s.ops[s.inp.index]? = some o) (hkind : o.kind = .store) (hacked : s.unackedOf o.ord = false) :
    exec .storePerformed s = .next (s.endOp s.inp.index o id) := by
  show execStorePerformed s = _
  simp only [execStorePerformed, hop, hkind, hacked, Bool.not_false, and_self, if_true]

/-- LOCK_REMOTE_RETRY of a lock whose word lies on another cube. -/
theorem lockRemoteRetry_next {s : State} {key : Nat} {w : Wait} {l : Loc} (hkey : key = unitKey s.inp.core s.inp.slot) (hwait : (s.unit key).wait = some w)
    (hst : (s.unit key).st = .blocked) (hhalted : (s.unit key).halted = false) (hkind : w.kind = .rlk ∨ w.kind = .wlk)
    (hlong : 256 ≤ s.cycle - (s.unit key).lockTried) (hplace : s.resolve (coreOf key) (s.ctxOf key) w.addr .write (s.unit key).ply = .ok l)
    (hfar : l.cube ≠ s.cubeNum) : exec .lockRemoteRetry s = .next (s.setUnit key { s.unit key with st := .run, lockTried := s.cycle }) := by
  subst hkey
  show execLockRemoteRetry s = _
  simp only [execLockRemoteRetry, hwait, hplace, hst, hhalted, hkind, hlong, hfar, ne_eq, not_false_eq_true, decide_true, Bool.not_false, and_self, if_true]

/-- IDLE_WAIT_EXPIRY once the cycles of an IDLE are over. -/
theorem idleWaitExpiry_next {s : State} {key since till : Nat} (hkey : key = unitKey s.inp.core s.inp.slot) (hhold : (s.unit key).hold = some ⟨.idle, since, till⟩)
    (hover : till ≤ s.cycle) : exec .idleWaitExpiry s = .next (s.setUnit key { s.unit key with hold := none }) := by
  subst hkey
  show execIdleWaitExpiry s = _
  simp only [execIdleWaitExpiry, hhold, hover, and_self, if_true]

/-- LEASE_EXPIRY of a holder that has had its cycles while another core waits. -/
theorem leaseExpiry_next {s : State} {h : Nat} (hholder : (s.cluster s.inp.part).holder = some h)
    (hlong : 16384 ≤ s.cycle - (s.cluster s.inp.part).leaseSince) (hwaiting : (s.cluster s.inp.part).waiting ≠ [])
    (hissue : s.tileWaiting (s.inp.part * 8 + h) = false) :
    exec .leaseExpiry s = .next (s.setCluster s.inp.part ((s.cluster s.inp.part).passOn s.cycle)) := by
  have hcycles : leaseCycles ≤ s.cycle - (s.cluster s.inp.part).leaseSince := hlong
  show execLeaseExpiry s = _
  simp only [execLeaseExpiry, hholder, hcycles, hwaiting, hissue, ne_eq, not_false_eq_true, Bool.not_false, and_self, if_true]

/-- SPINDLE_GO at an idle core of a context. -/
theorem spindleGo_next {s : State} {key : Nat} (hkey : key = s.inp.spindle) (hbusy : (s.unit key).busy = false) (hctx : s.ctxOf key ≠ 16) :
    exec .spindleGo s = .next (s.withStarted key) := by
  subst hkey
  show execSpindleGo s = _
  simp only [execSpindleGo, hbusy, hctx, Bool.false_eq_true, or_self, if_false]
  rfl

/-- SPINDLE_HALT of a core that is not stopped on an event. -/
theorem spindleHalt_next {s : State} {key : Nat} (hkey : key = s.inp.spindle) (hreq : (s.unit key).haltReq = true) (hev : (s.unit key).event = none) :
    exec .spindleHalt s = .next (s.haltSpindle key) := by
  subst hkey
  show execSpindleHalt s = _
  simp only [execSpindleHalt, hreq, hev, Option.isNone_none, and_self, if_true]

/-- SPINDLE_IMAGE_LOAD from a place of the core's own scratchpad. -/
theorem spindleImageLoad_next {s : State} {key : Nat} (hkey : key = s.inp.spindle) (halign : s.inp.word0.toNat % 4096 = 0)
    (hplace : OwnScratch s s.inp.core s.inp.word0) :
    exec .spindleImageLoad s = .next ((s.readied key).withImage key (scratchKey s.inp.core (s.inp.word0.toNat % 2 ^ 20))) := by
  subst hkey
  show execSpindleImageLoad s = _
  rw [execSpindleImageLoad, loadImage_own _ halign hplace]
  rfl

/-- Settles O48: each step's outcome is known from its hypotheses, and the laws above say what it holds. -/
theorem unitSteps : Obligations.UnitSteps := by
  intro s key u z c
  refine ⟨?loadReturn, ?storePerformed, ?lockRetry, ?idle, ?lease, ?go, ?halt, ?image⟩
  case loadReturn =>
    intro p rest hanswer hpend hlast _
    refine ⟨_, loadReturn_next rfl hanswer hpend, rfl, ?_⟩
    rw [state_setUnit_same]
    exact ⟨rfl, rfl, returned_readX hpend hlast _, returned_readV hpend hlast _, returned_readTm hpend hlast _⟩
  case storePerformed =>
    intro o w hop hkind hctr hacked hin hunit
    have next := storePerformed_next hop hkind hacked
    rw [endOp_onUnit _ _ hin hunit, hctr] at next
    refine ⟨_, next, rfl, rfl, ?_⟩
    rw [state_setUnit_same]
    rfl
  case lockRetry =>
    intro w l hwait hst hhalted hkind hlong hplace hfar
    exact ⟨_, lockRemoteRetry_next rfl hwait hst hhalted hkind hlong hplace hfar, rfl⟩
  case idle =>
    intro since till hhold hover
    exact ⟨_, idleWaitExpiry_next rfl hhold hover, rfl⟩
  case lease =>
    intro h w hholder hlong hw hwaiting hissue
    refine ⟨_, leaseExpiry_next hholder hlong (by rw [hwaiting]; exact List.cons_ne_nil _ _) hissue, ?_⟩
    rw [state_setCluster_same]
    exact passOn_single s.cycle hw hwaiting
  case go =>
    intro hbusy hctx
    have starts := spindleGo_starts s.fresh hbusy
    refine ⟨_, spindleGo_next (key := z) rfl hbusy hctx, ?_⟩
    rw [withStarted_unit]
    exact ⟨starts.busy, starts.st, starts.pc, starts.registers, starts.loads, starts.stores⟩
  case halt =>
    intro hreq hev
    exact ⟨_, spindleHalt_next (key := z) rfl hreq hev, haltSpindle_stopped s z⟩
  case image =>
    intro v halign hwindow hscope hwithin hcube hcore
    have next := spindleImageLoad_next (key := z) rfl halign ⟨hwindow, hscope, hwithin, hcube, hcore⟩
    refine ⟨_, next, fun j hj => withImage_imem _ _ _ hj, fun hbusy => ?_, fun hbusy hev => ?_, fun hbusy hev => ?_⟩
    · rw [readied_idle hbusy]
      rfl
    · obtain ⟨idle, st, -⟩ := haltSpindle_stopped s z
      rw [readied_running hbusy hev, withImage_busy, withImage_st]
      exact ⟨idle, st⟩
    · rw [readied_stopped hbusy hev, withImage_haltReq, state_setUnit_same]
      exact ⟨rfl, rfl⟩

end Sys2Proof.Proofs
end

section
namespace Sys2Proof.Machine
open Sys2Proof Host

/-! ## The cube right after power-on (R20, R24, R290, R313, R321): its tables list nothing -/

theorem reset_ctx (c : Nat) : State.reset.ctx c = {} := rfl
theorem reset_cluster (c : Nat) : State.reset.cluster c = {} := rfl
theorem reset_core (c : Nat) : State.reset.core c = {} := rfl
theorem reset_die (d : Nat) : State.reset.die d = {} := rfl
theorem reset_bank (b : Nat) : State.reset.bank b = {} := rfl
theorem reset_link (l : Nat) : State.reset.link l = {} := rfl

end Sys2Proof.Machine

namespace Sys2Proof.Proofs
open Sys2Proof Sys2Proof.Machine Sys2Proof.Stated Host

/-- Settles O58: an unlisted context, cluster, link, die, bank or core reads as its initial value, which holds what the spec states of it. -/
theorem resetValues : Obligations.ResetValues := by
  refine ⟨fun c => ?_, fun c => ?_, fun l => ?_, rfl, rfl, rfl, rfl, rfl, rfl, fun d => ?_, fun b => ?_, fun c => ?_⟩
  · rw [reset_ctx]; exact ⟨rfl, rfl, rfl⟩
  · rw [reset_cluster]
  · rw [reset_link]
  · rw [reset_die]; exact ⟨rfl, rfl⟩
  · rw [reset_bank]; exact ⟨rfl, rfl⟩
  · rw [reset_core]; exact ⟨rfl, rfl, rfl, rfl⟩

end Sys2Proof.Proofs
end
